-- ==== Sys2Proof/Word.lean ====
section
/-!
DEFINITION. The words the machine computes with: 64-bit scalars (R89), bytes, vector registers (R112), masks (R113),
tiles (R146), accumulators (R150) and instruction words (R50).
-/
namespace Sys2Proof

abbrev Word := BitVec 64
abbrev Byte := BitVec 8
abbrev VReg := BitVec 4096
abbrev KReg := BitVec 512
abbrev Tile := BitVec 131072
abbrev Acc := BitVec 524288
abbrev IWord := BitVec 96
abbrev Reg := BitVec 6

/-- A map from numbers to values that lists only what differs from a default value: keys strictly rising. -/
abbrev Sparse (α : Type) := List (Nat × α)

end Sys2Proof
end

