-- ==== Sys2Proof/Machine/Bits.lean ====
section
/-!
DEFINITION. Sparse maps in one canonical form, bit fields and little-endian byte lists (R3).
-/
namespace Sys2Proof

namespace Sparse
variable {α : Type}

/-- What key `k` holds; `d` where nothing is listed. -/
def get (d : α) : Sparse α → Nat → α
  | [], _ => d
  | (a, x) :: r, k => if a = k then x else get d r k

/-- List `k` before the first greater key. -/
def ins (k : Nat) (v : α) : Sparse α → Sparse α
  | [] => [(k, v)]
  | (a, x) :: r => if k < a then (k, v) :: (a, x) :: r else (a, x) :: ins k v r

/-- Write `v` at `k`; the default value is not listed. -/
def set [DecidableEq α] (d : α) (m : Sparse α) (k : Nat) (v : α) : Sparse α :=
  let m' := m.filter (fun p => p.1 ≠ k)
  if v = d then m' else ins k v m'

/-- Change the value at `k`. -/
def modify [DecidableEq α] (d : α) (m : Sparse α) (k : Nat) (f : α → α) : Sparse α :=
  set d m k (f (get d m k))

/-- Change every listed value. -/
def mapVals [DecidableEq α] (d : α) (m : Sparse α) (f : α → α) : Sparse α :=
  (m.map fun p => (p.1, f p.2)).filter fun p => p.2 ≠ d

/-- Move every entry to the key `f` gives. -/
def rekey [DecidableEq α] (d : α) (m : Sparse α) (f : Nat → Nat) : Sparse α := m.foldl (fun r p => set d r (f p.1) p.2) []

/-- The entries of `[a, a+n)`, moved down to start at 0. -/
def window (m : Sparse α) (a n : Nat) : Sparse α :=
  (m.filter (fun p => a ≤ p.1 && p.1 < a + n)).map (fun p => (p.1 - a, p.2))

/-- Replace `[a, a+n)` by the entries of `c` that lie below `n`. -/
def overlay (m : Sparse α) (a n : Nat) (c : Sparse α) : Sparse α :=
  m.filter (fun p => p.1 < a) ++ (c.filter (fun p => p.1 < n)).map (fun p => (p.1 + a, p.2))
    ++ m.filter (fun p => a + n ≤ p.1)

/-- The entries that differ from `d` of a list laid out from key `a` up. -/
def ofList [DecidableEq α] (d : α) : Nat → List α → Sparse α
  | _, [] => []
  | a, x :: r => if x = d then ofList d (a + 1) r else (a, x) :: ofList d (a + 1) r

/-- Write the list `xs` at `a`, `a+1`, and so on. -/
def blit [DecidableEq α] (d : α) (m : Sparse α) (a : Nat) (xs : List α) : Sparse α :=
  overlay m a xs.length (ofList d 0 xs)

/-- The `n` values from key `a` up. -/
def read (d : α) (m : Sparse α) (a n : Nat) : List α :=
  (List.range n).map (fun i => get d m (a + i))

/-- Keys strictly rising from `lo` on and no entry equal to the default. -/
def wfFrom [DecidableEq α] (d : α) : Nat → Sparse α → Bool
  | _, [] => true
  | lo, (a, x) :: r => decide (lo ≤ a) && decide (x ≠ d) && wfFrom d (a + 1) r

/-- The canonical form. -/
def wf [DecidableEq α] (d : α) (m : Sparse α) : Bool := wfFrom d 0 m

end Sparse

/-- Bits `hi:lo` of a number. -/
def bits (x hi lo : Nat) : Nat := (x >>> lo) % 2 ^ (hi + 1 - lo)

/-- Bit `i` of a number. -/
def bit (x i : Nat) : Bool := x.testBit i

def b2n (b : Bool) : Nat := if b then 1 else 0

/-- Read the low `w` bits of `x` as a two's complement number. -/
def toSigned (w x : Nat) : Int :=
  if (x % 2 ^ w) < 2 ^ (w - 1) then ((x % 2 ^ w : Nat) : Int) else ((x % 2 ^ w : Nat) : Int) - ((2 ^ w : Nat) : Int)

/-- The low `w` bits of an integer (R98: reduced modulo 2^w). -/
def wrapTo (w : Nat) (x : Int) : Nat := (x % ((2 ^ w : Nat) : Int)).toNat

/-- Sign-extend the low `w` bits of `x` to a word. -/
def sext64 (w x : Nat) : Word := BitVec.ofInt 64 (toSigned w x)

/-- Little-endian value of a byte list (R3). -/
def leNat : List Byte → Nat
  | [] => 0
  | b :: r => b.toNat + 256 * leNat r

/-- The `n` little-endian bytes of a number (R3). -/
def leBytes : Nat → Nat → List Byte
  | 0, _ => []
  | n + 1, x => BitVec.ofNat 8 x :: leBytes n (x / 256)

/-- Lay fields of the given widths out from bit 0 up: the value of each is taken modulo its width. -/
def packBits : List (Nat × Nat) → Nat
  | [] => 0
  | (w, x) :: r => x % 2 ^ w + 2 ^ w * packBits r

/-- The fields of the given widths, from bit 0 up. -/
def unpackBits : List Nat → Nat → List Nat
  | [], _ => []
  | w :: r, x => x % 2 ^ w :: unpackBits r (x / 2 ^ w)

/-- The value of the bytes of `[a, a+n)` of a byte map, little-endian. -/
def regionNat (m : Sparse Byte) (a n : Nat) : Nat :=
  (Sparse.window m a n).foldl (fun acc p => acc ||| (p.2.toNat <<< (8 * p.1))) 0

/-- The nonzero bytes of the low `n` bytes of a number, as a byte map. -/
def natCells (n x : Nat) : Sparse Byte := Sparse.ofList 0#8 0 (leBytes n x)

/-- Ceiling of a quotient. -/
def ceilDiv (a b : Nat) : Nat := (a + b - 1) / b

end Sys2Proof
end

