-- ==== Sys2Proof/Machine/Float.lean ====
section
/-!
DEFINITION. Number formats (R68, R69), the rounding functions (R72, R73), conversions (R74) and the exact arithmetic
every engine shares (R126, R127). A flag set is a number in the VFL bit order of R75: 16 invalid, 8 divide by zero,
4 overflow, 2 underflow, 1 inexact.
-/
namespace Sys2Proof

/-- What a format's all-ones exponent means (R68). -/
inductive SpecialKind where
  /-- infinity and NaNs with a quiet bit -/
  | ieee
  /-- E4M3: a NaN only, always quiet -/
  | nanOnly
  /-- every pattern is finite -/
  | none
deriving DecidableEq, Repr

/-- The parameters of a float format (R68). -/
structure Fmt where
  ebits : Nat
  tbits : Nat
  bias  : Nat
  kind  : SpecialKind
deriving DecidableEq, Repr

namespace Fmt
def f64 : Fmt := ⟨11, 52, 1023, .ieee⟩
def f32 : Fmt := ⟨8, 23, 127, .ieee⟩
def bf16 : Fmt := ⟨8, 7, 127, .ieee⟩
def f16 : Fmt := ⟨5, 10, 15, .ieee⟩
def e5m2 : Fmt := ⟨5, 2, 15, .ieee⟩
def e4m3 : Fmt := ⟨4, 3, 7, .nanOnly⟩
def e3m2 : Fmt := ⟨3, 2, 3, .none⟩
def e2m3 : Fmt := ⟨2, 3, 1, .none⟩
def e2m1 : Fmt := ⟨2, 1, 1, .none⟩

def width (F : Fmt) : Nat := 1 + F.ebits + F.tbits
def signBit (F : Fmt) : Nat := 2 ^ (F.ebits + F.tbits)
def emin (F : Fmt) : Int := 1 - (F.bias : Int)
/-- The precision with the hidden bit. -/
def prec (F : Fmt) : Nat := F.tbits + 1
/-- Magnitude pattern of the largest finite value (R68). -/
def maxMag (F : Fmt) : Nat :=
  match F.kind with
  | .ieee => (2 ^ F.ebits - 1) * 2 ^ F.tbits - 1
  | .nanOnly => 2 ^ (F.ebits + F.tbits) - 2
  | .none => 2 ^ (F.ebits + F.tbits) - 1
/-- Magnitude pattern of infinity, where the format has one. -/
def infMag (F : Fmt) : Nat := (2 ^ F.ebits - 1) * 2 ^ F.tbits
/-- The canonical quiet NaN (R69); +0 where the format has none (R74). -/
def nan (F : Fmt) : Nat :=
  match F.kind with
  | .ieee => F.infMag + 2 ^ (F.tbits - 1)
  | .nanOnly => 2 ^ (F.ebits + F.tbits) - 1
  | .none => 0
def withSign (F : Fmt) (neg : Bool) (mag : Nat) : Nat := if neg then F.signBit + mag else mag
end Fmt

/-- The value of a pattern (R68): a finite value is `mant * 2^exp`. -/
inductive FVal where
  | nan (signalling : Bool)
  | inf (neg : Bool)
  | fin (neg : Bool) (mant : Nat) (exp : Int)
deriving DecidableEq, Repr

/-- Read a pattern in format `F` (R68, R69). -/
def Fmt.decode (F : Fmt) (x : Nat) : FVal :=
  let neg := x.testBit (F.ebits + F.tbits)
  let mag := x % F.signBit
  let e := mag / 2 ^ F.tbits
  let t := mag % 2 ^ F.tbits
  let finite : FVal :=
    if e = 0 then .fin neg t (F.emin - F.tbits)
    else .fin neg (2 ^ F.tbits + t) ((e : Int) - F.bias - F.tbits)
  match F.kind with
  | .ieee =>
    if e = 2 ^ F.ebits - 1 then
      if t = 0 then .inf neg else .nan (t < 2 ^ (F.tbits - 1))
    else finite
  | .nanOnly => if mag = 2 ^ (F.ebits + F.tbits) - 1 then .nan false else finite
  | .none => finite

/-- Rounding modes (R54). -/
inductive Rnd where
  | rne | rtz | rdn | rup | sr
deriving DecidableEq, Repr

def Rnd.ofCode : Nat → Option Rnd
  | 0 => some .rne
  | 1 => some .rtz
  | 2 => some .rdn
  | 3 => some .rup
  | 4 => some .sr
  | _ => none

/-- An exact real: `±mant * 2^exp`, or, with `sticky`, a value strictly between that and `±(mant + 1) * 2^exp`. A
sticky value carries at least 28 bits more than the format it is rounded to. -/
structure Exact where
  neg    : Bool
  mant   : Nat
  exp    : Int
  sticky : Bool
deriving DecidableEq, Repr

/-- The result and the flags of one rounding. -/
abbrev Rounded := Nat × Nat

def flInvalid : Nat := 16
def flDivZero : Nat := 8
def flOverflow : Nat := 4
def flUnderflow : Nat := 2
def flInexact : Nat := 1

/-- The value of `overflow()` (R73). -/
def overflowPattern (F : Fmt) (m : Rnd) (sat neg : Bool) : Nat :=
  let big := F.withSign neg F.maxMag
  let top := match F.kind with
    | .ieee => F.withSign neg F.infMag
    | .nanOnly => F.nan
    | .none => big
  if sat then big
  else match m with
    | .rne => top
    | .sr => top
    | .rtz => big
    | .rup => if neg then big else top
    | .rdn => if neg then top else big

/-- The rounding functions of R72. `draw` is the 24-bit stochastic draw. -/
def roundExact (F : Fmt) (m : Rnd) (sat : Bool) (draw : Nat) (x : Exact) : Rounded :=
  if x.mant = 0 && !x.sticky then (F.withSign x.neg 0, 0)
  else
    let e : Int := max ((Nat.log2 x.mant : Int) + x.exp) F.emin
    let shift : Int := e - F.tbits - x.exp
    let down : Nat := shift.toNat
    let n0 : Nat := if shift ≤ 0 then x.mant * 2 ^ (-shift).toNat else x.mant / 2 ^ down
    let rem : Nat := if shift ≤ 0 then 0 else x.mant % 2 ^ down
    let span : Nat := 2 ^ down
    let inexact := rem ≠ 0 || x.sticky
    let above := 2 * rem > span || (2 * rem = span && x.sticky)
    let tie := 2 * rem = span && !x.sticky
    let fl := rem * 2 ^ 24 / span
    let ce := if rem * 2 ^ 24 % span ≠ 0 || x.sticky then fl + 1 else fl
    let away : Bool := inexact && match m with
      | .rne => above || (tie && n0 % 2 = 1)
      | .rtz => false
      | .rdn => x.neg
      | .rup => !x.neg
      | .sr => if x.neg then !(draw < 2 ^ 24 - ce) else decide (draw < fl)
    let n := if away then n0 + 1 else n0
    let mag : Nat := (e - F.emin).toNat * 2 ^ F.tbits + n
    if mag > F.maxMag then (overflowPattern F m sat x.neg, flOverflow ||| flInexact)
    else (F.withSign x.neg mag,
      if inexact then (if mag < 2 ^ F.tbits then flUnderflow ||| flInexact else flInexact) else 0)

/-- A finite value as an exact real. -/
def exactOf (neg : Bool) (mant : Nat) (exp : Int) : Exact := ⟨neg, mant, exp, false⟩

/-- An integer as an exact real. -/
def exactInt (x : Int) : Exact := ⟨x < 0, x.natAbs, 0, false⟩

def fint (neg : Bool) (n : Nat) : Int := if neg then -(n : Int) else n

/-- The exact sum of two finite values, with the sign of an exact zero sum by IEEE 754 in the given mode. -/
def exactSum (m : Rnd) (na : Bool) (ma : Nat) (ea : Int) (nb : Bool) (mb : Nat) (eb : Int) : Exact :=
  let e := min ea eb
  let s := fint na (ma * 2 ^ (ea - e).toNat) + fint nb (mb * 2 ^ (eb - e).toNat)
  if s = 0 then
    if ma = 0 && mb = 0 && na = nb then ⟨na, 0, e, false⟩
    else ⟨m = .rdn, 0, e, false⟩
  else ⟨s < 0, s.natAbs, e, false⟩

/-- The canonical NaN, with the invalid flag where asked. -/
def nanOut (F : Fmt) (invalid : Bool) : Rounded := (F.nan, if invalid then flInvalid else 0)

def infOut (F : Fmt) (neg : Bool) : Rounded := (F.withSign neg F.infMag, 0)

def FVal.isNan : FVal → Bool
  | .nan _ => true
  | _ => false
def FVal.isSnan : FVal → Bool
  | .nan s => s
  | _ => false
def FVal.negate : FVal → FVal
  | .nan s => .nan s
  | .inf n => .inf !n
  | .fin n m e => .fin (!n) m e
def FVal.isNeg : FVal → Bool
  | .nan _ => false
  | .inf n => n
  | .fin n _ _ => n
def FVal.isZero : FVal → Bool
  | .fin _ m _ => m = 0
  | _ => false

/-- A sum of two values, rounded once (R126, R127). -/
def addVal (F : Fmt) (m : Rnd) (sat : Bool) (draw : Nat) (a b : FVal) : Rounded :=
  match a, b with
  | .nan s, y => nanOut F (s || y.isSnan)
  | x, .nan s => nanOut F (s || x.isSnan)
  | .inf x, .inf y => if x = y then infOut F x else nanOut F true
  | .inf x, .fin _ _ _ => infOut F x
  | .fin _ _ _, .inf y => infOut F y
  | .fin na ma ea, .fin nb mb eb => roundExact F m sat draw (exactSum m na ma ea nb mb eb)

/-- A product, rounded once. -/
def mulVal (F : Fmt) (m : Rnd) (sat : Bool) (draw : Nat) (a b : FVal) : Rounded :=
  match a, b with
  | .nan s, y => nanOut F (s || y.isSnan)
  | x, .nan s => nanOut F (s || x.isSnan)
  | .inf x, .inf y => infOut F (x != y)
  | .inf x, .fin n mb _ => if mb = 0 then nanOut F true else infOut F (x != n)
  | .fin n ma _, .inf y => if ma = 0 then nanOut F true else infOut F (n != y)
  | .fin na ma ea, .fin nb mb eb => roundExact F m sat draw ⟨na != nb, ma * mb, ea + eb, false⟩

/-- A fused multiply-add, rounded once (R127: infinity times zero is invalid even beside a quiet NaN). DESIGN CHOICE for the FP64 form
of `mma`, of which R82 does not say it (log entry 97): the same. -/
def fmaVal (F : Fmt) (m : Rnd) (sat : Bool) (draw : Nat) (a b c : FVal) : Rounded :=
  let infZero : Bool := match a, b with
    | .inf _, .fin _ mb _ => mb = 0
    | .fin _ ma _, .inf _ => ma = 0
    | _, _ => false
  if infZero then nanOut F true
  else if a.isNan || b.isNan || c.isNan then nanOut F (a.isSnan || b.isSnan || c.isSnan)
  else
    match a, b, c with
    | .fin na ma ea, .fin nb mb eb, .fin nc mc ec =>
      roundExact F m sat draw (exactSum m (na != nb) (ma * mb) (ea + eb) nc mc ec)
    | .fin _ _ _, .fin _ _ _, .inf nc => infOut F nc
    | x, y, .inf nc => if (x.isNeg != y.isNeg) = nc then infOut F nc else nanOut F true
    | x, y, _ => infOut F (x.isNeg != y.isNeg)

/-- A quotient of naturals as an exact real with enough bits for any format. -/
def exactDiv (neg : Bool) (ma : Nat) (ea : Int) (mb : Nat) (eb : Int) : Exact :=
  let k : Nat := 100 + Nat.log2 mb
  ⟨neg, ma * 2 ^ k / mb, ea - eb - k, ma * 2 ^ k % mb ≠ 0⟩

def divVal (F : Fmt) (m : Rnd) (sat : Bool) (draw : Nat) (a b : FVal) : Rounded :=
  match a, b with
  | .nan s, y => nanOut F (s || y.isSnan)
  | x, .nan s => nanOut F (s || x.isSnan)
  | .inf _, .inf _ => nanOut F true
  | .inf x, .fin n _ _ => infOut F (x != n)
  | .fin n _ _, .inf y => (F.withSign (n != y) 0, 0)
  | .fin na ma ea, .fin nb mb eb =>
    if mb = 0 then
      if ma = 0 then nanOut F true
      else (F.withSign (na != nb) F.infMag, flDivZero)
    else roundExact F m sat draw (exactDiv (na != nb) ma ea mb eb)

/-- The integer square root, one bit at a time from bit `n - 1` down. -/
def isqrtFrom : Nat → Nat → Nat → Nat
  | 0, r, _ => r
  | n + 1, r, x =>
    let t := r + 2 ^ n
    isqrtFrom n (if t * t ≤ x then t else r) x

def isqrt (x : Nat) : Nat := isqrtFrom (Nat.log2 x / 2 + 1) 0 x

/-- The square root of a positive finite value. -/
def exactSqrt (ma : Nat) (ea : Int) : Exact :=
  let adj : Nat := if ea % 2 = 0 then 0 else 1
  let k : Nat := 200
  let x := ma * 2 ^ (k + adj)
  let r := isqrt x
  ⟨false, r, (ea - adj - k) / 2, r * r ≠ x⟩

/-- 1 divided by the square root of a positive finite value: the root of an exact quotient. -/
def exactRsqrt (ma : Nat) (ea : Int) : Exact :=
  let adj : Nat := if ea % 2 = 0 then 0 else 1
  -- 1 / sqrt(ma * 2^ea) = sqrt(2^(2k) / (ma * 2^adj)) * 2^(-k - (ea - adj)/2)
  let k : Nat := 200 + Nat.log2 ma
  let d := ma * 2 ^ adj
  let q := 2 ^ (2 * k) / d
  let r := isqrt q
  ⟨false, r, -(k : Int) - (ea - adj) / 2, 2 ^ (2 * k) % d ≠ 0 || r * r ≠ q⟩

/-! ### Exponential, logarithm, hyperbolic tangent and error function: bounds of any precision

A bound is a pair of integers `(lo, hi)` that stands for `[lo, hi] * 2^-K`. -/

abbrev Bounds := Int × Int

def cdivInt (a : Int) (b : Nat) : Int := -((-a) / (b : Int))

namespace Bounds
def add (a b : Bounds) : Bounds := (a.1 + b.1, a.2 + b.2)
def sub (a b : Bounds) : Bounds := (a.1 - b.2, a.2 - b.1)
/-- The product of two bounds. -/
def mul (K : Nat) (a b : Bounds) : Bounds :=
  let p := [a.1 * b.1, a.1 * b.2, a.2 * b.1, a.2 * b.2]
  (p.foldl min (a.1 * b.1) / (2 ^ K : Nat), cdivInt (p.foldl max (a.1 * b.1)) (2 ^ K))
def divNat (a : Bounds) (n : Nat) : Bounds := (a.1 / (n : Int), cdivInt a.2 n)
/-- A quotient by a bound that is positive. -/
def div (K : Nat) (a b : Bounds) : Bounds :=
  let f (n d : Int) : Bounds := ((n * (2 ^ K : Nat)) / d, cdivInt (n * (2 ^ K : Nat)) d.toNat)
  let p := [f a.1 b.1, f a.1 b.2, f a.2 b.1, f a.2 b.2]
  (p.foldl (fun x y => min x y.1) (f a.1 b.1).1, p.foldl (fun x y => max x y.2) (f a.1 b.1).2)
/-- `n / d`. -/
def rat (K : Nat) (n : Int) (d : Nat) : Bounds := (n * (2 ^ K : Nat) / (d : Int), cdivInt (n * (2 ^ K : Nat)) d)
def widen (a : Bounds) (e : Int) : Bounds := (a.1 - e, a.2 + e)
def one (K : Nat) : Bounds := (((2 ^ K : Nat) : Int), ((2 ^ K : Nat) : Int))
end Bounds

/-- Sum of `z^i / i!` terms: `n` terms from term `i` whose value is `t`. -/
def expSum (K : Nat) (z : Bounds) : Nat → Nat → Bounds → Bounds → Bounds
  | 0, _, t, s => Bounds.widen s (2 * max t.2.natAbs t.1.natAbs + 4)
  | n + 1, i, t, s => expSum K z n (i + 1) (Bounds.divNat (Bounds.mul K t z) (i + 1)) (Bounds.add s t)

/-- Bounds of `exp z` for `|z| ≤ 1`. -/
def expBounds (K : Nat) (z : Bounds) : Bounds := expSum K z (K / 3 + 16) 0 (Bounds.one K) (0, 0)

/-- Sum of `z^(2i+1) / (2i+1)` terms for `0 ≤ z ≤ 1/3`. -/
def atanhSum (K : Nat) (z2 : Bounds) : Nat → Nat → Bounds → Bounds → Bounds
  | 0, _, t, s => Bounds.widen s (2 * max t.2.natAbs t.1.natAbs + 4)
  | n + 1, i, t, s => atanhSum K z2 n (i + 2) (Bounds.mul K t z2) (Bounds.add s (Bounds.divNat t i))

def atanhBounds (K : Nat) (z : Bounds) : Bounds := atanhSum K (Bounds.mul K z z) (K / 3 + 4) 1 z (0, 0)

def ln2Bounds (K : Nat) : Bounds :=
  let a := atanhBounds K (Bounds.rat K 1 3)
  (2 * a.1, 2 * a.2)

/-- Sum of `(-1)^i / ((2i+1) q^(2i+1))` terms. -/
def atanInvSum (K : Nat) (q2 : Nat) : Nat → Nat → Bool → Bounds → Bounds → Bounds
  | 0, _, _, t, s => Bounds.widen s (2 * max t.2.natAbs t.1.natAbs + 4)
  | n + 1, i, pos, t, s =>
    let u := Bounds.divNat t i
    atanInvSum K q2 n (i + 2) (!pos) (Bounds.divNat t q2) (if pos then Bounds.add s u else Bounds.sub s u)

/-- Bounds of pi by Machin's formula. -/
def piBounds (K : Nat) : Bounds :=
  let a := atanInvSum K 25 (K / 4 + 4) 1 true (Bounds.rat K 1 5) (0, 0)
  let b := atanInvSum K 57121 (K / 8 + 4) 1 true (Bounds.rat K 1 239) (0, 0)
  Bounds.sub (16 * a.1, 16 * a.2) (4 * b.1, 4 * b.2)

/-- Bounds of the value `m * 2^e`. -/
def dyadicBounds (K : Nat) (m : Int) (e : Int) : Bounds :=
  if e ≥ 0 then let x := m * (2 ^ (e.toNat + K) : Nat); (x, x)
  else Bounds.rat K m (2 ^ (-e).toNat)

/-- Sum of `(-1)^n x^(2n+1) / (n! (2n+1))` terms. -/
def erfSum (K : Nat) (x2 : Bounds) : Nat → Nat → Bounds → Bounds → Bounds
  | 0, _, t, s => Bounds.widen s (2 * max t.2.natAbs t.1.natAbs + 4)
  | n + 1, i, t, s =>
    let u := Bounds.divNat t (2 * i + 1)
    erfSum K x2 n (i + 1) (Bounds.divNat (Bounds.mul K t x2) (i + 1))
      (if i % 2 = 0 then Bounds.add s u else Bounds.sub s u)

/-- Bounds of a function of `x = m * 2^e` at precision `K`. -/
abbrev BoundFn := Nat → Bounds

/-- Try rising precisions until both bounds have one floor at 60 significant bits; the value lies strictly between
multiples of the last bit kept. -/
def exactOfBounds (neg : Bool) (f : BoundFn) : List Nat → Exact
  | [] => ⟨neg, 0, 0, true⟩
  | K :: r =>
    let b := f K
    let lo := b.1.toNat
    let hi := b.2.toNat
    let drop := Nat.log2 lo - 60
    if Nat.log2 lo ≥ 60 && lo >>> drop = hi >>> drop then ⟨neg, lo >>> drop, (drop : Int) - K, true⟩
    else exactOfBounds neg f r

def precisions : List Nat := [160, 400, 800, 1600, 3200]

/-- The integer part and the fraction bounds of `m * 2^e`. -/
def floorDyadic (m : Int) (e : Int) : Int := if e ≥ 0 then m * (2 ^ e.toNat : Nat) else m / ((2 ^ (-e).toNat : Nat) : Int)

/-- 2 to the power of a finite value. -/
def exactExp2 (neg : Bool) (m : Nat) (e : Int) : Exact :=
  let x := fint neg m
  if m ≠ 0 && (Nat.log2 m : Int) + e ≥ 12 then
    if neg then ⟨false, 2 ^ 60, -5000, true⟩ else ⟨false, 2 ^ 60, 5000, true⟩
  else
    let n := floorDyadic x e
    let isInt : Bool := e ≥ 0 || m % 2 ^ (-e).toNat = 0
    if isInt then ⟨false, 1, n, false⟩
    else
      let r := exactOfBounds false (fun K =>
        let f := Bounds.sub (dyadicBounds K x e) (dyadicBounds K n 0)
        expBounds K (Bounds.mul K f (ln2Bounds K))) precisions
      { r with exp := r.exp + n }

/-- The base-2 logarithm of a positive finite value. -/
def exactLog2 (m : Nat) (e : Int) : Exact :=
  let k := Nat.log2 m
  let n : Int := (k : Int) + e
  if m = 2 ^ k then exactInt n
  else
    -- value = 2^n * (1 + f), ln (1 + f) = 2 atanh (f / (2 + f))
    let num := m - 2 ^ k
    let den := m + 2 ^ k
    let val (K : Nat) : Bounds :=
      let a := atanhBounds K (Bounds.rat K num den)
      Bounds.add (dyadicBounds K n 0) (Bounds.div K (2 * a.1, 2 * a.2) (ln2Bounds K))
    if n ≥ 0 then exactOfBounds false val precisions
    else exactOfBounds true (fun K => let b := val K; (-b.2, -b.1)) precisions

/-- tanh of the positive value `m * 2^e`: (y - 1) / (y + 1) with y = exp (2x). -/
def exactTanh (neg : Bool) (m : Nat) (e : Int) : Exact :=
  if (Nat.log2 m : Int) + e ≥ 6 then ⟨neg, 2 ^ 60 - 1, -60, true⟩
  else
    exactOfBounds neg (fun K =>
      let x := dyadicBounds K m e
      let l := ln2Bounds K
      -- n approximates 2x / ln 2; any n near it serves
      let n : Nat := (Bounds.div K (2 * x.1, 2 * x.2) l).1.toNat / 2 ^ K
      let z := Bounds.sub (2 * x.1, 2 * x.2) (l.1 * n, l.2 * n)
      let y0 := expBounds K z
      let y : Bounds := (y0.1 * (2 ^ n : Nat), y0.2 * (2 ^ n : Nat))
      Bounds.div K (Bounds.sub y (Bounds.one K)) (Bounds.add y (Bounds.one K))) precisions

/-- erf of the positive value `m * 2^e`: its Taylor series times 2 / sqrt(pi). -/
def exactErf (neg : Bool) (m : Nat) (e : Int) : Exact :=
  if (Nat.log2 m : Int) + e ≥ 3 then ⟨neg, 2 ^ 60 - 1, -60, true⟩
  else
    exactOfBounds neg (fun K =>
      let x := dyadicBounds K m e
      let s := erfSum K (Bounds.mul K x x) (K + 220) 0 x (0, 0)
      let p := piBounds K
      let r : Bounds := ((isqrt (p.1.toNat * 2 ^ K) : Nat), ((isqrt (p.2.toNat * 2 ^ K) + 1 : Nat) : Int))
      Bounds.div K (2 * s.1, 2 * s.2) r) precisions

/-- The single-operand functions of R126. -/
inductive Fn1 where
  | sqrt | rsqrt | rcp | exp2 | log2 | tanh | erf
deriving DecidableEq, Repr

/-- A single-operand function, rounded once, with the special inputs of R127's table. -/
def fn1Val (F : Fmt) (m : Rnd) (sat : Bool) (draw : Nat) (f : Fn1) (a : FVal) : Rounded :=
  let one (neg : Bool) : Rounded := roundExact F .rne false 0 (exactOf neg 1 0)
  let dz (neg : Bool) : Rounded := (F.withSign neg F.infMag, flDivZero)
  match a with
  | .nan s => nanOut F s
  | .inf neg =>
    match f with
    | .sqrt => if neg then nanOut F true else infOut F false
    | .rsqrt => if neg then nanOut F true else (0, 0)
    | .rcp => (F.withSign neg 0, 0)
    | .exp2 => if neg then (0, 0) else infOut F false
    | .log2 => if neg then nanOut F true else infOut F false
    | .tanh => one neg
    | .erf => one neg
  | .fin neg mant e =>
    if mant = 0 then
      match f with
      | .sqrt => (F.withSign neg 0, 0)
      | .rsqrt => dz neg
      | .rcp => dz neg
      | .exp2 => one false
      | .log2 => dz true
      | .tanh => (F.withSign neg 0, 0)
      | .erf => (F.withSign neg 0, 0)
    else
      match f with
      | .sqrt => if neg then nanOut F true else roundExact F m sat draw (exactSqrt mant e)
      | .rsqrt => if neg then nanOut F true else roundExact F m sat draw (exactRsqrt mant e)
      | .rcp => roundExact F m sat draw (exactDiv neg 1 0 mant e)
      | .exp2 => roundExact F m sat draw (exactExp2 neg mant e)
      | .log2 => if neg then nanOut F true else roundExact F m sat draw (exactLog2 mant e)
      | .tanh => roundExact F m sat draw (exactTanh neg mant e)
      | .erf => roundExact F m sat draw (exactErf neg mant e)

/-- Order of two finite or infinite values: -1, 0 or 1; zeros of both signs are equal. -/
def cmpVal (a b : FVal) : Int :=
  let sgn (x : Int) : Int := if x < 0 then -1 else if x > 0 then 1 else 0
  match a, b with
  | .inf x, .inf y => if x = y then 0 else if x then -1 else 1
  | .inf x, _ => if x then -1 else 1
  | _, .inf y => if y then 1 else -1
  | .fin na ma ea, .fin nb mb eb =>
    let e := min ea eb
    sgn (fint na (ma * 2 ^ (ea - e).toNat) - fint nb (mb * 2 ^ (eb - e).toNat))
  | _, _ => 0

/-- minimum and maximum of IEEE 754-2019 on patterns of one format (R127). -/
def minMaxVal (F : Fmt) (wantMax : Bool) (pa pb : Nat) : Rounded :=
  let a := F.decode pa
  let b := F.decode pb
  if a.isNan || b.isNan then nanOut F (a.isSnan || b.isSnan)
  else
    let c := cmpVal a b
    let aLess : Bool := if c = 0 then a.isNeg && !b.isNeg else c < 0
    if aLess = wantMax then (pb, 0) else (pa, 0)

/-- A conversion from one float format to another (R72 to R74). -/
def cvtFF (S D : Fmt) (m : Rnd) (sat : Bool) (draw : Nat) (x : Nat) : Rounded :=
  match S.decode x with
  | .nan s => (D.nan, if s || D.kind = .none then flInvalid else 0)
  | .inf neg =>
    match D.kind with
    | .ieee => if sat then (D.withSign neg D.maxMag, flOverflow) else infOut D neg
    | .nanOnly => if sat then (D.withSign neg D.maxMag, flOverflow) else (D.nan, 0)
    | .none => (D.withSign neg D.maxMag, flOverflow)
  | .fin neg mant e => roundExact D m sat draw (exactOf neg mant e)

/-- An exact value rounded to an integer in the named mode; the second part says whether it was inexact. -/
def roundToInt (m : Rnd) (draw : Nat) (neg : Bool) (mant : Nat) (e : Int) : Int × Bool :=
  if e ≥ 0 then (fint neg (mant * 2 ^ e.toNat), false)
  else
    let span := 2 ^ (-e).toNat
    let n0 := mant / span
    let rem := mant % span
    let fl := rem * 2 ^ 24 / span
    let ce := if rem * 2 ^ 24 % span ≠ 0 then fl + 1 else fl
    let away : Bool := rem ≠ 0 && match m with
      | .rne => 2 * rem > span || (2 * rem = span && n0 % 2 = 1)
      | .rtz => false
      | .rdn => neg
      | .rup => !neg
      | .sr => if neg then !(draw < 2 ^ 24 - ce) else decide (draw < fl)
    (fint neg (if away then n0 + 1 else n0), rem ≠ 0)

def intMin (w : Nat) (signed : Bool) : Int := if signed then -((2 ^ (w - 1) : Nat) : Int) else 0
def intMax (w : Nat) (signed : Bool) : Int := if signed then ((2 ^ (w - 1) : Nat) : Int) - 1 else ((2 ^ w : Nat) : Int) - 1
def clampInt (w : Nat) (signed : Bool) (x : Int) : Int := max (intMin w signed) (min (intMax w signed) x)

/-- A conversion from a float to an integer of width `w` (R74). -/
def cvtFI (S : Fmt) (w : Nat) (signed : Bool) (m : Rnd) (sat : Bool) (draw : Nat) (x : Nat) : Rounded :=
  let bad : Nat := if signed then 2 ^ (w - 1) else 2 ^ w - 1
  match S.decode x with
  | .nan _ => (if sat then 0 else bad, flInvalid)
  | .inf neg =>
    if sat then (if neg then (if signed then 2 ^ (w - 1) else 0) else (intMax w signed).toNat, flOverflow)
    else (bad, flOverflow)
  | .fin neg mant e =>
    let r := roundToInt m draw neg mant e
    let c := clampInt w signed r.1
    if c = r.1 then (wrapTo w r.1, if r.2 then flInexact else 0)
    else if sat then (wrapTo w c, flInexact)
    else (bad, flInvalid)

/-- A conversion from an integer to a float (R74). -/
def cvtIF (D : Fmt) (m : Rnd) (sat : Bool) (draw : Nat) (x : Int) : Rounded := roundExact D m sat draw (exactInt x)

/-- A conversion from an integer to an integer (R74): the low bits, or a clamp. -/
def cvtII (w : Nat) (signed sat : Bool) (x : Int) : Nat := wrapTo w (if sat then clampInt w signed x else x)

/-- `x * 2^k` for a finite value. -/
def FVal.scale (v : FVal) (k : Int) : FVal :=
  match v with
  | .fin n m e => .fin n m (e + k)
  | x => x

/-- The ten classes of R129. -/
def classOf (F : Fmt) (x : Nat) : Nat :=
  match F.decode x with
  | .nan s => if s then 8 else 9
  | .inf neg => if neg then 0 else 7
  | .fin neg m _ =>
    if m = 0 then (if neg then 3 else 4)
    else if x % F.signBit < 2 ^ F.tbits then (if neg then 2 else 5)
    else (if neg then 1 else 6)

end Sys2Proof
end

