-- ==== Sys2Proof/Syntax.lean ====
section
/-!
DEFINITION. The instructions: one constructor per row of the opcode table. The rows that are words of a stream carry the
fields of their format (R57) and their guard (R50, R51); the slice words carry the fields of R297 and R298; the rows
that are events or firmware commands carry what the event names.
-/
namespace Sys2Proof

/-- The four engines of a core (R13): scalar, vector, matrix and copy. -/
inductive Engine where
  | s | v | m | c
deriving DecidableEq, Repr

/-- GNEG and GPRED (R50, R51). -/
structure Guard where
  neg  : BitVec 1
  pred : BitVec 4
deriving DecidableEq, Repr

/-- Format SR (scalar registers), R57. -/
structure SR where
  g : Guard
  d : BitVec 6
  a : BitVec 6
  b : BitVec 6
  c : BitVec 6
  pd : BitVec 4
  ty : BitVec 5
deriving DecidableEq, Repr

/-- Format SI (scalar immediate and control), R57. -/
structure SI where
  g : Guard
  d : BitVec 6
  a : BitVec 6
  ty : BitVec 5
  pd : BitVec 4
  imm : BitVec 48
deriving DecidableEq, Repr

/-- Format SM (scalar memory, atomics and lathe), R57. -/
structure SM where
  g : Guard
  cls : BitVec 4
  d : BitVec 6
  a : BitVec 6
  b : BitVec 6
  c : BitVec 6
  e : BitVec 6
  f : BitVec 6
  ord : BitVec 2
  scope : BitVec 2
  ty : BitVec 5
  scale : BitVec 2
  nr : BitVec 1
  te : BitVec 1
  rout : BitVec 4
  disp : BitVec 26
deriving DecidableEq, Repr

/-- Format SX (system, synchronisation and queues), R57. -/
structure SX where
  g : Guard
  cls : BitVec 4
  d : BitVec 6
  a : BitVec 6
  b : BitVec 6
  idx : BitVec 12
  ord : BitVec 2
  scope : BitVec 2
  imm : BitVec 32
deriving DecidableEq, Repr

/-- Format VR (vector registers), R57. -/
structure VR where
  g : Guard
  vd : BitVec 6
  va : BitVec 6
  vb : BitVec 6
  vc : BitVec 6
  sreg : BitVec 6
  m : BitVec 1
  k : BitVec 3
  ty : BitVec 5
  dty : BitVec 5
  rnd : BitVec 3
  sat : BitVec 1
  kd : BitVec 3
  ctl : BitVec 28
deriving DecidableEq, Repr

/-- Format VS (vector moves), R57. -/
structure VS where
  g : Guard
  cls : BitVec 4
  v : BitVec 6
  sbase : BitVec 6
  sidx : BitVec 6
  top : BitVec 15
  ord : BitVec 2
  scope : BitVec 2
  ty : BitVec 5
  m : BitVec 1
  k : BitVec 3
  disp : BitVec 32
deriving DecidableEq, Repr

/-- Format VP (repeat prefix), R57. -/
structure VP where
  g : Guard
  creg : BitVec 6
  count : BitVec 16
  dstep : BitVec 4
  astep : BitVec 4
  bstep : BitVec 4
  cstep : BitVec 4
  tstep : BitVec 4
deriving DecidableEq, Repr

/-- Format MM (matrix multiply), R57. -/
structure MM where
  g : Guard
  cls : BitVec 4
  acc : BitVec 3
  warp : BitVec 2
  weft : BitVec 2
  aty : BitVec 5
  bty : BitVec 5
  km1 : BitVec 13
  ord : BitVec 2
  scope : BitVec 2
  ta : BitVec 15
  tb : BitVec 15
  z : BitVec 1
deriving DecidableEq, Repr

/-- Format MA (accumulator operations), R57. -/
structure MA where
  g : Guard
  cls : BitVec 4
  acc : BitVec 3
  acc2 : BitVec 3
  top : BitVec 15
  ty : BitVec 5
  rnd : BitVec 3
  sat : BitVec 1
  ord : BitVec 2
  scope : BitVec 2
  sbase : BitVec 6
  imm : BitVec 32
deriving DecidableEq, Repr

/-- Format CC (copy engine), R57. -/
structure CC where
  g : Guard
  cls : BitVec 4
  tok : BitVec 6
  sa : BitVec 6
  sd : BitVec 6
  recd : BitVec 6
  ord : BitVec 2
  scope : BitVec 2
  ty : BitVec 5
  dty : BitVec 5
  rnd : BitVec 3
  sat : BitVec 1
  aux : BitVec 6
  tgt : BitVec 4
deriving DecidableEq, Repr

/-- The rows of the opcode table. -/
inductive Instr where
  | nop (e : Engine) (g : Guard)
  | rdv (e : Engine) (g : Guard)
  | add (f : SR)
  | sub (f : SR)
  | mul (f : SR)
  | mulh (f : SR)
  | madd (f : SR)
  | div (f : SR)
  | rem (f : SR)
  | neg (f : SR)
  | abs (f : SR)
  | min (f : SR)
  | max (f : SR)
  | and (f : SR)
  | or (f : SR)
  | xor (f : SR)
  | not (f : SR)
  | shl (f : SR)
  | shr (f : SR)
  | rol (f : SR)
  | ror (f : SR)
  | clz (f : SR)
  | ctz (f : SR)
  | popc (f : SR)
  | bext (f : SR)
  | bins (f : SR)
  | sel (f : SR)
  | cmpeq (f : SR)
  | cmpne (f : SR)
  | cmplt (f : SR)
  | cmple (f : SR)
  | pand (f : SR)
  | por (f : SR)
  | pxor (f : SR)
  | pnot (f : SR)
  | mkva (f : SR)
  | li (f : SI)
  | lih (f : SI)
  | addi (f : SI)
  | andi (f : SI)
  | ori (f : SI)
  | xori (f : SI)
  | shli (f : SI)
  | shri (f : SI)
  | cmpeqi (f : SI)
  | cmplti (f : SI)
  | br (f : SI)
  | brx (f : SI)
  | call (f : SI)
  | ret (f : SI)
  | lpentReg (f : SI)
  | lpentImm (f : SI)
  | lpentTable (f : SI)
  | lpbrk (f : SI)
  | lget (f : SI)
  | lset (f : SI)
  | spawn (f : SX)
  | ld (f : SM)
  | st (f : SM)
  | prf (f : SM)
  | clean (f : SM)
  | atadd (f : SM)
  | atand (f : SM)
  | ator (f : SM)
  | atxor (f : SM)
  | atmin (f : SM)
  | atmax (f : SM)
  | atswp (f : SM)
  | atcas (f : SM)
  | atfadd (f : SM)
  | atfmax (f : SM)
  | atfmin (f : SM)
  | lathe (f : SM)
  | fence (f : SX)
  | phreg (f : SX)
  | phdrop (f : SX)
  | phsig (f : SX)
  | phwait (f : SX)
  | phsw (f : SX)
  | semwReg (f : SX)
  | semwImm (f : SX)
  | semsReg (f : SX)
  | semsImm (f : SX)
  | calchk (f : SX)
  | rdcnt (f : SX)
  | rdcyc (f : SX)
  | qget (f : SX)
  | qpeek (f : SX)
  | qlen (f : SX)
  | qwait (f : SX)
  | qwaitTimeout (f : SX)
  | spin (f : SX)
  | spflush (f : SX)
  | spend (f : SX)
  | mfsr (f : SX)
  | mtsr (f : SX)
  | trap (f : SX)
  | eret (f : SX)
  | cxsw (f : SX)
  | yield (f : SX)
  | snap (f : SX)
  | hcall (f : SX)
  | trapctlWrite (f : SX)
  | engineSharedRegisterWrite (f : SX)
  | calcfgWrite (f : SX)
  | calcmdClr (f : SX)
  | perfselWrite (f : SX)
  | vadd (f : VR)
  | vsub (f : VR)
  | vmul (f : VR)
  | vfma (f : VR)
  | vfms (f : VR)
  | vfnma (f : VR)
  | vdiv (f : VR)
  | vsqrt (f : VR)
  | vrsqrt (f : VR)
  | vrcp (f : VR)
  | vexp2 (f : VR)
  | vlog2 (f : VR)
  | vmin (f : VR)
  | vmax (f : VR)
  | vabs (f : VR)
  | vneg (f : VR)
  | vand (f : VR)
  | vor (f : VR)
  | vxor (f : VR)
  | vnot (f : VR)
  | vshl (f : VR)
  | vshr (f : VR)
  | vmulh (f : VR)
  | vclz (f : VR)
  | vpopc (f : VR)
  | vtanh (f : VR)
  | verf (f : VR)
  | vmov (f : VR)
  | viota (f : VR)
  | vcmpeq (f : VR)
  | vcmpne (f : VR)
  | vcmplt (f : VR)
  | vcmple (f : VR)
  | vcmpun (f : VR)
  | vclass (f : VR)
  | vsel (f : VR)
  | vcvt (f : VR)
  | vmxq (f : VR)
  | vmxd (f : VR)
  | kand (f : VR)
  | kor (f : VR)
  | kxor (f : VR)
  | knot (f : VR)
  | kmov (f : VR)
  | kmovFromScalar (f : VR)
  | kmovToScalar (f : VR)
  | kpop (f : VR)
  | vredsum (f : VR)
  | vredmax (f : VR)
  | vredmin (f : VR)
  | vscan (f : VR)
  | vscanmax (f : VR)
  | vtopk (f : VR)
  | vargmax (f : VR)
  | vrng (f : VR)
  | vperm (f : VR)
  | vrot (f : VR)
  | vzip (f : VR)
  | vunzip (f : VR)
  | vtrn (f : VR)
  | vcompress (f : VR)
  | vexpand (f : VR)
  | vrev (f : VR)
  | vld (f : VS)
  | vst (f : VS)
  | vldx (f : VS)
  | vstx (f : VS)
  | tld (f : VS)
  | tst (f : VS)
  | vgld (f : VS)
  | vgst (f : VS)
  | tzero (f : VS)
  | rep (f : VP)
  | mma (f : MM)
  | mmt (f : MM)
  | mzero (f : MA)
  | mscale (f : MA)
  | mbias (f : MA)
  | mstTile (f : MA)
  | mstScratchpad (f : MA)
  | mldTile (f : MA)
  | mldScratchpad (f : MA)
  | mcopy (f : MA)
  | mskip (f : MA)
  | msave (f : MA)
  | mrestore (f : MA)
  | cp (f : CC)
  | cpr (f : CC)
  | cpt (f : CC)
  | cptw (f : CC)
  | cpfill (f : CC)
  | csem (f : CC)
  | csemw (f : CC)
  | ringbind (f : CC)
  | bobbind (f : CC)
  | unbind (f : CC)
  | ringfill (f : CC)
  | fget (f : CC)
  | fput (f : CC)
  | cgsum (f : CC)
  | fsum (f : CC)
  | cprime (f : CC)
  | gjDispatch (d : BitVec 5) (a : BitVec 5) (b : BitVec 5)
  | gjJoin (d : BitVec 5) (a : BitVec 5) (b : BitVec 5)
  | sliceDone (a : BitVec 3)
  | sliceFail (c : BitVec 16)
  | sliceSkip (a : BitVec 3) (b : BitVec 3) (c : BitVec 2) (u : BitVec 1) (n : BitVec 5)
  | sliceLi (d : BitVec 3) (i : BitVec 24)
  | sliceAddi (d : BitVec 3) (a : BitVec 3) (x : BitVec 18)
  | sliceAdd (d : BitVec 3) (a : BitVec 3) (b : BitVec 3)
  | sliceSub (d : BitVec 3) (a : BitVec 3) (b : BitVec 3)
  | sliceAnd (d : BitVec 3) (a : BitVec 3) (b : BitVec 3)
  | sliceOr (d : BitVec 3) (a : BitVec 3) (b : BitVec 3)
  | sliceXor (d : BitVec 3) (a : BitVec 3) (b : BitVec 3)
  | sliceShl (d : BitVec 3) (a : BitVec 3) (b : BitVec 3)
  | sliceShr (d : BitVec 3) (a : BitVec 3) (b : BitVec 3)
  | sliceSra (d : BitVec 3) (a : BitVec 3) (b : BitVec 3)
  | sliceMul (d : BitVec 3) (a : BitVec 3) (b : BitVec 3)
  | sliceMin (d : BitVec 3) (a : BitVec 3) (b : BitVec 3) (t : BitVec 1)
  | sliceMax (d : BitVec 3) (a : BitVec 3) (b : BitVec 3) (t : BitVec 1)
  | sliceLld (d : BitVec 3) (s : BitVec 2) (e : BitVec 1) (o : BitVec 6)
  | sliceLldx (d : BitVec 3) (a : BitVec 3) (s : BitVec 2) (e : BitVec 1) (o : BitVec 6)
  | sliceLst (a : BitVec 3) (s : BitVec 2) (o : BitVec 6)
  | sliceLstx (a : BitVec 3) (b : BitVec 3) (s : BitVec 2) (o : BitVec 6)
  | sliceFadd (d : BitVec 3) (a : BitVec 3) (b : BitVec 3) (t : BitVec 1)
  | sliceFmax (d : BitVec 3) (a : BitVec 3) (b : BitVec 3)
  | sliceFmin (d : BitVec 3) (a : BitVec 3) (b : BitVec 3)
  | unassignedOpcode (e : Engine) (w : IWord)
  | rdvRelease
  | hcallReply
  | repetition
  | matrixCommandStart
  | matrixCommandRetire
  | copyCommandStart
  | copyGranule
  | copyCommandRetire
  | patternPortPush
  | patternPortDrainPop
  | sectionIssue
  | gangPassStart
  | gangFreezeLift
  | trapAreaWrite
  | sliceAdmission
  | sliceLineFill
  | builtinAtomicRun
  | routineRun
  | translationFill
  | invalidationAck
  | scrubZeroFillEnd
  | migrationPartMoved
  | segmentVerified
  | arrivalBoundExpiry
  | chunkTimeout
  | requestMessage
  | hackleTokenisation
  | requestAppend
  | vudricFlitReceive
  | dispatcherDecision
  | multiDieReservationGrant
  | multiDieReservationTimeout
  | periodRelease
  | budgetExhausted
  | quantumEnd
  | starvation
  | deadlineOverrun
  | preemptionRequest
  | engineHold
  | drainCut
  | jobSaveComplete
  | scratchpadGranuleExchange
  | bankThrottle
  | thermalTrip
  | uncorrectableError
  | partitionBackInService
  | moduleReset
  | bootStep
  | recoveryImage
  | hotReset
  | virtioNetMessage
  | snapshotTrigger
  | gjJoinTimeout
  | controlBlockWrite
  | controlBlockRead
  | contractSubmission
  | contractWithdrawal
  | dispatcherParameterWrite
  | microContextRetire
  | faultClear
  | controlBlockInstall
  | preemptCommand
  | shset
  | shclr
  | shroot
  | tlbEntryRead
  | ownershipEntryRead
  | frameAssign
  | frameFree
  | migration
  | readDuplicate
  | segmentShare
  | sealPages
  | keyWrite
  | routineInstallation
  | routineClearing
  | routineMapWrite
  | slotRecordRead
  | vocabularyLoad
  | vocabularyUnload
  | vstatRead
  | contextKeyInstall
  | replayCommand
  | attestationCommand
  | fabricGroupWrite
  | runLengthSet
  | snapshotRecordRead
  | counterRead
  | bootStepClear
  | powerLoss
  | virtioDeviceStatus
  | hostTierLending
  | arrivalBoundSet
  | serviceCoreInterrupt
  | vocabularyLoadEnd
  | sharingEnd
  | transportKeyInstall
deriving DecidableEq, Repr

end Sys2Proof
end

