-- ==== Sys2Proof/Machine/Turn.lean ====
section
/-!
DEFINITION. Whose turn it is: the streams, slices and service cores that run words, and the events and firmware commands
that reach the module. The spec fixes no order among them (R20, R267), so the order is data (log entry 1).
-/
namespace Sys2Proof.Machine

/-- The streams of a core: the job's four and the handler's two (R19, R186, R456). -/
inductive Sel where
  | s | v | m | c | hs | hm
deriving DecidableEq, Repr, Inhabited

/-- The engine that runs a stream. -/
def Sel.engine : Sel → Engine
  | .s => .s
  | .v => .v
  | .m => .m
  | .c => .c
  | .hs => .s
  | .hm => .m

def Sel.isHandler : Sel → Bool
  | .hs => true
  | .hm => true
  | _ => false

/-- The job's stream of an engine. -/
def Sel.ofEngine : Engine → Sel
  | .s => .s
  | .v => .v
  | .m => .m
  | .c => .c

/-- What an event or a firmware command names. Each row of the opcode table that is an event reads the fields its meaning
lists; the others are zero. -/
structure Input where
  core   : Nat := 0
  die    : Nat := 0
  ctx    : Nat := 0
  slice  : Nat := 0
  line   : Nat := 0
  port   : Nat := 0
  engine : Engine := .s
  index  : Nat := 0
  slot   : Nat := 0
  va     : Nat := 0
  len    : Nat := 0
  frame  : Nat := 0
  dest   : Nat := 0
  wid    : Nat := 0
  kind   : Nat := 0
  unit   : Nat := 0
  value  : Nat := 0
  flag   : Bool := false
  sel    : Sel := .s
  nats   : List Nat := []
  data   : List Byte := []
  extra  : List Byte := []
  code   : List (BitVec 32) := []
  /-- a firmware command's ring, 8 times the service core plus the die, and its tag (R390) -/
  ring   : Nat := 0
  tag    : Nat := 0
deriving DecidableEq, Repr, Inhabited

/-- Whose turn it is. -/
inductive Turn where
  /-- a stream of a core, by module core number -/
  | stream (core : Nat) (sel : Sel)
  /-- the routine machine of a slice (R299) -/
  | slice (die slice : Nat)
  /-- a service core (R391) -/
  | service (n : Nat)
  /-- an event or a firmware command: the row's constructor and what it names -/
  | event (i : Instr) (input : Input)
deriving DecidableEq, Repr

end Sys2Proof.Machine
end

