-- ==== Sys2Proof/Config.lean ====
section
/-!
DEFINITION. What one machine fixes and the spec leaves open. Every constant here is opaque, or made of one that is: nothing
can be proved about its value, so a claim holds whatever it is.
-/
namespace Sys2Proof.Config
open Sys2Proof.Machine

/-- The turn that follows step `n` where the schedule names none (log entry 1). -/
opaque freeTurn : Nat → Option Turn

/-- The cycles step `n` takes (log entry 2). -/
opaque elapsed : Nat → Nat

/-- The offset of die `d`'s cycle count after module reset number `r`, under 2^63 cycles (R4; log entry 3). -/
opaque dieOffsetBits : (r d : Nat) → BitVec 63
def dieOffset (r d : Nat) : Nat := (dieOffsetBits r d).toNat

/-- A value the spec leaves open: free value number `k` of step `n`. -/
opaque freeNat : (n k : Nat) → Nat

/-- Bytes that come from outside the module: byte `k` of free run `n`. -/
opaque freeByte : (n k : Nat) → Byte

/-- The signature the secure element makes of a message at step `n` (R419, R426): ECDSA takes a nonce. -/
opaque signature : (n : Nat) → List Byte → List Byte

/-- The 96 bytes of a signature the vendor made of a digest, and which others hold under its public key (R419): ECDSA takes a nonce. -/
opaque vendorSignature : (digest : List Byte) → BitVec 768
opaque otherSignature : (sig digest : List Byte) → Bool
/-- Whether a signature of a digest holds under the vendor's public key. -/
def signatureHolds (sig digest : List Byte) : Bool := sig = leBytes 96 (vendorSignature digest).toNat || otherSignature sig digest

/-- The image boot flash holds for a step as the module is made: header and image bytes (R419, R420). -/
opaque bootImage : (step : Nat) → (alternate : Bool) → List Byte

/-- The security version number fused for a step (R419). -/
opaque svnBits : (step : Nat) → BitVec 32
def svnMinimum (step : Nat) : Nat := (svnBits step).toNat

/-- The module serves a host that resets it (R397). -/
opaque hosted : Bool

/-- The serial number and the certificate the device carries (R419, R426). -/
opaque deviceSerial : List Byte
opaque deviceCertificate : List Byte

/-- The device's own number on the fabric (R392). -/
opaque deviceNumber : Nat

/-- Bytes of one entry of a pattern of which a context image holds the count of entries alone, where its record can no longer be read (R257,
R259): the spec gives no way to tell them. -/
opaque lostEntryBytes : (recoff : Nat) → Nat

/-- AES-256-XTS of one 64-byte line of HBM under a key slot's key and a tweak, the line's physical address; and the device's key of
shared segments (R219): the spec gives the bits of neither. -/
opaque xtsLine : (key : List Byte) → (tweak : Nat) → (plain : List Byte) → List Byte
opaque sharedKey : List Byte

/-- AES-256-GCM of a run of bytes under a key and a nonce (R374). -/
opaque sealBytes : (key nonce plain : List Byte) → List Byte
opaque openBytes : (key nonce cipher : List Byte) → Option (List Byte)

/-- The AES-256-GCM tag a port's key gives the headers and payloads of a run (R393, R394). -/
opaque linkTag : (port : Nat) → List Byte → BitVec 128

/-- The marks of a virtual channel's buffer, in flits (R395), and the port by which a device of the fabric is reached. -/
opaque linkHigh : Nat
opaque linkLow : Nat
opaque linkRoute : (device : Nat) → Nat

/-- The CRC-64 of a flit's first 248 bytes (R393), least significant byte first: the spec names no polynomial. -/
opaque crcValue : List Byte → BitVec 64
def crc64 (bs : List Byte) : List Byte := leBytes 8 (crcValue bs).toNat

end Sys2Proof.Config
end

