-- ==== Sys2Proof/Machine/JobState.lean ====
section
/-!
DEFINITION. The state of one job (R21): the registers every chapter gives it and the positions of its streams. Plain data;
a sparse map gives its default to every index it does not list.
-/
namespace Sys2Proof.Machine

/-- What the four engines hold, one value each. -/
structure PerEngine (α : Type) where
  s : α
  v : α
  m : α
  c : α
deriving DecidableEq, Repr

def PerEngine.get {α : Type} (p : PerEngine α) : Engine → α
  | .s => p.s
  | .v => p.v
  | .m => p.m
  | .c => p.c

def PerEngine.set {α : Type} (p : PerEngine α) (e : Engine) (x : α) : PerEngine α :=
  match e with
  | .s => { p with s := x }
  | .v => { p with v := x }
  | .m => { p with m := x }
  | .c => { p with c := x }

def PerEngine.all {α : Type} (x : α) : PerEngine α := ⟨x, x, x, x⟩

/-- A section whose words have all issued and which has not retired (R45). -/
structure Flight where
  sect   : Nat
  /-- address of its header, and the header -/
  hdr    : Nat
  header : Word
  /-- issued commands of it that have not retired -/
  out    : Nat
  /-- a branch was taken in it (R104) -/
  branch : Bool
deriving DecidableEq, Repr

/-- One stream of a job or of a handler (R40 to R49, R108). -/
structure Stream where
  /-- entry address; 0 for a stream with no sections (R27) -/
  entry   : Nat
  /-- address of the head section's header -/
  hdr     : Nat
  /-- index of the next word; 0 while the header has not been passed (R41) -/
  word    : Nat
  /-- the head section's header once its waits are satisfied -/
  header  : Option Word
  /-- the next word, once the engine has fetched it (R52) -/
  fetched : Option IWord
  /-- issued commands of the head section that have not retired -/
  out     : Nat
  /-- sections whose words have all issued, oldest first -/
  flight  : List Flight
  /-- the last section of `flight` carries L or E: where the stream goes is decided when it retires -/
  closed  : Bool
  /-- retired-through value (R45) -/
  rthru   : Nat
  /-- a section carrying E has retired, or the entry is zero (R27) -/
  ended   : Bool
  /-- rendezvous words executed (R108) -/
  rdvs    : Nat
  /-- the stream waits at a rendezvous -/
  rdvWait : Bool
  /-- stopped by its own trap (R186, R189) -/
  trapped : Bool
  /-- by level: the header of its first body section, and of its prologue, as last entered (R106, R351) -/
  firsts  : Sparse Nat
  pros    : Sparse Nat
deriving DecidableEq, Repr

/-- Where a stream stands with the arming it has taken (R106). -/
inductive Pass where
  /-- in none -/
  | out
  /-- skipping the body sections of an arming with no passes here -/
  | skip
  /-- at the first header of the pass it begins next -/
  | next
  /-- within a pass -/
  | running
deriving DecidableEq, Repr

/-- One loop-table level of a job (R91, R106). -/
structure Level where
  trip   : Nat
  active : Bool
  /-- armings made -/
  made   : Nat
  /-- armings each engine's stream has taken -/
  taken  : PerEngine Nat
  /-- pass each engine runs or runs next -/
  pass   : PerEngine Nat
  mode   : PerEngine Pass
  /-- this core's first pass of the active arming (R347) -/
  p0     : Nat
  /-- passes of the active arming a gang has been let begin (R349) -/
  gangGo : Nat
  /-- engines that have begun a pass of the active arming -/
  begun  : PerEngine Bool
  /-- passes of the active arming each engine has finished, for a gang (R349) -/
  fin    : PerEngine Nat
  /-- the arming taken next is one that a forced epilogue left (R353): its registers are not stepped -/
  noStep : Bool
deriving DecidableEq, Repr

/-- A bobbin (R115): entries oldest first. -/
structure Bobbin where
  entries : List VReg
  exh     : Bool
  drain   : Bool
  bound   : Bool
deriving DecidableEq, Repr

/-- An operand ring (R152). -/
structure Ring where
  exh    : Bool
  trans  : Bool
  bound  : Bool
  scl    : Nat
  eszm1  : Nat
  base   : Nat
  sizem1 : Nat
  head   : Nat
  tail   : Nat
  count  : Nat
deriving DecidableEq, Repr

/-- The state of a ring or bobbin binding (R259). -/
structure Binding where
  pat    : Bool
  tens   : Bool
  recoff : Nat
  ty     : Nat
  cls    : Nat
  ord    : Nat
  scope  : Nat
  tok    : Nat
  done   : Nat
  /-- its pattern has been stopped by `unbind` or by a fault, and the fault's cause (R257, R258) -/
  stop   : Bool
  fault  : Nat
  /-- the pattern record and the handle's shape record as read at the binding or the resumption (R256, R259) -/
  recd   : List Byte
  shape  : List Byte
  /-- the port has to read its records again before it goes on (R259) -/
  again  : Bool
  /-- cycle at which the access the port waits with began to stall (R264) -/
  since  : Option Nat
deriving DecidableEq, Repr

/-- An issued M command (R156): the word, the scalars read at issue, the section it came from. -/
structure MCommand where
  instr   : Instr
  /-- the first and the second scalar read at issue (R93, R174) -/
  first   : Word
  second  : Word
  started : Bool
  /-- granules of a save or a restore performed (R175) -/
  parts   : Nat
  /-- section and word it was issued from, and whether by the handler's stream -/
  sect    : Nat
  word    : Nat
  handler : Bool
  /-- a queued image that has to issue again and take its leases (R161) -/
  queued  : Bool
  /-- it came from an image that names no word of the stream (R176, R196) -/
  image   : Bool
deriving DecidableEq, Repr

/-- The C command in progress (R247 to R249). -/
structure CCommand where
  instr   : Instr
  started : Bool
  /-- bytes written to the destination -/
  bytes   : Nat
  sa      : Word
  sd      : Word
  recd    : Word
  aux     : Word
  /-- the record read at start, or the equivalent record (R244) -/
  record  : List Byte
  sect    : Nat
  word    : Nat
  /-- held at its start or by a trap until it issues again -/
  held    : Bool
  /-- the members of the group a sum reads, as the command started (R392) -/
  members : List Nat
  /-- the floating-point flags its granules have raised (R76) -/
  flags   : Nat
deriving DecidableEq, Repr

/-- A trap record (R183, R186). -/
structure TrapRecord where
  cause  : Nat
  stream : Nat
  sect   : Nat
  word   : Nat
  stat   : Nat
  addr   : Nat
  aux    : Nat
deriving DecidableEq, Repr

/-- A caliper monitor (R408, R409); the three 320-bit quantities are numbers below 2^320. -/
structure Monitor where
  cfg  : Word
  base : Word
  lim  : Word
  str  : Word
  bnd  : Word
  stat : Word
  ref  : Nat
  acc  : Nat
  tot  : Nat
deriving DecidableEq, Repr

/-- One stream's section numbers of a loop level (R344); 0xFFF means none. -/
structure BodySpan where
  first : Nat
  last  : Nat
  pro   : Nat
  epi   : Nat
deriving DecidableEq, Repr

/-- One level entry of a loop table (R344): `binds` holds the registers of BIND0 to BIND3 and their strides. -/
structure LoopLevel where
  trip  : Nat
  eplen : Nat
  body  : PerEngine Bool
  drain : Bool
  pipe  : Bool
  lock  : Bool
  kind  : Nat
  binds : List (Nat × Word)
  spans : PerEngine BodySpan
deriving DecidableEq, Repr

/-- Where the handler M stream stands with the job's matrix state (R177). -/
inductive MSaveState where
  | before | saved | restored
deriving DecidableEq, Repr

/-- What the S stream waits for after its word has gone out. -/
inductive SWait where
  | none
  /-- an atomic or `lathe` at slice `slice` of die `die` (R293, R307) -/
  | slice (die slice : Nat)
  /-- the reply of an `hcall` (R195): its destination, its IMM, `s1` and `s2` -/
  | hcall (d imm : Nat) (a1 a2 : Word)
  /-- a waiter in the queue of the object at a physical address (R401, R403) -/
  | object (addr : Nat)
deriving DecidableEq, Repr

/-- How a pre-emption takes a stream inside a pipelined level (R350). -/
inductive Plan where
  | none | dSection | epilogue
deriving DecidableEq, Repr

/-- Where a pre-emption of the job stands (R200, R350, R351, R355). -/
structure Preempt where
  /-- cycle of the request's arrival at the core -/
  arrived : Nat
  plan    : PerEngine Plan
  /-- streams that have left the drained level and hold -/
  gone    : PerEngine Bool
  level   : Nat
  clamp   : Option Nat
  /-- the bound a drain or a wait for a D section has to meet -/
  eplen   : Option Nat
  cut     : Bool
  /-- every engine holds and the save has begun -/
  saving  : Bool
  /-- it is the quiesce phase of a `cxsw` (R197) -/
  swap    : Bool
deriving DecidableEq, Repr

inductive AccessKind where
  | read | write | fetch
deriving DecidableEq, Repr

/-- An access that a page state stalls: its address, its kind, and the cycle the stall began. -/
structure Stall where
  va    : Nat
  kind  : AccessKind
  since : Nat
  /-- the step in which a write that waits for a collapse arrived at its home (R226) -/
  order : Option Nat
deriving DecidableEq, Repr

/-- A job (R21). -/
structure Job where
  /-- micro-context number (R22) -/
  ctx     : Nat
  /-- group index and group size (R25) -/
  gidx    : Nat
  gsize   : Nat
  /-- dies of the group, minus 1 (R97) -/
  ndie    : Nat
  child   : Bool
  /-- module number of the core the job runs on, and the park page above it (R334) -/
  core    : Nat
  page    : Nat
  /-- world number and confidentiality (R180) -/
  wid     : Nat
  conf    : Bool
  /-- entry set (R333), and the entries of set 1: the S handler and the handler M stream -/
  set     : Nat
  handS   : Nat
  handM   : Nat
  s       : Sparse Word
  p       : Sparse Bool
  l       : Sparse Nat
  spend   : Sparse Bool
  ppend   : Sparse Bool
  levels  : Sparse Level
  loops   : List LoopLevel
  v       : Sparse VReg
  k       : Sparse KReg
  b       : Sparse Bobbin
  /-- `REPREM` (R125) -/
  repValid : Bool
  repDone  : Nat
  repLeft  : Nat
  tiles   : Sparse Tile
  accs    : Sparse Acc
  rings   : Sparse Ring
  binds   : Sparse Binding
  mqueue  : List MCommand
  ccmd    : Option CCommand
  fpstat  : Word
  fpen    : Word
  srseed  : Word
  srcntv  : Word
  srcntm  : Word
  srcntc  : Word
  trap    : TrapRecord
  hmode   : Bool
  nest    : Bool
  skip    : Bool
  /-- a `cxsw` of the handler has replaced the context the trap was taken in (R197) -/
  swapped : Bool
  rets    : Word
  heldv   : Option TrapRecord
  heldm   : Option TrapRecord
  heldc   : Option TrapRecord
  /-- the write of the trap area that has not been made (R188) -/
  areaPending : Bool
  msaved  : MSaveState
  /-- sections and words of the commands `msave` has taken from the queue (R175) -/
  imaged  : List (Nat × Nat)
  streams : PerEngine Stream
  hs      : Stream
  hm      : Stream
  prerec  : Word
  loopsave : Word
  mons    : Sparse Monitor
  perfsel : Sparse Word
  perfcnt : Sparse Word
  /-- scratchpad bytes (R209) -/
  pad     : Sparse Byte
  /-- spawn ordinal (R356) -/
  ordinal : Nat
  /-- group index in the draws' counter: for a child, of the core that ran the spawning job (R78) -/
  drawIdx : Nat
  /-- the copy of the routine map (R304) -/
  rmap    : Sparse Word
  swait   : SWait
  /-- cycle at which a timed wait of S began (R385) -/
  waitFrom : Option Nat
  preempt : Option Preempt
  /-- traps the S stream takes at its next word boundary, or when the job is bound again, oldest first (R189, R343, R355, R431) -/
  rebind  : List TrapRecord
  /-- the access of each engine that a page state stalls (R29, R264, R317) -/
  stalls  : PerEngine (Option Stall)
  /-- frozen with its gang (R29, R349) -/
  frozen  : Bool
deriving DecidableEq, Repr

end Sys2Proof.Machine
end

