-- ==== Sys2Proof/Machine/DieState.lean ====
section
/-!
DEFINITION. The state of a core, of a compute die and of the hub, outside the jobs: plain data.
-/
namespace Sys2Proof.Machine

/-- A translation held in a TLB (R315, R316). `size` is log2 of the page's bytes; `leaf` the R, W and X of its leaf, `perm`
those the fill granted. -/
structure TlbEntry where
  asid : Nat
  va   : Nat
  size : Nat
  pa   : Nat
  leaf : Nat
  perm : Nat
  /-- memory-side only: HOLD, the pages of its replicas (REPL names their vaults), COLL -/
  hold : Nat
  copies : List Nat
  coll : Bool
deriving DecidableEq, Repr

/-- A core (R13, R19). -/
structure Core where
  job     : Option Job
  /-- in service; false from an uncorrectable error or a trip until the partition is back (R428) -/
  alive   : Bool
  /-- the micro-context that holds a reservation of the core (R30, R334) -/
  reserved : Option Nat
  /-- throttle level, and the banks of its vault above 100 °C (R213) -/
  throttle : Nat
  hot      : List Nat
  tlb     : List TlbEntry
  /-- the latched snapshot record and SNAPSEQ (R418) -/
  snap    : List Byte
  snapseq : Nat
  /-- scratchpad granules not yet exchanged since the last release (R202) -/
  exchange : List Nat
deriving DecidableEq, Repr

/-- What a request at a slice asks for (R292, R306). -/
structure SliceRequest where
  /-- the requester's core, and whether its handler's S stream sent it -/
  core    : Nat
  handler : Bool
  /-- its micro-context and its world -/
  ctx     : Nat
  wid     : Nat
  instr   : Instr
  /-- virtual and physical address of the operand -/
  va      : Nat
  pa      : Nat
  /-- s[B], s[C], s[E], s[F] read at issue -/
  args    : List Word
  /-- the core's copy of the routine-map entry (R307) -/
  entry   : Word
  /-- the code the request runs: the slot's at its admission; none where the entry is not good (R303, R307) -/
  code    : Option (List (BitVec 32))
deriving DecidableEq, Repr

/-- One line queue of a slice (R288): requests in admission order; the held line is its address over 64. -/
structure LineQueue where
  line   : Nat
  filled : Bool
  reqs   : List SliceRequest
deriving DecidableEq, Repr

/-- A resident line (R215 to R218). -/
structure CacheLine where
  line  : Nat
  dirty : Bool
  /-- the micro-context it is attributed to; none for a shared page -/
  attr  : Option Nat
  /-- what the page itself holds while the line is dirty -/
  stale : List Byte
deriving DecidableEq, Repr

/-- The routine machine of a slice (R296, R299). -/
structure RoutineMachine where
  /-- the line of the request it runs -/
  active : Option Nat
  code   : List (BitVec 32)
  /-- the next word, once it has been read -/
  word   : Option (BitVec 32)
  index  : Nat
  g      : Sparse Word
  line   : List Byte
  cyc    : Nat
  /-- the result word, once the run has ended, and whether it commits the line -/
  result : Option Word
  commit : Bool
deriving DecidableEq, Repr

/-- A cache slice (R215, R288). -/
structure Slice where
  input  : List SliceRequest
  queues : List LineQueue
  /-- resident lines, least recently used first -/
  lines  : List CacheLine
  rm     : RoutineMachine
deriving DecidableEq, Repr

/-- What a waiter of a synchronisation object waits for (R403, R404). -/
inductive WaitKind where
  /-- units of a semaphore -/
  | units
  /-- to signal a phase that is not the current one yet -/
  | signal | signalThenWait
  /-- the end of a phase -/
  | phase
deriving DecidableEq, Repr

/-- A waiter in a synchronisation object's queue (R401, R403). -/
structure Waiter where
  core   : Nat
  sel    : Sel
  kind   : WaitKind
  /-- units a semaphore waiter takes; phase a phaser waiter names -/
  amount : Nat
  dest   : Nat
  /-- the object's virtual address -/
  va     : Nat
  /-- bits 95:32 of the word, for `TRAPAUX` (R184) -/
  aux    : Nat
deriving DecidableEq, Repr

/-- A child record in the pool (R357). -/
structure ChildRecord where
  ctx  : Nat
  set  : Nat
  gidx : Nat
  ordinal : Nat
  arg1 : Word
  arg2 : Word
  seed : Word
deriving DecidableEq, Repr

/-- A reservation round of a micro-context's group (R30): its first core where one is chosen, the dies left to ask in ascending
order, and the cycle of the first request. -/
structure Reservation where
  ctx     : Nat
  first   : Option Nat
  left    : List Nat
  since   : Nat
deriving DecidableEq, Repr

/-- A ticket of `gj.dispatch` (R391). -/
structure Ticket where
  number : Nat
  ctx    : Nat
  /-- the descriptor's index in its queue -/
  desc   : Nat
  /-- the binding that serves it has begun -/
  served : Bool
  /-- the status `gj.join` returns, once it is known -/
  status : Option Nat
deriving DecidableEq, Repr

/-- What an invalidation round serves (R227): the translation is gone, it stays in the memory-side TLB for a move, or it stays
and its page's replicas go. -/
inductive RoundKind where
  | drop | keep | collapse
deriving DecidableEq, Repr

/-- A page operation in progress (R226, R227, R229). -/
inductive PageWork where
  /-- invalidation round of a translation, or of all of an identifier's (size 52): cores that have not acknowledged -/
  | round (asid va size : Nat) (pending : List Nat) (kind : RoundKind)
  /-- a migration: entries of the first source and destination frames, the page's frames, and those copied -/
  | move (src dst parts moved : Nat)
deriving DecidableEq, Repr

/-- Where the page that a world's table entries name at frame `src` lies since it was moved or redirected: frame numbers, physical
addresses over 131,072 (R229, R246). -/
structure PageName where
  wid : Nat
  src : Nat
  dst : Nat
deriving DecidableEq, Repr

/-- A shadow command at a memory-side unit (R320, R321). -/
structure ShadowCommand where
  ctx       : Nat
  row       : Instr
  input     : Input
  performed : Bool
deriving DecidableEq, Repr

/-- A compute die (R12 to R20). -/
structure Die where
  cores    : Sparse Core
  alive    : Bool
  /-- dispatcher parameters (R336) -/
  ubound   : Nat
  bcap     : Nat
  starve   : Nat
  quant    : Nat
  pool     : List ChildRecord
  tickets  : List Ticket
  reserves : List Reservation
  /-- requests for reservations of this die's cores, in the order they arrived (R30) -/
  asks     : List Nat
  /-- memory-side TLB (R316) -/
  mtlb     : List TlbEntry
  /-- ownership entries by entry number (R323) -/
  owner    : Sparse Word
  /-- bank tags by vault * 128 + bank (R211) -/
  tags     : Sparse (BitVec 16)
  slices   : Sparse Slice
  /-- resident synchronisation objects, least recently used first: physical address and record as last written back (R399, R428) -/
  objects  : List (Nat × List Byte)
  /-- waiters by the object's physical address, first in first (R403, R404) -/
  waiters  : Sparse (List Waiter)
  /-- captures of a phaser's arrivals: by object, (group index, monitor, monitor state) (R411, R413) -/
  captures : Sparse (List (Nat × Nat × Monitor))
  work     : List PageWork
  /-- shadow commands the memory-side unit has not completed, in arrival order: the identifier, the command, and whether
  its write is performed (R321) -/
  shadow   : List ShadowCommand
  /-- moved and redirected pages whose table entries name another page -/
  names    : List PageName
  /-- runs of host-tier frames the host has lent: first frame and count (R206) -/
  lent     : List (Nat × Nat)
  /-- cycle of the last snapshot trigger at each scope (R194) -/
  lastSnap : Sparse Nat
deriving DecidableEq, Repr

/-- A slot of the routine table (R301). -/
structure RoutineSlot where
  live : Bool
  gen  : Nat
  code : List (BitVec 32)
  hash : List Byte
  /-- an installation or a clearing (no code) in progress (R303) -/
  next : Option (List (BitVec 32))
deriving DecidableEq, Repr

/-- What a `.ring` directive of an image recorded (R64, R152). -/
structure RingPreset where
  ring   : Nat
  base   : Nat
  sizem1 : Nat
deriving DecidableEq, Repr

/-- What a `.bobbin` directive of an image recorded: bobbin, element type, pattern record (R64, R114). -/
structure BobbinPreset where
  bobbin : Nat
  ty     : Nat
  recd   : List Byte
deriving DecidableEq, Repr

/-- A control block outside its 512 bytes: what the dispatcher keeps for it. -/
structure CtxExtra where
  /-- cycle of the binding and of the quantum's start (R337, R338) -/
  boundAt : Nat
  quantum : Nat
  /-- cycles bound in the current contract period (R343) -/
  usedB   : Nat
  /-- a pre-emption of the group has been decided (R337, R187) -/
  wanted  : Bool
  /-- starved since QSINCE (R339) -/
  starved : Bool
  /-- jobs parked with the group: the state the saved images do not hold, by group index -/
  parked  : List Job
  /-- the overrun of the current contract period has been counted, or there is none (R343) -/
  dlDone  : Bool
  /-- the binding's descriptor has been made current (R383) -/
  servedDesc : Bool
  /-- descriptor index at the binding -/
  bindDesc : Nat
  /-- jobs an unrecoverable fault has ended: group index and core (R407) -/
  failed  : List (Nat × Nat)
  /-- frames its retirement sent to the scrub path: die and entry (R23, R39) -/
  scrubbing : List (Nat × Nat)
  /-- the next request sequence number (R379) -/
  reqseq  : Nat
  /-- traps every job, or the job of group index 0, takes at the next binding, oldest first (R343, R431) -/
  trapAll  : List TrapRecord
  trapZero : List TrapRecord
  /-- the record of R333 that has not been written to the trap area -/
  record   : Option TrapRecord
  /-- what its image's `.ring` and `.bobbin` directives recorded (R64; log entry 24) -/
  ringPresets   : List RingPreset
  bobbinPresets : List BobbinPreset
deriving DecidableEq, Repr

end Sys2Proof.Machine
end

