-- ==== Sys2Proof/Machine/HubState.lean ====
section
/-!
DEFINITION. The state of the hub die and of the platform: plain data.
-/
namespace Sys2Proof.Machine

/-- A firmware command in a command ring, or at the unit that runs it: its row and what it names, its tag among it (R390). -/
structure Command where
  row   : Instr
  input : Input
deriving DecidableEq, Repr

/-- A vocabulary slot (R359): STATE 0 empty, 1 loading, 2 ready, 3 unloading. -/
structure VocabSlot where
  state   : Nat
  /-- where the image is read from while it loads, and its length -/
  source  : Nat
  length  : Nat
  image   : List Byte
  /-- the command that loads it -/
  loader  : Option Command
deriving DecidableEq, Repr

/-- Where what the module sends goes: a connection of an Ethernet port, of virtio-net, or of virtio-vsock (R374, R388, R396, R423). -/
inductive Conn where
  | ethernet (connection : Nat)
  | virtio (connection : Nat)
  | vsock (connection : Nat)
deriving DecidableEq, Repr

/-- The delivery modes of the transport (R374). -/
inductive Delivery where
  | rod | rud | rudi | uud
deriving DecidableEq, Repr

/-- A reply stream (R370 to R373, R386 to R389). -/
structure ReplyStream where
  ctx      : Nat
  /-- none for a dispatch and for a replayed request: its chunks are discarded (R391) -/
  conn     : Option Conn
  tag      : Nat
  oneChunk : Bool
  /-- vocabulary slot bound at opening; none where none was ready (R386) -/
  slot     : Option Nat
  pendB    : List Byte
  /-- stopped: the status and stop index its final chunk carries -/
  stopped  : Option (Nat × Nat)
  /-- released bytes so far -/
  offset   : Nat
  /-- spins accepted and not discarded -/
  accepted : Nat
  maxtok   : Nat
  stops    : List (List Byte)
  /-- the open chunk's bytes and the cycle of its first byte -/
  chunk    : List Byte
  chunkAt  : Nat
deriving DecidableEq, Repr

/-- Where a request stands on its way to the queue (R31, R377, R380). -/
inductive RequestStage where
  | classified
  | tokenised
  /-- in the queue; its stream has not opened -/
  | appended (reqid : Nat)
deriving DecidableEq, Repr

/-- A request in the hub (R376 to R380). -/
structure Request where
  ctx     : Nat
  conn    : Option Conn
  message : List Byte
  /-- vocabulary slot and version bound at classification (R365) -/
  slot    : Nat
  version : Nat
  stage   : RequestStage
  tokens  : List Nat
deriving DecidableEq, Repr

/-- A chunk sent from the module (R388). -/
structure Sent where
  conn  : Conn
  bytes : List Byte
  /-- every reply is sent in ROD (R374) -/
  mode  : Delivery
deriving DecidableEq, Repr

/-- A segment the cold-start engine brings in (R264). -/
structure Segment where
  ctx    : Nat
  wid    : Nat
  index  : Nat
  va     : Nat
  len    : Nat
  hash   : List Byte
  share  : Bool
  /-- its frames: physical addresses over 131,072 -/
  frames : List Nat
  /-- the token of the `cprime`: its job's group index, whether a child, and the scalar -/
  gidx   : Nat
  child  : Bool
  tok    : Nat
  /-- bytes of the selection's segments before it -/
  before : Nat
  /-- the last segment of the selection -/
  last   : Bool
deriving DecidableEq, Repr

/-- A shared segment (R246). -/
structure SharedSegment where
  hash    : List Byte
  /-- its frames: physical addresses over 131,072, ascending by virtual address -/
  frames  : List Nat
  sharers : List Nat
  /-- still being shared -/
  pending : Bool
deriving DecidableEq, Repr

/-- A Vudric Link port (R394, R395). -/
structure LinkPort where
  runLength : Nat
  /-- the sequence number the next flit has to carry -/
  expected  : Nat
  /-- the flits of the run under way, held back until its tag has verified -/
  run       : List (List Byte)
  failures  : Nat
  up        : Bool
  /-- by virtual channel, the payloads that have been delivered and not yet taken -/
  delivered : Sparse (List (List Byte))
  /-- virtual channels this receiver has paused -/
  paused    : List Nat
  /-- by virtual channel that the peer has paused, the flits its sender may still send -/
  stopping  : Sparse (Option Nat)
  nextSeq   : Nat
  /-- the flits of the run being sent, or of the last: what is sent again -/
  sent      : List (List Byte)
deriving DecidableEq, Repr

/-- A service core (R391): its integer registers, its pc, its program words by address, the ticket it waits for, and the
registers of an exception (log entry 9). -/
structure ServiceCore where
  x       : Sparse Word
  pc      : Nat
  words   : Sparse (BitVec 32)
  /-- waiting `gj.join`: destination, ticket, timeout where there is one -/
  join    : Option (Nat × Nat × Option Nat)
  mtvec   : Nat
  mepc    : Nat
  mcause  : Nat
  mtval   : Nat
deriving DecidableEq, Repr

/-- What firmware has been answered on a service ring: the command's tag and its result, or the reason it was refused for (R36, R390). -/
structure Response where
  ring    : Nat
  tag     : Nat
  command : String
  reason  : Nat
  data    : List Byte
deriving DecidableEq, Repr

/-- A partition held in reset (R428). -/
structure Partition where
  kind : Nat
  unit : Nat
deriving DecidableEq, Repr

/-- An entry of the fabric group table: how many members, and where in hub memory their ordered list of 16-bit numbers lies (R392). -/
structure GroupEntry where
  count : Nat
  addr  : Nat
deriving DecidableEq, Repr

/-- The hub die (R16). -/
structure Hub where
  /-- context keys and the micro-contexts they name (R375) -/
  keys      : Sparse (Option Nat)
  vocab     : Sparse VocabSlot
  requests  : List Request
  streams   : List ReplyStream
  sent      : List Sent
  /-- messages the ports dropped (R374), chunks discarded (R397) -/
  dropped   : Nat
  discarded : Nat
  keySlots  : Sparse (List Byte)
  shared    : List SharedSegment
  segments  : List Segment
  arrivalBound : Nat
  groups    : Sparse GroupEntry
  /-- hub memory, as far as a rule gives what lies in it: the lists of the group table -/
  memory    : Sparse Byte
  ports     : Sparse LinkPort
  devStatus : Sparse Nat
  services  : Sparse ServiceCore
  transport : Sparse (List Byte)
  /-- the command rings: what each holds, the command under way first (R390) -/
  rings     : Sparse (List Command)
  responses : List Response
  /-- fabric trigger messages sent (R194) -/
  triggers  : Nat
deriving DecidableEq, Repr

/-- The platform: boot record, boot progress and reset (R419 to R428, R435). -/
structure Platform where
  /-- the boot step record, both copies -/
  record    : List Byte
  recordB   : List Byte
  /-- images firmware or recovery has put in boot flash: step n's primary at 2n, its alternate at 2n + 1 (R420) -/
  flash     : Sparse (List Byte)
  fwm       : List Byte
  /-- SEQ of the record at this start (R425) -/
  bootSeq   : Nat
  /-- the step that comes next, 10 once the start has ended, and whether it runs -/
  step      : Nat
  running   : Bool
  /-- what the records of this start hold in TRIP; the run under way has ended in a thermal trip (R435) -/
  trip      : Bool
  tripped   : Bool
  recovery  : Bool
  /-- held in reset, or without power -/
  held      : Bool
  /-- partitions in reset (R428) -/
  resets    : List Partition
deriving DecidableEq, Repr

end Sys2Proof.Machine
end

