-- ==== Sys2Proof/Machine/State.lean ====
section
/-!
DEFINITION. The state of a GJ2-M836 module: plain data. INVENTORY.md lists every field with its rule and its reset value.
-/
namespace Sys2Proof.Machine

/-- Why a step stops for good. -/
inductive Fault where
  /-- Raised by `step` alone, where the turn names a core, slice or service core the module does not have (R12, R13, R16).
  Safe: no run of the module reaches it. -/
  | noSuchUnit
deriving DecidableEq, Repr

/-- Why an instruction has no meaning here. -/
inductive Refusal where
  /-- Raised by an arm of `exec` whose instruction has no meaning yet. Safe. -/
  | notModelled (mnemonic : String)
  /-- Raised by `step` at a service core whose word is none of the two instructions of R391: RV64GC with V is named by
  R16 and not described. Safe. -/
  | notDescribed (word : Nat)
deriving DecidableEq, Repr

/-- Bytes by physical address (R309): addresses strictly rising, no byte equal to zero, which every other address reads
as: every frame is zeroed before its first use (R323, R211). -/
abbrev Memory := List Host.Cell

/-- The canonical form of memory. -/
abbrev Memory.wf (m : Memory) : Bool := Sparse.wf (0#8) m

structure State where
  /-- who moves in this step, and what the event under way names -/
  turn     : Turn
  input    : Input
  /-- the turns that follow, before the free order goes on (log entry 1) -/
  schedule : List Turn
  /-- steps taken: what the free values are read by -/
  tick     : Nat
  /-- cycles of the main arithmetic clock since boot step 3 (R4) -/
  clock    : Nat
  /-- module resets so far -/
  resets   : Nat
  dies     : Sparse Die
  hub      : Hub
  platform : Platform
  mem      : Memory
  /-- the 8,192 control blocks (R328): word `k` of a block is its bytes 8k to 8k+7 -/
  blocks   : Sparse (Sparse Word)
  /-- what the dispatchers keep for a micro-context outside its block -/
  extras   : Sparse CtxExtra
  /-- the routine table, the same on every die (R301) -/
  routines : Sparse RoutineSlot
deriving DecidableEq, Repr

/-- A stream with no sections (R27). -/
def Stream.empty : Stream :=
  { entry := 0, hdr := 0, word := 0, header := none, fetched := none, out := 0, flight := [], closed := false,
    rthru := 0xFFF, ended := true, rdvs := 0, rdvWait := false, trapped := false, firsts := [], pros := [] }

/-- An inactive loop level (R92). -/
def Level.idle : Level :=
  { trip := 0, active := false, made := 0, taken := .all 0, pass := .all 0, mode := .all .out, p0 := 0, gangGo := 0, begun := .all false,
    fin := .all 0, noStep := false }

/-- An empty, unbound bobbin (R114). -/
def Bobbin.idle : Bobbin := ⟨[], false, false, false⟩

/-- A ring at reset (R152). -/
def Ring.idle : Ring := ⟨false, false, false, 0, 0, 0, 0, 0, 0, 0⟩

/-- No binding (R259). -/
def Binding.none : Binding := ⟨false, false, 0, 0, 0, 0, 0, 0, 0, false, 0, [], [], false, Option.none⟩

/-- The trap record at reset (R183). -/
def TrapRecord.zero : TrapRecord := ⟨0, 0, 0, 0, 0, 0, 0⟩

/-- A caliper monitor at reset (R408). -/
def Monitor.idle : Monitor := ⟨0, 0, 0, 0, 0, 0, 0, 0, 0⟩

/-- A core at reset: no job, in service. -/
def Core.idle : Core :=
  { job := none, alive := true, reserved := none, throttle := 0, hot := [], tlb := [], snap := [], snapseq := 0, exchange := [] }

def RoutineMachine.idle : RoutineMachine :=
  { active := none, code := [], word := none, index := 0, g := [], line := [], cyc := 0, result := none,
    commit := false }

/-- A slice at reset: nothing resident (log entry 6). -/
def Slice.idle : Slice := { input := [], queues := [], lines := [], rm := .idle }

/-- An ownership entry at reset: STATE SCRUB (R323). -/
def ownerReset : Word := 0x2000000000000000

/-- A bank tag at reset: scrub (R211). -/
def tagReset : BitVec 16 := 0x4000

/-- A compute die at reset; the dispatcher parameters are the boot firmware's (log entry 5). -/
def Die.reset : Die :=
  { cores := [], alive := true, ubound := 900, bcap := 8192, starve := 2 ^ 24, quant := 65536, pool := [], tickets := [],
    reserves := [], asks := [], mtlb := [], owner := [], tags := [], slices := [], objects := [], waiters := [], captures := [], work := [], names := [], shadow := [],
    lent := [], lastSnap := [] }

/-- A routine slot at reset (R301). -/
def RoutineSlot.idle : RoutineSlot := ⟨false, 0, [], [], none⟩

/-- A control block at reset: retired, every other field zero (R329). -/
def blockReset : Sparse Word := [(0, 0xA000000000000000)]

def CtxExtra.none : CtxExtra :=
  { boundAt := 0, quantum := 0, usedB := 0, wanted := false, starved := false, parked := [], dlDone := true, servedDesc := true,
    bindDesc := 0, failed := [], scrubbing := [], reqseq := 0, trapAll := [], trapZero := [], record := Option.none, ringPresets := [], bobbinPresets := [] }

/-- A port of Vudric Link at reset (log entry 8). -/
def LinkPort.reset : LinkPort := ⟨1, 0, [], 0, true, [], [], [], 0, []⟩

/-- A service core at reset (log entry 9). -/
def ServiceCore.reset : ServiceCore := ⟨[], 0, [], none, 0, 0, 0, 0⟩

/-- A group entry before firmware has written it (log entry 8). -/
def GroupEntry.empty : GroupEntry := ⟨0, 0⟩

/-- An empty vocabulary slot (R359). -/
def VocabSlot.empty : VocabSlot := ⟨0, 0, 0, [], none⟩

def Hub.reset : Hub :=
  { keys := [], vocab := [], requests := [], streams := [], sent := [], dropped := 0, discarded := 0, keySlots := [], shared := [],
    segments := [], arrivalBound := 2 ^ 24, groups := [], memory := [], ports := [], devStatus := [], services := [], transport := [],
    rings := [], responses := [], triggers := 0 }

/-- The platform at reset: boot step 0 comes first (R420). -/
def Platform.reset : Platform :=
  { record := [], recordB := [], flash := [], fwm := List.replicate 48 0, bootSeq := 0, step := 0, running := false, trip := false,
    tripped := false, recovery := false, held := false, resets := [] }

/-- The module right after reset: the boot steps come first. -/
def State.reset : State :=
  { turn := .event .bootStep {}, input := {}, schedule := [], tick := 0, clock := 0, resets := 0, dies := [],
    hub := .reset, platform := .reset, mem := [], blocks := [], extras := [], routines := [] }

end Sys2Proof.Machine
end

