-- ==== Sys2Proof/Machine/Mem.lean ====
section
/-!
DEFINITION. Dies, cores and jobs by number; control-block fields; bytes of memory; the ownership table, bank tags, slices,
translation and the checks an access meets.
-/
namespace Sys2Proof.Machine

/-! Dies, cores, jobs -/

def State.die (s : State) (d : Nat) : Die := Sparse.get .reset s.dies d
def State.setDie (s : State) (d : Nat) (x : Die) : State := { s with dies := Sparse.set .reset s.dies d x }
def State.updDie (s : State) (d : Nat) (f : Die → Die) : State := s.setDie d (f (s.die d))

def Die.core (d : Die) (c : Nat) : Core := Sparse.get .idle d.cores c
def Die.setCore (d : Die) (c : Nat) (x : Core) : Die := { d with cores := Sparse.set .idle d.cores c x }

/-- A core by its module number 16d + c (R13). -/
def State.core (s : State) (n : Nat) : Core := (s.die (n / 16)).core (n % 16)
def State.setCore (s : State) (n : Nat) (x : Core) : State := s.updDie (n / 16) (·.setCore (n % 16) x)
def State.updCore (s : State) (n : Nat) (f : Core → Core) : State := s.setCore n (f (s.core n))

/-- The job a core runs. -/
def State.job? (s : State) (n : Nat) : Option Job := (s.core n).job
def State.setJob (s : State) (n : Nat) (j : Job) : State := s.updCore n fun c => { c with job := some j }
def State.updJob (s : State) (n : Nat) (f : Job → Job) : State :=
  match s.job? n with
  | some j => s.setJob n (f j)
  | none => s

/-- A core number no core has: accesses of a dispatcher or the hub translate at the home die's memory-side unit. -/
def noCore : Nat := 128

def allCores : List Nat := List.range 128
def allDies : List Nat := List.range 8

def Die.slice (d : Die) (i : Nat) : Slice := Sparse.get .idle d.slices i
def Die.setSlice (d : Die) (i : Nat) (x : Slice) : Die := { d with slices := Sparse.set .idle d.slices i x }
def State.slice (s : State) (d i : Nat) : Slice := (s.die d).slice i
def State.setSlice (s : State) (d i : Nat) (x : Slice) : State := s.updDie d (·.setSlice i x)
def State.updSlice (s : State) (d i : Nat) (f : Slice → Slice) : State := s.setSlice d i (f (s.slice d i))

/-- A die's cycle count (R4). -/
def State.cycle (s : State) (d : Nat) : Nat := s.clock + Config.dieOffset s.resets d

/-! Control blocks (R328 to R330) -/

def State.block (s : State) (n : Nat) : Sparse Word := Sparse.get blockReset s.blocks n
/-- The 8-byte field at byte offset `off` of block `n`. -/
def State.blk (s : State) (n off : Nat) : Nat := (Sparse.get (0 : Word) (s.block n) (off / 8)).toNat
def State.setBlk (s : State) (n off v : Nat) : State :=
  { s with blocks := Sparse.set blockReset s.blocks n (Sparse.set (0 : Word) (s.block n) (off / 8) (BitVec.ofNat 64 v)) }

/-- Replace bits `hi:lo` of `x`. -/
def putBits (x hi lo v : Nat) : Nat := x - bits x hi lo * 2 ^ lo + (v % 2 ^ (hi + 1 - lo)) * 2 ^ lo

def State.blkBits (s : State) (n off hi lo : Nat) : Nat := bits (s.blk n off) hi lo
def State.setBlkBits (s : State) (n off hi lo v : Nat) : State := s.setBlk n off (putBits (s.blk n off) hi lo v)

/-- The six states of R23 by their code in CTL (R329). -/
def stIdle : Nat := 0
def stQueued : Nat := 1
def stBound : Nat := 2
def stParked : Nat := 3
def stFaulted : Nat := 4
def stRetired : Nat := 5

def State.ctxState (s : State) (n : Nat) : Nat := s.blkBits n 0 63 61
def State.setCtxState (s : State) (n st : Nat) : State := s.setBlkBits n 0 63 61 st
def State.ctxWid (s : State) (n : Nat) : Nat := s.blkBits n 0 43 32
/-- The home die of a micro-context (R22). -/
def homeDie (n : Nat) : Nat := bits n 12 10

def State.extra (s : State) (n : Nat) : CtxExtra := Sparse.get .none s.extras n
def State.setExtra (s : State) (n : Nat) (x : CtxExtra) : State := { s with extras := Sparse.set .none s.extras n x }
def State.updExtra (s : State) (n : Nat) (f : CtxExtra → CtxExtra) : State := s.setExtra n (f (s.extra n))

/-! Bytes by physical address (R309) -/

def State.byte (s : State) (pa : Nat) : Byte := Sparse.get 0#8 s.mem pa
def State.readPa (s : State) (pa n : Nat) : List Byte := Sparse.read 0#8 s.mem pa n
def State.writePa (s : State) (pa : Nat) (bs : List Byte) : State := { s with mem := Sparse.blit 0#8 s.mem pa bs }
def State.natPa (s : State) (pa n : Nat) : Nat := regionNat s.mem pa n

def paDie (pa : Nat) : Nat := bits pa 51 49
def paTier (pa : Nat) : Nat := bits pa 48 46
def paOff (pa : Nat) : Nat := bits pa 45 0

/-- Bytes of a 128 KiB frame. -/
def frameBytes : Nat := 131072

/-- No ownership entry has this number. -/
def noEntry : Nat := 2 ^ 32

/-- Number of the ownership entry of the frame a physical address lies in (R323); `noEntry` beyond the tier's range. -/
def ownerIndex (pa : Nat) : Nat :=
  let f := paOff pa / frameBytes
  match paTier pa with
  | 0 => if f < 0x4000 then f else noEntry
  | 1 => if f < 1048576 then 0x4000 + f else noEntry
  | 2 => if f < 1048576 then 0x4000 + 1048576 + f else noEntry
  | 3 => if f < 1048576 then 0x4000 + 2097152 + f else noEntry
  | _ => noEntry

/-- The physical address of the frame of ownership entry `i` of die `d`. -/
def framePa (d i : Nat) : Nat :=
  let base := d * 2 ^ 49
  if i < 0x4000 then base + i * frameBytes
  else
    let k := i - 0x4000
    base + (k / 1048576 + 1) * 2 ^ 46 + k % 1048576 * frameBytes

/-- Entry number of the first host-tier frame (R323). -/
def hostBase : Nat := 0x4000 + 2097152

/-- Host-tier frame `f` has been lent to the die (R206). -/
def Die.isLent (d : Die) (f : Nat) : Bool := d.lent.any fun r => r.1 ≤ f && f < r.1 + r.2

/-- Ownership entry `i` of die `d` is that of a frame that exists: 2 GiB of vaults, 36 decimal GB a stack, the lent frames
(R5, R206, R323). -/
def State.frameExists (s : State) (d i : Nat) : Bool :=
  i < 0x4000 || (i < hostBase && (i - 0x4000) % 1048576 < 274658) ||
    (hostBase ≤ i && i < hostBase + 1048576 && (s.die d).isLent (i - hostBase))

/-- Ownership entry `i` of die `d`; that of a frame that does not exist, or has not been lent, reads FREE. -/
def State.ownerEntry (s : State) (d i : Nat) : Nat :=
  if s.frameExists d i then (Sparse.get ownerReset (s.die d).owner i).toNat else 0
def State.setOwner (s : State) (d i v : Nat) : State :=
  s.updDie d fun x => { x with owner := Sparse.set ownerReset x.owner i (BitVec.ofNat 64 v) }
/-- The ownership entry of the frame at a physical address. -/
def State.ownerAt (s : State) (pa : Nat) : Nat := s.ownerEntry (paDie pa) (ownerIndex pa)

def ownFree : Nat := 0
def ownScrub : Nat := 1
def ownOwned : Nat := 2
def ownShared : Nat := 3
def ownArriving : Nat := 4
def ownHost : Nat := 5
def ownMigrating : Nat := 6

def ownState (e : Nat) : Nat := bits e 63 61
def ownPrev (e : Nat) : Nat := bits e 60 58
def ownCode (e : Nat) : Bool := bit e 57
def ownReg (e : Nat) : Bool := bit e 56
def ownPriv (e : Nat) : Bool := bit e 55
def ownFail (e : Nat) : Bool := bit e 54
def ownNv (e : Nat) : Bool := bit e 53
/-- The state a page is checked as: its former one while it is MIGRATING (R317). -/
def ownChecked (e : Nat) : Nat := if ownState e = ownMigrating then ownPrev e else ownState e
/-- A page private to its world: OWNED, or HOST, which every rule of an OWNED page covers (R324). -/
def ownPrivate (st : Nat) : Bool := st = ownOwned || st = ownHost
def ownNwid (e : Nat) : Nat := bits e 51 40
def ownWid (e : Nat) : Nat := bits e 39 28
def ownSeg (e : Nat) : Nat := bits e 15 0

/-- An ownership entry from its fields (R323). -/
def ownMake (st prev : Nat) (code reg priv fail nv : Bool) (nwid wid seg : Nat) : Nat :=
  packBits [(16, seg), (12, 0), (12, wid), (12, nwid), (1, 0), (1, b2n nv), (1, b2n fail), (1, b2n priv), (1, b2n reg),
    (1, b2n code), (3, prev), (3, st)]

/-! Bank tags (R210 to R212) -/

/-- A frame lies in a vault. -/
def isVault (pa : Nat) : Bool := paTier pa = 0
/-- Bank of a vault address: vault * 128 + bank. -/
def bankOf (pa : Nat) : Nat := paOff pa / 1048576
def State.tag (s : State) (pa : Nat) : Nat := (Sparse.get tagReset (s.die (paDie pa)).tags (bankOf pa)).toNat
def State.setTag (s : State) (pa : Nat) (v : Nat) : State :=
  s.updDie (paDie pa) fun x => { x with tags := Sparse.set tagReset x.tags (bankOf pa) (BitVec.ofNat 16 v) }

/-- The bank tag that agrees with an ownership entry (R211, R323). -/
def tagOf (e : Nat) : Nat :=
  let st := ownState e
  if st = ownFree then 0
  else if st = ownScrub then 0x4000
  else if st = ownShared then 0xC000 + ownWid e
  else 0x8000 + ownWid e

/-- The tag of the bank that holds vault frame `i` once entry `v` is written there: that of `v` where a world owns it,
else that of the first owned frame of the bank, else that of `v` (eight frames share a bank; log entry 16). -/
def State.bankTag (s : State) (d i v : Nat) : Nat :=
  let owned (e : Nat) : Bool := ownState e ≠ ownFree && ownState e ≠ ownScrub
  if owned v then tagOf v
  else
    match ((List.range 8).map fun k => s.ownerEntry d (i / 8 * 8 + k)).find? owned with
    | some e => tagOf e
    | none => tagOf v

/-- Write an ownership entry and, in a vault, its bank tag, in one step (R211). -/
def State.setOwnerTag (s : State) (d i v : Nat) : State :=
  let s' := s.setOwner d i v
  if i < 0x4000 then s'.setTag (framePa d i) (s'.bankTag d i v) else s'

/-! Cache slices (R215 to R218) -/

/-- Slice and set of a physical line number (R215). -/
def sliceOf (line : Nat) : Nat := bits line 4 0 ^^^ bits line 9 5 ^^^ bits line 14 10 ^^^ bits line 19 15
def setOfLine (line : Nat) : Nat := bits line 16 5

def Slice.resident (x : Slice) (line : Nat) : Bool := x.lines.any (·.line = line)
/-- A line an atomic or a routine holds (R288). -/
def Slice.holds (x : Slice) (line : Nat) : Bool := x.queues.any (fun q => q.line = line)
/-- The occupancy counter of a micro-context (R217). -/
def Slice.occupancy (x : Slice) (ctx : Nat) : Nat := (x.lines.filter (·.attr = some ctx)).length

/-- A micro-context is over its soft limit (R217). -/
def State.overLimit (s : State) (x : Slice) (ctx : Nat) : Bool :=
  let lim := s.blkBits ctx 0x50 63 47
  lim ≠ 0 && x.occupancy ctx ≥ lim

/-- The line that makes room for a fill of set `set` by `ctx` (R218); none where a way is free. -/
def State.victim (s : State) (x : Slice) (set ctx : Nat) : Option Nat :=
  let ways := x.lines.filter (fun l => setOfLine l.line = set)
  if ways.length < 16 then none
  else
    let free := ways.filter (fun l => !x.holds l.line)
    let mine := free.filter (fun l => l.attr = some ctx)
    let ofOver := free.filter (fun l => match l.attr with
      | some c => s.overLimit x c
      | none => false)
    let pick (l : List CacheLine) : Option Nat := l.head?.map (·.line)
    if s.overLimit x ctx && !mine.isEmpty then pick mine
    else if !ofOver.isEmpty then pick ofOver
    else pick free

/-- Bring the line of a physical address into its slice for `ctx`, making it the most recently used (R215, R217, R218).
A line that leaves is written back: memory holds its bytes already. -/
def State.fillLine (s : State) (pa ctx : Nat) : State :=
  let line := pa / 64
  let d := paDie pa
  let i := sliceOf line
  let x := s.slice d i
  match x.lines.find? (·.line = line) with
  | some l => s.setSlice d i { x with lines := x.lines.filter (·.line ≠ line) ++ [l] }
  | none =>
    let kept := match s.victim x (setOfLine line) ctx with
      | some v => x.lines.filter (·.line ≠ v)
      | none => x.lines
    let attr := if ownChecked (s.ownerAt pa) = ownShared then none else some ctx
    s.setSlice d i { x with lines := kept ++ [⟨line, false, attr, []⟩] }

/-- Mark the resident line of a physical address dirty: the page keeps the bytes the line had (R215). -/
def State.dirtyLine (s : State) (pa : Nat) : State :=
  let line := pa / 64
  s.updSlice (paDie pa) (sliceOf line) fun x =>
    { x with lines := x.lines.map fun l =>
        if l.line = line && !l.dirty then { l with dirty := true, stale := s.readPa (64 * line) 64 } else l }

/-- Drop the line of a physical address from its slice. -/
def State.dropLine (s : State) (pa : Nat) : State :=
  s.updSlice (paDie pa) (sliceOf (pa / 64)) fun x => { x with lines := x.lines.filter (·.line ≠ pa / 64) }

/-- Write the line of a physical address back to its page (R236). -/
def State.cleanLine (s : State) (pa : Nat) : State :=
  s.updSlice (paDie pa) (sliceOf (pa / 64)) fun x =>
    { x with lines := x.lines.map fun l => if l.line = pa / 64 then { l with dirty := false, stale := [] } else l }

/-- The first addresses of the 64-byte lines that `[pa, pa+n)` touches. -/
def linesOf (pa n : Nat) : List Nat :=
  if n = 0 then [] else (List.range ((pa + n - 1) / 64 - pa / 64 + 1)).map fun i => 64 * (pa / 64 + i)

/-- An access by byte address passes the slices: a page of HBM or of the host tier is cached, a vault line only while it is
resident (R207, R215, R216); the line it uses is the most recently used one (R218). -/
def State.throughSlices (s : State) (pa n ctx : Nat) (write : Bool) : State :=
  (linesOf pa n).foldl (fun s a =>
    if isVault a && !(s.slice (paDie a) (sliceOf (a / 64))).resident (a / 64) then s
    else if write then (s.fillLine a ctx).dirtyLine a else s.fillLine a ctx) s

/-! Translation (R308 to R317) -/

def AccessKind.isWrite : AccessKind → Bool
  | .write => true
  | _ => false

/-- Table entry bits: R, W and X as a number, R in bit 0, W in bit 1, X in bit 2. -/
def entryPerm (e : Nat) : Nat := bits e 4 2

def entryAddr (e : Nat) : Nat := bits e 51 8 * 256

/-- Shift of the index of each level, and its entries (R308, R310). -/
def levelShift : Nat → Nat
  | 0 => 40
  | 1 => 32
  | 2 => 27
  | 3 => 22
  | _ => 17

def levelEntries : Nat → Nat
  | 0 => 512
  | 1 => 256
  | _ => 32

/-- A tier code that exists (R309). -/
def tierOk (pa : Nat) : Bool := paTier pa ≤ 3

/-- A valid entry of level `n` is malformed (R312), for die `d`'s addresses; so is a 4 GiB leaf in a vault, where no such page is
ever placed (R210; log entry 92). -/
def entryMalformed (n d e : Nat) : Bool :=
  let leaf := bit e 1
  let a := entryAddr e
  let perm := entryPerm e
  bits e 63 52 ≠ 0 || bits e 7 5 ≠ 0
    || (leaf && n = 0) || (!leaf && n = 4)
    || (!leaf && perm ≠ 0)
    || (leaf && perm ≠ 1 && perm ≠ 3 && perm ≠ 4)
    || (if leaf then a % 2 ^ levelShift n ≠ 0 else a % (8 * levelEntries (n + 1)) ≠ 0)
    || (leaf && (!tierOk a || paDie a ≠ d || (n = 1 && paTier a = 0)))

/-- A leaf found by a walk: physical address of its page, log2 of the page size, permissions. -/
structure Leaf where
  pa   : Nat
  size : Nat
  perm : Nat
deriving DecidableEq, Repr

/-- A page the walk may read a table from: OWNED (or HOST, R324) by world 0, on the micro-context's home die (R313). -/
def State.tablePage (s : State) (ctx pa : Nat) : Bool :=
  let e := s.ownerAt pa
  ownPrivate (ownState e) && ownWid e = 0 && paDie pa = homeDie ctx

/-- Walk from the table of level `n` at `tab`; `fuel` counts the levels left. -/
def State.walkFrom (s : State) (ctx va : Nat) : (fuel n tab : Nat) → Option Leaf
  | 0, _, _ => none
  | fuel + 1, n, tab =>
    let at_ := tab + 8 * (va / 2 ^ levelShift n % levelEntries n)
    if !s.tablePage ctx at_ then none
    else
      let e := s.natPa at_ 8
      if !bit e 0 || entryMalformed n (bits va 51 49) e then none
      else if bit e 1 then some ⟨entryAddr e, levelShift n, entryPerm e⟩
      else s.walkFrom ctx va fuel (n + 1) (entryAddr e)

/-- The page that a moved or redirected page's table entries still name is where they stand for (R229 step 5, R246 step 3; log entry 60);
frames that a redirection has scattered are translated one by one. -/
def State.renamed (s : State) (wid va : Nat) (l : Leaf) : Leaf :=
  let names := ((s.die (paDie l.pa)).names.filter (·.wid = wid))
  if names.isEmpty then l
  else
    let now (k : Nat) : Nat := ((names.find? (·.src = l.pa / frameBytes + k)).map (·.dst)).getD (l.pa / frameBytes + k)
    if (List.range (2 ^ l.size / frameBytes)).all fun k => now k = now 0 + k then { l with pa := now 0 * frameBytes }
    else { l with pa := now (va % 2 ^ l.size / frameBytes) * frameBytes, size := 17 }

/-- The whole walk of a virtual address for a micro-context (R313, R314); none ends in cause 0x07. -/
def State.walk (s : State) (ctx va : Nat) : Option Leaf :=
  let root := s.blk ctx 0x08
  let at_ := root + 8 * bits va 51 49
  if root = 0 || !s.tablePage ctx at_ then none
  else
    let e := s.natPa at_ 8
    if !bit e 0 || bits e 63 52 ≠ 0 || bits e 7 1 ≠ 0 || entryAddr e % 4096 ≠ 0 then none
    else (s.walkFrom ctx va 5 0 (entryAddr e)).map (s.renamed (s.ctxWid ctx) va)

/-- Whether a walk from the table of level `n` at `tab` reads a table from a page that is not world 0's (R313). -/
def State.walkStrays (s : State) (ctx va : Nat) : (fuel n tab : Nat) → Bool
  | 0, _, _ => false
  | fuel + 1, n, tab =>
    let at_ := tab + 8 * (va / 2 ^ levelShift n % levelEntries n)
    let e := s.natPa at_ 8
    !s.tablePage ctx at_ ||
      (bit e 0 && !entryMalformed n (bits va 51 49) e && !bit e 1 && s.walkStrays ctx va fuel (n + 1) (entryAddr e))

/-- A walk of `va` stops at a table outside world 0's pages: the unit reports it to firmware (R313). -/
def State.tableFault (s : State) (ctx va : Nat) : Bool :=
  let root := s.blk ctx 0x08
  let at_ := root + 8 * bits va 51 49
  let e := s.natPa at_ 8
  root ≠ 0 && (!s.tablePage ctx at_ ||
    (bit e 0 && bits e 63 52 = 0 && bits e 7 1 = 0 && entryAddr e % 4096 = 0 && s.walkStrays ctx va 5 0 (entryAddr e)))

/-- A translation held in a TLB that covers an address. -/
def TlbEntry.hits (t : TlbEntry) (asid va : Nat) : Bool := t.asid = asid && t.va / 2 ^ t.size = va / 2 ^ t.size

/-- The replica in the vault of core `c`, where the entry names one (R225). -/
def TlbEntry.replicaFor (t : TlbEntry) (c : Nat) : Option Nat := t.copies.find? fun pa => paOff pa / 2 ^ 27 = c

/-- The page a memory-side entry gives core `c` of its die: its replica, or the master; while the page collapses, the master
(R225, R226). -/
def TlbEntry.pageFor (t : TlbEntry) (c : Nat) : Nat := if t.coll then t.pa else (t.replicaFor c).getD t.pa

/-- Where an access from `core` for `ctx` finds its translation (R207, R314): the core's TLB for its own die's addresses,
the memory-side TLB of the home die, the walk. -/
def State.leafOf (s : State) (core ctx va : Nat) : Option Leaf :=
  let d := bits va 51 49
  let own := if d = core / 16 then (s.core core).tlb.find? (·.hits ctx va) else none
  match own with
  | some t => some ⟨t.pa, t.size, t.leaf⟩
  | none =>
    match (s.die d).mtlb.find? (·.hits ctx va) with
    | some t => some ⟨if d = core / 16 then t.pageFor (core % 16) else t.pa, t.size, t.leaf⟩
    | none => s.walk ctx va

/-- What an access to one frame meets. -/
inductive Reach where
  | at (pa : Nat)
  /-- a page state stalls it (R224, R226, R230, R264) -/
  | stall (pa : Nat)
  /-- a register page answers it (R199) -/
  | register (pa : Nat)
  | trap (cause addr aux : Nat)
deriving DecidableEq, Repr

/-- `TRAPAUX` of causes 0x07 to 0x09 (R184). -/
def accessAux (k : AccessKind) (reg : Bool) (st : Nat) : Nat :=
  b2n k.isWrite + 2 * b2n (k = .fetch) + 4 * b2n reg + 256 * st

/-- The leaf's permissions refuse the access (R317, second row). -/
def permRefuses (perm : Nat) (k : AccessKind) : Bool :=
  match k with
  | .read => !bit perm 0
  | .write => !bit perm 1
  | .fetch => !bit perm 2

/-- A translation is one of the page of `va`, which lies at `pa`. -/
def TlbEntry.ofPage (t : TlbEntry) (ctx va pa : Nat) : Bool := t.hits ctx va || (t.pa ≤ pa && pa < t.pa + 2 ^ t.size)

/-- The page is read-duplicated (R225): a memory-side entry of it records replicas. -/
def State.duplicated (s : State) (ctx va pa : Nat) : Bool :=
  (s.die (bits va 51 49)).mtlb.any fun t => !t.copies.isEmpty && t.ofPage ctx va pa

/-- The arrival of a write of a job that waits for the collapse of the page at `pa`, or has waited for it (R226). -/
def State.collapseOrder (s : State) (core : Nat) (j : Job) (pa : Nat) : Option Nat :=
  [j.stalls.s, j.stalls.v, j.stalls.m, j.stalls.c].findSome? fun x => match x with
    | some ⟨va, .write, _, some o⟩ => match s.leafOf core j.ctx va with
      | some l => if l.pa ≤ pa && pa < l.pa + 2 ^ l.size then some o else none
      | none => none
    | _ => none

/-- A write of another core has stalled on the same page for its collapse before this one did: it performs first (R226). -/
def State.earlierWrite (s : State) (core pa : Nat) : Bool :=
  let own := ((s.job? core).bind (s.collapseOrder core · pa)).getD s.tick
  s.dies.any fun d => d.2.cores.any fun c => decide (16 * d.1 + c.1 ≠ core) && match c.2.job with
    | some j => match s.collapseOrder (16 * d.1 + c.1) j pa with
      | some o => o < own
      | none => false
    | none => false

/-- The world may use a frame by its ownership entry (third row of R317). A register page that is not private belongs to
no one world (R199); a shared segment belongs to its sharers (R246), also while it is moved (R317); a page in SCRUB has no owner
(R224; log entry 14). -/
def State.worldMay (s : State) (pa e wid : Nat) : Bool :=
  let st := ownState e
  if st = ownFree then false
  else if st = ownScrub then true
  else if ownReg e && !ownPriv e then true
  else if ownChecked e = ownShared then
    ownWid e = wid || s.hub.shared.any (fun g => g.frames.contains (pa / frameBytes) && g.sharers.contains wid)
  else ownWid e = wid

/-- The outcome of an access to a register page (R199): it succeeds, or it traps with cause 0x09. -/
def registerAllows (conf : Bool) (e : Nat) : AccessKind → Bool
  | .read => conf || !ownPriv e
  | .write => if ownPriv e then conf else !conf
  | .fetch => false

/-- The bank check of R212 on a vault address. -/
def State.bankCheck (s : State) (pa wid : Nat) (k : AccessKind) : Option Bool :=
  let t := s.tag pa
  match bits t 15 14 with
  | 0 => some false
  | 1 => none
  | 2 => some (bits t 11 0 = wid)
  | _ => some (k ≠ .write)

/-- One frame of an access by a job of world `wid`: the rows of R317 in order, then the bank check of R212; the tag of a SHARED page
that moves names one world, and its sharers still read it (R230; log entry 93). -/
def State.reach (s : State) (core ctx wid : Nat) (conf : Bool) (k : AccessKind) (va : Nat) : Reach :=
  match s.leafOf core ctx va with
  | none => .trap 0x07 va (accessAux k false 0)
  | some l =>
    let pa := l.pa + va % 2 ^ l.size
    let e := s.ownerAt pa
    let st := ownState e
    let aux := accessAux k (ownReg e) st
    if permRefuses l.perm k then .trap 0x08 va aux
    else if !s.worldMay pa e wid then .trap 0x09 va aux
    else if st = ownScrub then .stall pa
    else if st = ownArriving then
      if ownFail e then .trap 0x0A va (ownSeg e) else .stall pa
    else if st = ownMigrating && k = .write then .stall pa
    else if ownChecked e = ownShared && k = .write then .trap 0x09 va aux
    else if ownCode e != (l.perm = 4) then .trap 0x09 va aux
    else if ownReg e then
      if registerAllows conf e k then .register pa else .trap 0x09 va aux
    else if k = .write && (s.duplicated ctx va pa || s.earlierWrite core pa) then .stall pa
    else if isVault pa then
      match s.bankCheck pa wid k with
      | some true => .at pa
      | some false => if st = ownMigrating && ownChecked e = ownShared then .at pa else .trap 0x09 va aux
      | none => .stall pa
    else .at pa

/-- The pieces of `[va, va+n)` by frame: address and length, ascending (R317). -/
def framePieces (va n : Nat) : List (Nat × Nat) :=
  if n = 0 then []
  else
    (List.range ((va + n - 1) / frameBytes - va / frameBytes + 1)).map fun i =>
      let lo := if i = 0 then va else (va / frameBytes + i) * frameBytes
      (lo, min (va + n) ((va / frameBytes + i + 1) * frameBytes) - lo)

/-- A partition is in reset (R428). -/
def State.down (s : State) (kind unit : Nat) : Bool := s.platform.resets.contains ⟨kind, unit⟩

/-- A piece of an access needs a slice or an HBM channel that is in reset. -/
def State.pieceDown (s : State) (pa n : Nat) : Bool :=
  let hbm : Bool := paTier pa = 1 || paTier pa = 2
  !s.platform.resets.isEmpty && !isVault pa &&
    ((linesOf pa n).any (fun a => s.down 0x02 (32 * paDie pa + sliceOf (a / 64))) ||
      (hbm && s.down 0x04 (32 * (2 * paDie pa + paTier pa - 1) + paOff pa / frameBytes % 32)))

/-- The home die's memory-side unit is in reset, and the core holds no translation of its own. -/
def State.homeDown (s : State) (core ctx va : Nat) : Bool :=
  let d := bits va 51 49
  !(s.die d).alive && !(d = core / 16 && (s.core core).tlb.any (·.hits ctx va))

/-- What a whole access meets: where each piece lies, or the first frame's outcome (R317). -/
inductive Span where
  | at (pieces : List (Nat × Nat))
  | stall (va : Nat)
  /-- some frame is a register page that answers: address, length and whether it is one, by piece -/
  | register (pieces : List (Nat × Nat × Bool))
  | trap (cause addr aux : Nat)
deriving DecidableEq, Repr

/-- Put an ordinary piece, or one of a register page, before the pieces of the later frames. -/
def Span.cons (pa n : Nat) (reg : Bool) : Span → Span
  | .at ps => if reg then .register ((pa, n, true) :: ps.map fun p => (p.1, p.2, false)) else .at ((pa, n) :: ps)
  | .register ps => .register ((pa, n, reg) :: ps)
  | r => r

/-- The first address of the pieces of an access that a register page answers. -/
def registerPa (ps : List (Nat × Nat × Bool)) : Nat := (ps.headD (0, 0, true)).1

/-- The ordinary pieces of an access that register pages answer in part. -/
def ordinaryPieces (ps : List (Nat × Nat × Bool)) : List (Nat × Nat) :=
  (ps.filter fun p => !p.2.2).map fun p => (p.1, p.2.1)

/-- Reach every frame of an access in ascending order; an address with bits 63:52 set traps with cause 0x07 (R308). -/
def State.span (s : State) (core ctx wid : Nat) (conf : Bool) (k : AccessKind) (va n : Nat) : Span :=
  if va ≥ 2 ^ 52 then .trap 0x07 va (accessAux k false 0)
  else
    (framePieces va n).foldr (fun p rest =>
      if p.1 ≥ 2 ^ 52 then .trap 0x07 p.1 (accessAux k false 0)
      else if s.homeDown core ctx p.1 then .stall p.1
      else
        match s.reach core ctx wid conf k p.1 with
        | .at pa => if s.pieceDown pa p.2 then .stall p.1 else rest.cons pa p.2 false
        | .stall _ => .stall p.1
        | .register pa => rest.cons pa p.2 true
        | .trap c a x => .trap c a x) (.at [])

/-- A line of the pieces is held by an atomic or a routine: every other access to it is performed before the hold or after it, so
one that arrives meanwhile waits (R285, R288). -/
def State.heldLine (s : State) (ps : List (Nat × Nat)) : Bool :=
  ps.any fun p => (linesOf p.1 p.2).any fun a => (s.slice (paDie a) (sliceOf (a / 64))).holds (a / 64)

/-- An access by any path but a synchronisation word makes the objects it touches leave their engine (R400). -/
def State.leaveEngine (s : State) (ps : List (Nat × Nat)) : State :=
  ps.foldl (fun s p =>
    s.updDie (paDie p.1) fun d => { d with objects := d.objects.filter fun o => o.1 + 64 ≤ p.1 || p.1 + p.2 ≤ o.1 }) s

/-- The bytes of a reached access. -/
def State.readPieces (s : State) (ps : List (Nat × Nat)) : List Byte := ps.flatMap fun p => s.readPa p.1 p.2

/-- Write bytes to the pieces of a reached access. -/
def State.writePieces (s : State) : List (Nat × Nat) → List Byte → State
  | [], _ => s
  | p :: r, bs => (s.writePa p.1 (bs.take p.2)).writePieces r (bs.drop p.2)

/-- The slices' part of an access to its pieces. -/
def State.throughPieces (s : State) (ps : List (Nat × Nat)) (ctx : Nat) (write : Bool) : State :=
  ps.foldl (fun s p => s.throughSlices p.1 p.2 ctx write) (s.leaveEngine ps)

/-- An address of HBM. -/
def isHbm (pa : Nat) : Bool := paTier pa = 1 || paTier pa = 2

/-- The bytes an HBM page holds of a line: those of its last write back while the line is dirty in its slice (R215). -/
def State.pageLine (s : State) (pa : Nat) : List Byte :=
  match (s.slice (paDie pa) (sliceOf (pa / 64))).lines.find? (fun l => l.line = pa / 64 && l.dirty) with
  | some l => l.stale
  | none => s.readPa (pa / 64 * 64) 64

/-- What the HBM cells of a line hold: a private page under its world's key slot, a shared one under the device's shared key; no
program and no agent outside the base die sees it, every path decrypts (R15, R219). -/
def State.cipherLine (s : State) (pa : Nat) : List Byte :=
  let e := s.ownerAt pa
  let plain := s.pageLine pa
  if ownChecked e = ownOwned then Config.xtsLine (Sparse.get [] s.hub.keySlots (ownWid e)) (pa / 64 * 64) plain
  else if ownChecked e = ownShared then Config.xtsLine Config.sharedKey (pa / 64 * 64) plain
  else plain

/-- The slices' part of an access by tensor handle: its bytes in HBM go through the base die's tensor-store engine and neither fill
nor attribute a line (R15, R206, R245); those of a page elsewhere go as by byte address. -/
def State.aroundSlices (s : State) (ps : List (Nat × Nat)) (ctx : Nat) (write : Bool) : State :=
  ps.foldl (fun s p => if isHbm p.1 then s else s.throughSlices p.1 p.2 ctx write) (s.leaveEngine ps)

/-- The outcome of a read or a write by virtual address. -/
inductive Access (α : Type) where
  | ok (x : α)
  | stall (va : Nat)
  | trap (cause addr aux : Nat)
deriving DecidableEq, Repr

/-- The entry that serves an access becomes the most recently used one (R315). -/
def tlbTouch (tlb : List TlbEntry) (ctx va : Nat) : List TlbEntry :=
  match tlb.find? (·.hits ctx va) with
  | some t => tlb.filter (· ≠ t) ++ [t]
  | none => tlb

/-- The translation an access uses is the most recently used of its TLB (R315). -/
def State.touch (s : State) (core ctx va : Nat) : State :=
  let d := bits va 51 49
  if d = core / 16 && (s.core core).tlb.any (·.hits ctx va) then s.updCore core fun c => { c with tlb := tlbTouch c.tlb ctx va }
  else s.updDie d fun x => { x with mtlb := tlbTouch x.mtlb ctx va }

/-- The bytes of a reached access that register pages answer in part, with free bytes (log entry 15). -/
def State.readRegister (s : State) (ps : List (Nat × Nat × Bool)) : List Byte :=
  ps.flatMap fun p => if p.2.2 then (List.range p.2.1).map fun i => Config.freeByte s.tick (p.1 + i) else s.readPa p.1 p.2.1

/-- Write bytes to the ordinary pieces of an access that register pages answer in part. -/
def State.writeRegister (s : State) : List (Nat × Nat × Bool) → List Byte → State
  | [], _ => s
  | p :: r, bs => (if p.2.2 then s else s.writePa p.1 (bs.take p.2.1)).writeRegister r (bs.drop p.2.1)

/-- Read `n` bytes at a virtual address for a job; it waits for a line that an atomic or a routine holds. -/
def State.load (s : State) (core ctx wid : Nat) (conf : Bool) (va n : Nat) : Access (List Byte × State) :=
  match s.span core ctx wid conf .read va n with
  | .at ps => if s.heldLine ps then .stall va else .ok (s.readPieces ps, (s.throughPieces ps ctx false).touch core ctx va)
  | .stall a => .stall a
  | .register ps =>
    if s.heldLine (ordinaryPieces ps) then .stall va else .ok (s.readRegister ps, (s.throughPieces (ordinaryPieces ps) ctx false).touch core ctx va)
  | .trap c a x => .trap c a x

/-- Write bytes at a virtual address for a job; it waits for a line that an atomic or a routine holds. -/
def State.store (s : State) (core ctx wid : Nat) (conf : Bool) (va : Nat) (bs : List Byte) : Access State :=
  match s.span core ctx wid conf .write va bs.length with
  | .at ps => if s.heldLine ps then .stall va else .ok (((s.throughPieces ps ctx true).writePieces ps bs).touch core ctx va)
  | .stall a => .stall a
  | .register ps =>
    if s.heldLine (ordinaryPieces ps) then .stall va
    else .ok (((s.throughPieces (ordinaryPieces ps) ctx true).writeRegister ps bs).touch core ctx va)
  | .trap c a x => .trap c a x

/-- Read `n` bytes through the tensor store (R15, R252). -/
def State.tensorLoad (s : State) (j : Job) (va n : Nat) : Access (List Byte × State) :=
  match s.span j.core j.ctx j.wid j.conf .read va n with
  | .at ps => if s.heldLine ps then .stall va else .ok (s.readPieces ps, (s.aroundSlices ps j.ctx false).touch j.core j.ctx va)
  | .stall a => .stall a
  | .register _ => s.load j.core j.ctx j.wid j.conf va n
  | .trap c a x => .trap c a x

/-- Write bytes through the tensor store: a line dirty in a slice stays the value every path reads (R15, R207, R252). -/
def State.tensorStore (s : State) (j : Job) (va : Nat) (bs : List Byte) : Access State :=
  match s.span j.core j.ctx j.wid j.conf .write va bs.length with
  | .at ps => if s.heldLine ps then .stall va else .ok (((s.aroundSlices ps j.ctx true).writePieces ps bs).touch j.core j.ctx va)
  | .stall a => .stall a
  | .register _ => s.store j.core j.ctx j.wid j.conf va bs
  | .trap c a x => .trap c a x

/-- The read and write of a job, by its core. -/
def State.jobLoad (s : State) (j : Job) (va n : Nat) : Access (List Byte × State) :=
  s.load j.core j.ctx j.wid j.conf va n
def State.jobStore (s : State) (j : Job) (va : Nat) (bs : List Byte) : Access State :=
  s.store j.core j.ctx j.wid j.conf va bs

/-- Instruction fetch: the bytes, or what the fetch meets (R40, R326). -/
def State.fetch (s : State) (j : Job) (va n : Nat) : Access (List Byte) :=
  match s.span j.core j.ctx j.wid j.conf .fetch va n with
  | .at ps => .ok (s.readPieces ps)
  | .stall a => .stall a
  | .register ps => .trap 0x09 va (accessAux .fetch true (ownState (s.ownerAt (registerPa ps))))
  | .trap c a x => .trap c a x

/-- A fetch from a page of HBM or of the host tier goes through its slice (R206, R207). -/
def State.fetchLines (s : State) (j : Job) (va n : Nat) : State :=
  match s.span j.core j.ctx j.wid j.conf .fetch va n with
  | .at ps => ps.foldl (fun s p => s.throughSlices p.1 p.2 j.ctx false) s
  | _ => s

end Sys2Proof.Machine
end

