-- ==== Sys2Proof/Machine/Job.lean ====
section
/-!
DEFINITION. Registers of a job, its streams and sections, its loop levels: the operations every engine shares.
-/
namespace Sys2Proof.Machine

/-! Scalar, predicate and loop registers (R89 to R93) -/

def Job.rs (j : Job) (r : Nat) : Word := if r = 0 then 0 else Sparse.get 0 j.s r
def Job.ws (j : Job) (r : Nat) (v : Word) : Job := if r = 0 then j else { j with s := Sparse.set 0 j.s r v }
def Job.rp (j : Job) (r : Nat) : Bool := r = 0 || Sparse.get false j.p r
def Job.wp (j : Job) (r : Nat) (v : Bool) : Job := if r = 0 then j else { j with p := Sparse.set false j.p r v }
def Job.rl (j : Job) (n : Nat) : Nat := Sparse.get 0 j.l n
def Job.wl (j : Job) (n v : Nat) : Job := { j with l := Sparse.set 0 j.l n v }

def Job.pendS (j : Job) (r : Nat) : Bool := r ≠ 0 && Sparse.get false j.spend r
def Job.setPendS (j : Job) (r : Nat) (v : Bool) : Job :=
  if r = 0 then j else { j with spend := Sparse.set false j.spend r v }
def Job.pendP (j : Job) (r : Nat) : Bool := r ≠ 0 && Sparse.get false j.ppend r

def Job.level (j : Job) (n : Nat) : Level := Sparse.get .idle j.levels n
def Job.setLevel (j : Job) (n : Nat) (x : Level) : Job := { j with levels := Sparse.set .idle j.levels n x }
def Job.updLevel (j : Job) (n : Nat) (f : Level → Level) : Job := j.setLevel n (f (j.level n))

/-- The value an unused level of a loop table has (R344). -/
def BodySpan.none : BodySpan := ⟨0, 0, 0, 0⟩
def LoopLevel.unused : LoopLevel := ⟨0, 0, .all false, false, false, false, 0, [], .all .none⟩
/-- What the loop table says of level `n`. -/
def Job.loop (j : Job) (n : Nat) : LoopLevel := j.loops.getD n .unused

def allEngines : List Engine := [.s, .v, .m, .c]
def allLevels : List Nat := List.range 8

/-! Streams -/

def Job.stream (j : Job) : Sel → Stream
  | .s => j.streams.s
  | .v => j.streams.v
  | .m => j.streams.m
  | .c => j.streams.c
  | .hs => j.hs
  | .hm => j.hm

def Job.setStream (j : Job) (sel : Sel) (x : Stream) : Job :=
  match sel with
  | .s => { j with streams := j.streams.set .s x }
  | .v => { j with streams := j.streams.set .v x }
  | .m => { j with streams := j.streams.set .m x }
  | .c => { j with streams := j.streams.set .c x }
  | .hs => { j with hs := x }
  | .hm => { j with hm := x }

def Job.updStream (j : Job) (sel : Sel) (f : Stream → Stream) : Job := j.setStream sel (f (j.stream sel))

/-- The fields of a section header (R42). -/
def hMarker (h : Nat) : Nat := bits h 63 60
def hLength (h : Nat) : Nat := if bits h 59 52 = 0 then 256 else bits h 59 52
def hSect (h : Nat) : Nat := bits h 51 40
/-- Wait field 0, 1 or 2: WAITA, WAITB, WAITC. -/
def hWait (h i : Nat) : Nat := bits h (39 - 12 * i) (28 - 12 * i)
def hD (h : Nat) : Bool := bit h 3
def hL (h : Nat) : Bool := bit h 2
def hK (h : Nat) : Bool := bit h 1
def hE (h : Nat) : Bool := bit h 0

/-- A header that traps with cause 0x01 when it is decoded (R42, R44). -/
def headerIllegal (h : Nat) : Bool := hMarker h ≠ 0xF || (hK h && !hL h) || (hL h && hE h)

/-- Address of the header after the section at `a` (R40). -/
def nextHeader (a h : Nat) : Nat := a + 8 + 12 * hLength h

/-- The section number window of R47. -/
def sdiff (d : Int) : Int :=
  let m := d % 4096
  if m > 2048 then m - 4096 else m

/-- Section `x` on the line anchored at section `n`. -/
def place (n x : Nat) : Int := n + sdiff ((x : Int) - n)

/-- A section number lies from FIRST to LAST, placed by the window arithmetic from FIRST; 0xFFF means none (R344). -/
def spanHolds (p : BodySpan) (sect : Nat) : Bool :=
  p.first ≠ 0xFFF && p.last ≠ 0xFFF && 0 ≤ sdiff ((sect : Int) - p.first) && sdiff ((sect : Int) - p.first) ≤ sdiff ((p.last : Int) - p.first)

/-- The level a section of the engine's stream is a body of (R344). -/
def Job.bodyLevel (j : Job) (e : Engine) (sect : Nat) : Option Nat :=
  allLevels.find? fun n => (j.loop n).body.get e && spanHolds ((j.loop n).spans.get e) sect

/-- The first body stream of a level in the order S, V, M, C: it steps the bindings and the counter (R346, R348). -/
def LoopLevel.owner (x : LoopLevel) : Option Engine := allEngines.find? x.body.get

/-- G and g of R347. -/
def Job.share (j : Job) (kind : Nat) : Nat × Nat :=
  if j.child || kind = 0 then (1, 0)
  else if kind = 1 then (min j.gsize 16, j.gidx % 16)
  else (j.ndie + 1, j.gidx / 16)

/-- This core's first pass from `s` on (R347). -/
def firstPass (s G g : Nat) : Nat := s + (g + G - s % G) % G

/-- Step the bound registers of a level by STRIDE times `amount` (R348). -/
def Job.stepBinds (j : Job) (n amount : Nat) : Job :=
  (j.loop n).binds.foldl (fun j b => j.ws b.1 (j.rs b.1 + b.2 * BitVec.ofNat 64 amount)) j

/-- A bound register is pending, so its step waits (R93, R348). -/
def Job.bindsHeld (j : Job) (n : Nat) (e : Engine) : Bool :=
  (j.loop n).owner = some e && (j.loop n).binds.any fun b => j.pendS b.1

/-- The passes of an arming end at its trip count, or at the CLAMP of a drain (R351). -/
def Job.passLimit (j : Job) (n : Nat) : Nat :=
  let t := (j.level n).trip
  match j.preempt with
  | some p =>
    match p.clamp with
    | some c => if p.level = n && !p.cut then min t c else t
    | none => t
  | none => t

/-- A body stream has run its passes of the active arming (R106). -/
def Level.finished (x : Level) (e : Engine) : Bool := x.taken.get e = x.made && x.mode.get e = Pass.out

/-- The stream leaves its arming; when every body stream has, the level becomes inactive and its counter 0 (R106). -/
def Job.finishArming (j : Job) (n : Nat) (e : Engine) (mode : Pass) : Job :=
  let j1 := j.updLevel n fun x => { x with mode := x.mode.set e mode }
  let x := j1.level n
  let done := allEngines.all fun k => !(j1.loop n).body.get k || (x.taken.get k = x.made && x.mode.get k ≠ Pass.next &&
    x.mode.get k ≠ Pass.running)
  if x.active && done then (j1.setLevel n { x with active := false, begun := .all false, fin := .all 0 }).wl n 0 else j1

/-- The end of a pass of level `n` in the engine's stream (R106, R348): its header to go on at, where the level goes on. Between the last
pass of the stream that steps it and the end of the arming, the counter holds that pass plus G (DESIGN CHOICE: R106 gives it the pass run
next, and there is none; log entry 95). -/
def Job.passEnd (j : Job) (n : Nat) (e : Engine) : Job × Option Nat :=
  let x := j.level n
  let G := (j.share (j.loop n).kind).1
  let next := x.pass.get e + G
  let own := (j.loop n).owner = some e
  let j1 := if own then (j.stepBinds n G).wl n (next % 2 ^ 32) else j
  let j2 := j1.updLevel n fun x => { x with pass := x.pass.set e next, fin := x.fin.set e (x.fin.get e + 1) }
  if next < j2.passLimit n then
    (j2.updLevel n fun x => { x with mode := x.mode.set e .next }, some (Sparse.get 0 (j.stream (.ofEngine e)).firsts n))
  else (j2.finishArming n e .out, none)

/-- Replace the preemption record. -/
def Job.updPreempt (j : Job) (f : Preempt → Preempt) : Job :=
  match j.preempt with
  | some p => { j with preempt := some (f p) }
  | none => j

/-- A stream in a drain leaves the level: after its EPI section has retired, or after its last body where it has none
(R351). -/
def Job.markGone (j : Job) (e : Engine) (sect : Nat) : Job :=
  j.updPreempt fun p =>
    let sp := (j.loop p.level).spans.get e
    let fin := (j.level p.level).finished e
    let left := if sp.epi = 0xFFF then fin else fin && sect = sp.epi
    if p.plan.get e = Plan.epilogue && left then { p with gone := p.gone.set e true } else p

/-- What a job stream's section does to the loop levels when it retires; where the stream goes on, if not at the next
header. -/
def Job.sectionEnd (j : Job) (e : Engine) (f : Flight) : Job × Option Nat :=
  let h := f.header.toNat
  let pro := allLevels.find? fun n => (j.loop n).pipe && ((j.loop n).spans.get e).pro = f.sect
  let j1 := match pro with
    | some n => j.updStream (.ofEngine e) fun st => { st with pros := Sparse.set 0 st.pros n f.hdr }
    | none => j
  let r := match j1.bodyLevel e f.sect with
    | some n =>
      if hL h && (j1.level n).mode.get e = Pass.running && f.sect = ((j1.loop n).spans.get e).last then j1.passEnd n e
      else (j1, none)
    | none => (j1, none)
  (r.1.markGone e f.sect, r.2)

/-- The retirement of the oldest section of a stream has to wait: it has commands in flight, or a bound register that the
end of its pass steps is pending. -/
def Job.sectionHeld (j : Job) (sel : Sel) (f : Flight) : Bool :=
  f.out ≠ 0 || (!sel.isHandler && match j.bodyLevel sel.engine f.sect with
    | some n => hL f.header.toNat && f.sect = ((j.loop n).spans.get sel.engine).last && j.bindsHeld n sel.engine
    | none => false)

/-- Retire the oldest section of a stream (R45, R104): its retired-through value, its loop levels, its end (R27). -/
def Job.retireSection (j : Job) (sel : Sel) (f : Flight) : Job :=
  let j1 := j.updStream sel fun st =>
    { st with flight := st.flight.drop 1, rthru := if sdiff ((f.sect : Int) - st.rthru) > 0 then f.sect else st.rthru }
  let r := if sel.isHandler then (j1, none) else j1.sectionEnd sel.engine f
  let st := r.1.stream sel
  if st.closed && st.flight.isEmpty then
    if !f.branch && hE f.header.toNat then r.1.setStream sel { st with closed := false, ended := true }
    else r.1.setStream sel { st with closed := false, hdr := r.2.getD (nextHeader f.hdr f.header.toNat) }
  else r.1

/-- Retire every section of a stream that can retire, oldest first. -/
def Job.settleN : Nat → Sel → Job → Job
  | 0, _, j => j
  | k + 1, sel, j =>
    match (j.stream sel).flight with
    | [] => j
    | f :: _ => if j.sectionHeld sel f then j else Job.settleN k sel (j.retireSection sel f)

def Job.settle (j : Job) (sel : Sel) : Job := Job.settleN (j.stream sel).flight.length sel j

def allSels : List Sel := [.s, .v, .m, .c, .hs, .hm]
def Job.settleAll (j : Job) : Job := allSels.foldl (fun j sel => j.settle sel) j

/-- Close the head section: by its last word, or by a branch to `target` (R104). The words after never issue. -/
def Stream.close (st : Stream) (target : Option Nat) : Stream :=
  match st.header with
  | none => st
  | some h =>
    let f : Flight := ⟨hSect h.toNat, st.hdr, h, st.out, target.isSome⟩
    let st1 := { st with header := none, word := 0, out := 0, fetched := none, flight := st.flight ++ [f] }
    match target with
    | some t => { st1 with hdr := t }
    | none =>
      if hL h.toNat || hE h.toNat then { st1 with closed := true }
      else { st1 with hdr := nextHeader st.hdr h.toNat }

/-- The stream moves past its word; `cmd` is 1 where the word left a command that retires later. -/
def Stream.pass (st : Stream) (cmd : Nat) : Stream :=
  let st1 := { st with word := st.word + 1, fetched := none, out := st.out + cmd }
  match st.header with
  | some h => if st.word + 1 > hLength h.toNat then st1.close none else st1
  | none => st1

/-- The performance counters that count an event rise by `n` (R417). -/
def Job.count (j : Job) (event n : Nat) : Job :=
  j.perfsel.foldl (fun j p =>
    if p.2.toNat % 256 = event then { j with perfcnt := Sparse.set 0 j.perfcnt p.1 (Sparse.get 0 j.perfcnt p.1 + BitVec.ofNat 64 n) }
    else j) j

/-- Words retired by an engine (R417). -/
def retiredEvent : Engine → Nat
  | .s => 0x02
  | .v => 0x03
  | .m => 0x04
  | .c => 0x05

/-- The word of a stream has issued; its sections retire as far as they can. -/
def Job.advance (j : Job) (sel : Sel) (cmd : Nat) : Job :=
  let j1 := (j.updStream sel (·.pass cmd)).settle sel
  if cmd = 0 then j1.count (retiredEvent sel.engine) 1 else j1

/-- The word of a stream has issued; within a `rep` that is one repetition, and the stream goes on after the last (R125). -/
def Job.retireWord (j : Job) (sel : Sel) (cmd : Nat) : Job :=
  match sel with
  | .v =>
    if !j.repValid then j.advance .v cmd
    else if j.repLeft ≤ 1 then { j with repValid := false, repDone := 0, repLeft := 0 }.advance .v cmd
    else { j with repDone := j.repDone + 1, repLeft := j.repLeft - 1 }.count 0x03 1
  | sel => j.advance sel cmd

/-- The word of a stream is a branch taken to `t` (R103, R104). -/
def Job.branch (j : Job) (sel : Sel) (t : Nat) : Job :=
  ((j.updStream sel (·.close (some t))).settle sel).count (retiredEvent sel.engine) 1

/-- One command of a stream's oldest section with commands in flight retires (R45). -/
def Stream.commandDone (st : Stream) : Stream :=
  if st.flight.any (·.out ≠ 0) then
    let pre := st.flight.takeWhile (·.out = 0)
    match st.flight.drop pre.length with
    | f :: r => { st with flight := pre ++ { f with out := f.out - 1 } :: r }
    | [] => st
  else { st with out := st.out - 1 }

def Job.commandDone (j : Job) (sel : Sel) : Job :=
  ((j.updStream sel (·.commandDone)).settle sel).count (retiredEvent sel.engine) 1

/-- Every word the stream has issued has retired. -/
def Stream.drained (st : Stream) : Bool := st.out = 0 && st.flight.all (·.out = 0)

/-- The position of a stream: word index and header, laid out as `RETS` (R183). -/
def Stream.position (st : Stream) : Nat := st.word % 512 * 2 ^ 52 + st.hdr % 2 ^ 52

/-- The position of a stream's first word not retired (R186): a header that has not been passed is no word, so word 1 behind it. -/
def Stream.firstWord (st : Stream) : Nat := max 1 (st.word % 512) * 2 ^ 52 + st.hdr % 2 ^ 52

/-- Set a stream to a position; the section's waits are evaluated again (R192). -/
def Stream.goTo (st : Stream) (pos : Nat) : Stream :=
  { st with hdr := pos % 2 ^ 52, word := pos / 2 ^ 52 % 512, header := none, fetched := none, trapped := false, rdvWait := false }

/-- Go back to the word of the oldest command in flight: it and the commands after it issue again (R160, R249). -/
def Stream.rewind (st : Stream) (w : Nat) : Stream :=
  let pre := st.flight.takeWhile (·.out = 0)
  match st.flight.drop pre.length with
  | f :: _ =>
    { st with flight := pre, hdr := f.hdr, header := some f.header, word := w, out := 0, fetched := none, closed := false }
  | [] => { st with word := w, out := 0, fetched := none }

/-- A stream that starts at an entry (R27, R45). -/
def Stream.start (entry : Nat) : Stream := { Stream.empty with entry := entry, hdr := entry, ended := entry = 0 }

end Sys2Proof.Machine
end

