-- ==== Sys2Proof/Machine/Philox.lean ====
section
/-!
DEFINITION. Philox-4x32-10 (R80), the stochastic-rounding draws (R78) and a child job's seed (R77).
-/
namespace Sys2Proof

def philoxLoop : Nat → Nat × Nat → Nat × Nat × Nat × Nat → Nat × Nat × Nat × Nat
  | 0, _, x => x
  | n + 1, (k0, k1), (x0, x1, x2, x3) =>
    let m0 := 0xD2511F53 * x0
    let m1 := 0xCD9E8D57 * x2
    philoxLoop n ((k0 + 0x9E3779B9) % 2 ^ 32, (k1 + 0xBB67AE85) % 2 ^ 32)
      ((m1 / 2 ^ 32) ^^^ x1 ^^^ k0, m1 % 2 ^ 32, (m0 / 2 ^ 32) ^^^ x3 ^^^ k1, m0 % 2 ^ 32)

/-- The generator of R80: word `i` of the four it returns. -/
def philoxWord (key ctr i : Nat) : Nat :=
  let r := philoxLoop 10 (key % 2 ^ 32, key / 2 ^ 32 % 2 ^ 32)
    (ctr % 2 ^ 32, ctr / 2 ^ 32 % 2 ^ 32, ctr / 2 ^ 64 % 2 ^ 32, ctr / 2 ^ 96 % 2 ^ 32)
  if i = 0 then r.1 else if i = 1 then r.2.1 else if i = 2 then r.2.2.1 else r.2.2.2

/-- The draw for destination element `e` (R78); `engine` is 1 for V, 2 for M, 3 for C. -/
def srDraw (seed gidx engine count e : Nat) : Nat :=
  let ctr := 0xA5 * 2 ^ 120 + gidx % 128 * 2 ^ 66 + engine % 4 * 2 ^ 64 + (count + e / 4) % 2 ^ 64
  philoxWord seed ctr (e % 4) / 2 ^ 8

/-- A child job's SEED (R77). -/
def childSeed (seed ordinal : Nat) : Nat :=
  let ctr := 0xA6 * 2 ^ 120 + ordinal % 2 ^ 64
  philoxWord seed ctr 1 * 2 ^ 32 + philoxWord seed ctr 0

end Sys2Proof
end

