-- ==== Sys2Proof/Machine/Flags.lean ====
section
/-!
DEFINITION. Floating-point flags and enables (R75, R76) and the draws of stochastic rounding (R77, R78) in the job.
-/
namespace Sys2Proof.Machine

/-- Where an engine's five flags start in `FPSTAT` and `FPEN` (R75). -/
def flagShift : Engine → Nat
  | .m => 8
  | .c => 16
  | _ => 0

/-- `FPSTAT` records every flag a word raises (R76). -/
def Job.raise (j : Job) (e : Engine) (fl : Nat) : Job :=
  { j with fpstat := j.fpstat ||| BitVec.ofNat 64 (fl % 32 * 2 ^ flagShift e) }

/-- A raised flag is enabled: the engine traps with cause 0x11 (R76). -/
def Job.fpTraps (j : Job) (e : Engine) (fl : Nat) : Bool := (j.fpen.toNat / 2 ^ flagShift e % 32) &&& fl ≠ 0

/-- The engine's draw count (R77). -/
def Job.drawCount (j : Job) : Engine → Nat
  | .v => j.srcntv.toNat
  | .m => j.srcntm.toNat
  | .c => j.srcntc.toNat
  | .s => 0

/-- The draw for destination element `e` (R78). -/
def Job.draw (j : Job) (en : Engine) (e : Nat) : Nat := srDraw j.srseed.toNat j.drawIdx (engineCodeSr en) (j.drawCount en) e
where
  engineCodeSr : Engine → Nat
    | .s => 0
    | .v => 1
    | .m => 2
    | .c => 3

/-- A word of `n` destination elements that rounds with `.sr` advances the count by ceil(n / 4) (R78). -/
def Job.drawn (j : Job) (en : Engine) (n : Nat) : Job :=
  let k := BitVec.ofNat 64 (ceilDiv n 4)
  match en with
  | .v => { j with srcntv := j.srcntv + k }
  | .m => { j with srcntm := j.srcntm + k }
  | .c => { j with srcntc := j.srcntc + k }
  | .s => j

/-- The count advances only where the word rounds with `.sr`. -/
def Job.drawnIf (j : Job) (en : Engine) (m : Rnd) (n : Nat) : Job := if m = .sr then j.drawn en n else j

end Sys2Proof.Machine
end

