-- ==== Sys2Proof/Machine/Calipers.lean ====
section
/-!
DEFINITION. Caliper monitors: what a write contributes (R85, R410), captures and checks (R411, R412), and the checks of a
register write (R409).
-/
namespace Sys2Proof.Machine

def Job.mon (j : Job) (m : Nat) : Monitor := Sparse.get .idle j.mons m
def Job.setMon (j : Job) (m : Nat) (x : Monitor) : Job := { j with mons := Sparse.set .idle j.mons m x }

def Monitor.en (x : Monitor) : Bool := bit x.cfg.toNat 63
def Monitor.rel (x : Monitor) : Bool := bit x.cfg.toNat 62
def Monitor.fmt (x : Monitor) : Nat := bits x.cfg.toNat 61 59
/-- The window base exponent L (R409). -/
def Monitor.exp (x : Monitor) : Int := toSigned 12 (bits x.cfg.toNat 27 16)
def Monitor.bsh (x : Monitor) : Nat := bits x.cfg.toNat 7 0

/-- Register `o` of a monitor's block as it is read (R408, R409); `CALCMD` and the unassigned slots are zero. -/
def Monitor.word (x : Monitor) (o : Nat) : Nat :=
  let part (v k : Nat) : Nat := v / 2 ^ (64 * k) % 2 ^ 64
  match o with
  | 0 => x.cfg.toNat
  | 1 => x.base.toNat
  | 2 => x.lim.toNat
  | 3 => x.str.toNat
  | 4 => x.bnd.toNat
  | 6 => x.stat.toNat
  | _ =>
    if 8 ≤ o && o < 13 then part x.ref (o - 8)
    else if 0x10 ≤ o && o < 0x15 then part x.acc (o - 0x10)
    else if 0x18 ≤ o && o < 0x1D then part x.tot (o - 0x18)
    else 0

/-- A monitor from its 32 words (R205). -/
def Monitor.ofWords (w : Nat → Nat) : Monitor :=
  let wide (o : Nat) : Nat := packBits ((List.range 5).map fun k => (64, w (o + k)))
  let b (o : Nat) : Word := BitVec.ofNat 64 (w o)
  ⟨b 0, b 1, b 2, b 3, b 4, b 6, wide 8, wide 0x10, wide 0x18⟩

/-- Field size of FMT in bytes. -/
def calSize (fmt : Nat) : Nat :=
  match fmt with
  | 0 => 8
  | 1 => 4
  | 2 => 2
  | 3 => 2
  | 4 => 4
  | _ => 8

/-- The float format of FMT; none for the integers. -/
def calFmt (fmt : Nat) : Option Fmt :=
  match fmt with
  | 0 => some .f64
  | 1 => some .f32
  | 2 => some .bf16
  | 3 => some .f16
  | _ => none

/-- The value a field holds, read in FMT; none for an infinity or a NaN. -/
def calValue (fmt x : Nat) : Option (Int × Int) :=
  match calFmt fmt with
  | some F =>
    match F.decode x with
    | .fin n m e => some (fint n m, e)
    | _ => none
  | none => some (toSigned (8 * calSize fmt) x, 0)

def calLost : Nat := 8
def calRange : Nat := 16
def calNonfin : Nat := 32
def calPart : Nat := 64
def calMism : Nat := 128

/-- Add the value `v * 2^e` into the accumulator (R85). -/
def Monitor.add (x : Monitor) (v : Option (Int × Int)) : Monitor :=
  let flag (x : Monitor) (f : Nat) : Monitor := { x with stat := x.stat ||| BitVec.ofNat 64 f }
  match v with
  | none => flag x calNonfin
  | some (m, e) =>
    let sh := e - x.exp
    -- |v| >= 2^(L + 319)
    let big := if sh ≥ 0 then decide (m.natAbs * 2 ^ sh.toNat ≥ 2 ^ 319) else decide (m.natAbs ≥ 2 ^ (319 + (-sh).toNat))
    if big then flag x calRange
    else
      let c : Int := if sh ≥ 0 then m * ((2 ^ sh.toNat : Nat) : Int) else m / ((2 ^ (-sh).toNat : Nat) : Int)
      let lost := sh < 0 && m % ((2 ^ (-sh).toNat : Nat) : Int) ≠ 0
      let y := { x with acc := (((x.acc : Int) + c) % ((2 ^ 320 : Nat) : Int)).toNat }
      if lost then flag y calLost else y

/-- A write of bytes at `va` as an enabled monitor sees it: a field covered whole contributes, one covered in part sets
PART (R410). -/
def Monitor.observe (x : Monitor) (va : Nat) (bs : List Byte) : Monitor :=
  let z := calSize x.fmt
  let stride := bits x.str.toNat 31 0
  let base := x.base.toNat + bits x.str.toNat 47 32
  let n := bs.length
  if !x.en || stride = 0 || va + n ≤ base then x
  else
    let lo := if va < base + z then 0 else (va - base - z) / stride + 1
    let hi := (va + n - 1 - base) / stride
    (List.range (hi + 1 - lo)).foldl (fun x i =>
      let a := base + (lo + i) * stride
      if a + z > x.lim.toNat then x
      else if va ≤ a && a + z ≤ va + n then x.add (calValue x.fmt (leNat ((bs.drop (a - va)).take z)))
      else { x with stat := x.stat ||| BitVec.ofNat 64 calPart }) x

/-- Every monitor of the job observes a write (R410). -/
def Job.observe (j : Job) (va : Nat) (bs : List Byte) : Job :=
  j.mons.foldl (fun j p => j.setMon p.1 ((j.mon p.1).observe va bs)) j

/-- A value `mtsr` or a preset may give the registers of an enabled monitor (R409). -/
def calConfigOk (cfg base lim str : Word) : Bool :=
  let fmt := bits cfg.toNat 61 59
  let z := calSize fmt
  let stride := bits str.toNat 31 0
  let off := bits str.toNat 47 32
  fmt < 6 && (!bit cfg.toNat 63 ||
    (stride ≠ 0 && stride % z = 0 && off % z = 0 && off + z ≤ stride && base.toNat % z = 0 && lim.toNat > base.toNat))

/-- `ulp(x)` at a reference in FMT, as `m * 2^e` (R86). -/
def calUlp (fmt : Nat) (m : Nat) (e : Int) : Int :=
  match calFmt fmt with
  | none => 0
  | some F =>
    let least := F.emin - F.tbits
    if m = 0 then least
    else
      let top := (Nat.log2 m : Int) + e
      if top < F.emin then least else top - F.tbits

/-- The outcome of a check (R412): total, GFL, mismatch, drift. -/
structure CheckResult where
  tot   : Nat
  gfl   : Nat
  mism  : Bool
  drift : Bool
deriving DecidableEq, Repr

/-- `2^a * x ≤ 2^b * y`, exactly. -/
def scaledLe (x : Nat) (a : Int) (y : Nat) (b : Int) : Bool :=
  let m := min a b
  decide (x * 2 ^ (a - m).toNat ≤ y * 2 ^ (b - m).toNat)

/-- Combine captures, by ascending group index, into an exact check (R412). -/
def calCheck (cs : List Monitor) : CheckResult :=
  match cs with
  | [] => ⟨0, 0, false, false⟩
  | c :: _ =>
    let tot := (cs.foldl (fun t x => t + x.acc) 0) % 2 ^ 320
    let mism := cs.any fun x => x.fmt ≠ c.fmt || x.exp ≠ c.exp || !x.en
    let gfl := cs.foldl (fun g x => g ||| (x.stat.toNat % 256 / 8 * 8)) 0
    let t : Int := toSigned 320 tot
    let r : Int := toSigned 320 c.ref
    let d := (t - r).natAbs
    let within := if c.rel then
        (let u := if (calFmt c.fmt).isSome then calUlp c.fmt r.natAbs c.exp else 0
         scaledLe d c.exp c.bnd.toNat u)
      else scaledLe d c.exp c.bnd.toNat (c.exp + c.bsh)
    ⟨tot, gfl, mism, !within || mism || cs.any (fun x => x.stat.toNat &&& (calRange ||| calNonfin) ≠ 0)⟩

/-- Write a check's result into a monitor (R413): GFL anew, DONE, and the sticky MISM and DRIFT. -/
def Monitor.store (x : Monitor) (r : CheckResult) : Monitor :=
  let old := putBits x.stat.toNat 15 8 r.gfl
  { x with tot := r.tot, stat := BitVec.ofNat 64 (old ||| 1 ||| (if r.drift then 2 else 0) ||| (if r.mism then calMism else 0)) }

end Sys2Proof.Machine
end

