-- ==== Sys2Proof/Machine/Encoding.lean ====
section
/-!
DEFINITION. The bits of every word: the formats (R50, R57), the opcode maps (R58 to R60), the slice words (R297, R298)
and the two service-core instructions (R391), each way: from an instruction to its bits and from bits to a candidate.
-/
namespace Sys2Proof

/-- Field widths of format SR, low field first (R57). -/
def widthsSR : List Nat := [46, 5, 4, 6, 6, 6, 6, 4, 4, 1, 8]

def encSR (opc : Nat) (f : SR) : Nat :=
  packBits [(46, 0), (5, f.ty.toNat), (4, f.pd.toNat), (6, f.c.toNat), (6, f.b.toNat), (6, f.a.toNat), (6, f.d.toNat), (4, 0), (4, f.g.pred.toNat), (1, f.g.neg.toNat), (8, opc)]

def decSR (w : Nat) : SR :=
  match unpackBits widthsSR w with
  | [_, xty, xpd, xc, xb, xa, xd, _, xgpred, xgneg, _] =>
    { g := { neg := BitVec.ofNat 1 xgneg, pred := BitVec.ofNat 4 xgpred },
      d := BitVec.ofNat 6 xd,
      a := BitVec.ofNat 6 xa,
      b := BitVec.ofNat 6 xb,
      c := BitVec.ofNat 6 xc,
      pd := BitVec.ofNat 4 xpd,
      ty := BitVec.ofNat 5 xty }
  | _ => { g := { neg := 0, pred := 0 }, d := 0, a := 0, b := 0, c := 0, pd := 0, ty := 0 }

/-- Field widths of format SI, low field first (R57). -/
def widthsSI : List Nat := [48, 10, 4, 5, 6, 6, 4, 4, 1, 8]

def encSI (opc : Nat) (f : SI) : Nat :=
  packBits [(48, f.imm.toNat), (10, 0), (4, f.pd.toNat), (5, f.ty.toNat), (6, f.a.toNat), (6, f.d.toNat), (4, 0), (4, f.g.pred.toNat), (1, f.g.neg.toNat), (8, opc)]

def decSI (w : Nat) : SI :=
  match unpackBits widthsSI w with
  | [ximm, _, xpd, xty, xa, xd, _, xgpred, xgneg, _] =>
    { g := { neg := BitVec.ofNat 1 xgneg, pred := BitVec.ofNat 4 xgpred },
      d := BitVec.ofNat 6 xd,
      a := BitVec.ofNat 6 xa,
      ty := BitVec.ofNat 5 xty,
      pd := BitVec.ofNat 4 xpd,
      imm := BitVec.ofNat 48 ximm }
  | _ => { g := { neg := 0, pred := 0 }, d := 0, a := 0, ty := 0, pd := 0, imm := 0 }

/-- Field widths of format SM, low field first (R57). -/
def widthsSM : List Nat := [26, 4, 1, 1, 2, 5, 2, 2, 6, 6, 6, 6, 6, 6, 4, 4, 1, 8]

def encSM (opc : Nat) (f : SM) : Nat :=
  packBits [(26, f.disp.toNat), (4, f.rout.toNat), (1, f.te.toNat), (1, f.nr.toNat), (2, f.scale.toNat), (5, f.ty.toNat), (2, f.scope.toNat), (2, f.ord.toNat), (6, f.f.toNat), (6, f.e.toNat), (6, f.c.toNat), (6, f.b.toNat), (6, f.a.toNat), (6, f.d.toNat), (4, f.cls.toNat), (4, f.g.pred.toNat), (1, f.g.neg.toNat), (8, opc)]

def decSM (w : Nat) : SM :=
  match unpackBits widthsSM w with
  | [xdisp, xrout, xte, xnr, xscale, xty, xscope, xord, xf, xe, xc, xb, xa, xd, xcls, xgpred, xgneg, _] =>
    { g := { neg := BitVec.ofNat 1 xgneg, pred := BitVec.ofNat 4 xgpred },
      cls := BitVec.ofNat 4 xcls,
      d := BitVec.ofNat 6 xd,
      a := BitVec.ofNat 6 xa,
      b := BitVec.ofNat 6 xb,
      c := BitVec.ofNat 6 xc,
      e := BitVec.ofNat 6 xe,
      f := BitVec.ofNat 6 xf,
      ord := BitVec.ofNat 2 xord,
      scope := BitVec.ofNat 2 xscope,
      ty := BitVec.ofNat 5 xty,
      scale := BitVec.ofNat 2 xscale,
      nr := BitVec.ofNat 1 xnr,
      te := BitVec.ofNat 1 xte,
      rout := BitVec.ofNat 4 xrout,
      disp := BitVec.ofNat 26 xdisp }
  | _ => { g := { neg := 0, pred := 0 }, cls := 0, d := 0, a := 0, b := 0, c := 0, e := 0, f := 0, ord := 0, scope := 0, ty := 0, scale := 0, nr := 0, te := 0, rout := 0, disp := 0 }

/-- Field widths of format SX, low field first (R57). -/
def widthsSX : List Nat := [32, 13, 2, 2, 12, 6, 6, 6, 4, 4, 1, 8]

def encSX (opc : Nat) (f : SX) : Nat :=
  packBits [(32, f.imm.toNat), (13, 0), (2, f.scope.toNat), (2, f.ord.toNat), (12, f.idx.toNat), (6, f.b.toNat), (6, f.a.toNat), (6, f.d.toNat), (4, f.cls.toNat), (4, f.g.pred.toNat), (1, f.g.neg.toNat), (8, opc)]

def decSX (w : Nat) : SX :=
  match unpackBits widthsSX w with
  | [ximm, _, xscope, xord, xidx, xb, xa, xd, xcls, xgpred, xgneg, _] =>
    { g := { neg := BitVec.ofNat 1 xgneg, pred := BitVec.ofNat 4 xgpred },
      cls := BitVec.ofNat 4 xcls,
      d := BitVec.ofNat 6 xd,
      a := BitVec.ofNat 6 xa,
      b := BitVec.ofNat 6 xb,
      idx := BitVec.ofNat 12 xidx,
      ord := BitVec.ofNat 2 xord,
      scope := BitVec.ofNat 2 xscope,
      imm := BitVec.ofNat 32 ximm }
  | _ => { g := { neg := 0, pred := 0 }, cls := 0, d := 0, a := 0, b := 0, idx := 0, ord := 0, scope := 0, imm := 0 }

/-- Field widths of format VR, low field first (R57). -/
def widthsVR : List Nat := [28, 3, 1, 3, 5, 5, 3, 1, 6, 6, 6, 6, 6, 4, 4, 1, 8]

def encVR (opc : Nat) (f : VR) : Nat :=
  packBits [(28, f.ctl.toNat), (3, f.kd.toNat), (1, f.sat.toNat), (3, f.rnd.toNat), (5, f.dty.toNat), (5, f.ty.toNat), (3, f.k.toNat), (1, f.m.toNat), (6, f.sreg.toNat), (6, f.vc.toNat), (6, f.vb.toNat), (6, f.va.toNat), (6, f.vd.toNat), (4, 0), (4, f.g.pred.toNat), (1, f.g.neg.toNat), (8, opc)]

def decVR (w : Nat) : VR :=
  match unpackBits widthsVR w with
  | [xctl, xkd, xsat, xrnd, xdty, xty, xk, xm, xsreg, xvc, xvb, xva, xvd, _, xgpred, xgneg, _] =>
    { g := { neg := BitVec.ofNat 1 xgneg, pred := BitVec.ofNat 4 xgpred },
      vd := BitVec.ofNat 6 xvd,
      va := BitVec.ofNat 6 xva,
      vb := BitVec.ofNat 6 xvb,
      vc := BitVec.ofNat 6 xvc,
      sreg := BitVec.ofNat 6 xsreg,
      m := BitVec.ofNat 1 xm,
      k := BitVec.ofNat 3 xk,
      ty := BitVec.ofNat 5 xty,
      dty := BitVec.ofNat 5 xdty,
      rnd := BitVec.ofNat 3 xrnd,
      sat := BitVec.ofNat 1 xsat,
      kd := BitVec.ofNat 3 xkd,
      ctl := BitVec.ofNat 28 xctl }
  | _ => { g := { neg := 0, pred := 0 }, vd := 0, va := 0, vb := 0, vc := 0, sreg := 0, m := 0, k := 0, ty := 0, dty := 0, rnd := 0, sat := 0, kd := 0, ctl := 0 }

/-- Field widths of format VS, low field first (R57). -/
def widthsVS : List Nat := [32, 1, 3, 1, 5, 2, 2, 15, 6, 6, 6, 4, 4, 1, 8]

def encVS (opc : Nat) (f : VS) : Nat :=
  packBits [(32, f.disp.toNat), (1, 0), (3, f.k.toNat), (1, f.m.toNat), (5, f.ty.toNat), (2, f.scope.toNat), (2, f.ord.toNat), (15, f.top.toNat), (6, f.sidx.toNat), (6, f.sbase.toNat), (6, f.v.toNat), (4, f.cls.toNat), (4, f.g.pred.toNat), (1, f.g.neg.toNat), (8, opc)]

def decVS (w : Nat) : VS :=
  match unpackBits widthsVS w with
  | [xdisp, _, xk, xm, xty, xscope, xord, xtop, xsidx, xsbase, xv, xcls, xgpred, xgneg, _] =>
    { g := { neg := BitVec.ofNat 1 xgneg, pred := BitVec.ofNat 4 xgpred },
      cls := BitVec.ofNat 4 xcls,
      v := BitVec.ofNat 6 xv,
      sbase := BitVec.ofNat 6 xsbase,
      sidx := BitVec.ofNat 6 xsidx,
      top := BitVec.ofNat 15 xtop,
      ord := BitVec.ofNat 2 xord,
      scope := BitVec.ofNat 2 xscope,
      ty := BitVec.ofNat 5 xty,
      m := BitVec.ofNat 1 xm,
      k := BitVec.ofNat 3 xk,
      disp := BitVec.ofNat 32 xdisp }
  | _ => { g := { neg := 0, pred := 0 }, cls := 0, v := 0, sbase := 0, sidx := 0, top := 0, ord := 0, scope := 0, ty := 0, m := 0, k := 0, disp := 0 }

/-- Field widths of format VP, low field first (R57). -/
def widthsVP : List Nat := [37, 4, 4, 4, 4, 4, 16, 6, 4, 4, 1, 8]

def encVP (opc : Nat) (f : VP) : Nat :=
  packBits [(37, 0), (4, f.tstep.toNat), (4, f.cstep.toNat), (4, f.bstep.toNat), (4, f.astep.toNat), (4, f.dstep.toNat), (16, f.count.toNat), (6, f.creg.toNat), (4, 0), (4, f.g.pred.toNat), (1, f.g.neg.toNat), (8, opc)]

def decVP (w : Nat) : VP :=
  match unpackBits widthsVP w with
  | [_, xtstep, xcstep, xbstep, xastep, xdstep, xcount, xcreg, _, xgpred, xgneg, _] =>
    { g := { neg := BitVec.ofNat 1 xgneg, pred := BitVec.ofNat 4 xgpred },
      creg := BitVec.ofNat 6 xcreg,
      count := BitVec.ofNat 16 xcount,
      dstep := BitVec.ofNat 4 xdstep,
      astep := BitVec.ofNat 4 xastep,
      bstep := BitVec.ofNat 4 xbstep,
      cstep := BitVec.ofNat 4 xcstep,
      tstep := BitVec.ofNat 4 xtstep }
  | _ => { g := { neg := 0, pred := 0 }, creg := 0, count := 0, dstep := 0, astep := 0, bstep := 0, cstep := 0, tstep := 0 }

/-- Field widths of format MM, low field first (R57). -/
def widthsMM : List Nat := [14, 1, 15, 15, 2, 2, 13, 5, 5, 2, 2, 3, 4, 4, 1, 8]

def encMM (opc : Nat) (f : MM) : Nat :=
  packBits [(14, 0), (1, f.z.toNat), (15, f.tb.toNat), (15, f.ta.toNat), (2, f.scope.toNat), (2, f.ord.toNat), (13, f.km1.toNat), (5, f.bty.toNat), (5, f.aty.toNat), (2, f.weft.toNat), (2, f.warp.toNat), (3, f.acc.toNat), (4, f.cls.toNat), (4, f.g.pred.toNat), (1, f.g.neg.toNat), (8, opc)]

def decMM (w : Nat) : MM :=
  match unpackBits widthsMM w with
  | [_, xz, xtb, xta, xscope, xord, xkm1, xbty, xaty, xweft, xwarp, xacc, xcls, xgpred, xgneg, _] =>
    { g := { neg := BitVec.ofNat 1 xgneg, pred := BitVec.ofNat 4 xgpred },
      cls := BitVec.ofNat 4 xcls,
      acc := BitVec.ofNat 3 xacc,
      warp := BitVec.ofNat 2 xwarp,
      weft := BitVec.ofNat 2 xweft,
      aty := BitVec.ofNat 5 xaty,
      bty := BitVec.ofNat 5 xbty,
      km1 := BitVec.ofNat 13 xkm1,
      ord := BitVec.ofNat 2 xord,
      scope := BitVec.ofNat 2 xscope,
      ta := BitVec.ofNat 15 xta,
      tb := BitVec.ofNat 15 xtb,
      z := BitVec.ofNat 1 xz }
  | _ => { g := { neg := 0, pred := 0 }, cls := 0, acc := 0, warp := 0, weft := 0, aty := 0, bty := 0, km1 := 0, ord := 0, scope := 0, ta := 0, tb := 0, z := 0 }

/-- Field widths of format MA, low field first (R57). -/
def widthsMA : List Nat := [32, 7, 6, 2, 2, 1, 3, 5, 15, 3, 3, 4, 4, 1, 8]

def encMA (opc : Nat) (f : MA) : Nat :=
  packBits [(32, f.imm.toNat), (7, 0), (6, f.sbase.toNat), (2, f.scope.toNat), (2, f.ord.toNat), (1, f.sat.toNat), (3, f.rnd.toNat), (5, f.ty.toNat), (15, f.top.toNat), (3, f.acc2.toNat), (3, f.acc.toNat), (4, f.cls.toNat), (4, f.g.pred.toNat), (1, f.g.neg.toNat), (8, opc)]

def decMA (w : Nat) : MA :=
  match unpackBits widthsMA w with
  | [ximm, _, xsbase, xscope, xord, xsat, xrnd, xty, xtop, xacc2, xacc, xcls, xgpred, xgneg, _] =>
    { g := { neg := BitVec.ofNat 1 xgneg, pred := BitVec.ofNat 4 xgpred },
      cls := BitVec.ofNat 4 xcls,
      acc := BitVec.ofNat 3 xacc,
      acc2 := BitVec.ofNat 3 xacc2,
      top := BitVec.ofNat 15 xtop,
      ty := BitVec.ofNat 5 xty,
      rnd := BitVec.ofNat 3 xrnd,
      sat := BitVec.ofNat 1 xsat,
      ord := BitVec.ofNat 2 xord,
      scope := BitVec.ofNat 2 xscope,
      sbase := BitVec.ofNat 6 xsbase,
      imm := BitVec.ofNat 32 ximm }
  | _ => { g := { neg := 0, pred := 0 }, cls := 0, acc := 0, acc2 := 0, top := 0, ty := 0, rnd := 0, sat := 0, ord := 0, scope := 0, sbase := 0, imm := 0 }

/-- Field widths of format CC, low field first (R57). -/
def widthsCC : List Nat := [27, 4, 6, 1, 3, 5, 5, 2, 2, 6, 6, 6, 6, 4, 4, 1, 8]

def encCC (opc : Nat) (f : CC) : Nat :=
  packBits [(27, 0), (4, f.tgt.toNat), (6, f.aux.toNat), (1, f.sat.toNat), (3, f.rnd.toNat), (5, f.dty.toNat), (5, f.ty.toNat), (2, f.scope.toNat), (2, f.ord.toNat), (6, f.recd.toNat), (6, f.sd.toNat), (6, f.sa.toNat), (6, f.tok.toNat), (4, f.cls.toNat), (4, f.g.pred.toNat), (1, f.g.neg.toNat), (8, opc)]

def decCC (w : Nat) : CC :=
  match unpackBits widthsCC w with
  | [_, xtgt, xaux, xsat, xrnd, xdty, xty, xscope, xord, xrecd, xsd, xsa, xtok, xcls, xgpred, xgneg, _] =>
    { g := { neg := BitVec.ofNat 1 xgneg, pred := BitVec.ofNat 4 xgpred },
      cls := BitVec.ofNat 4 xcls,
      tok := BitVec.ofNat 6 xtok,
      sa := BitVec.ofNat 6 xsa,
      sd := BitVec.ofNat 6 xsd,
      recd := BitVec.ofNat 6 xrecd,
      ord := BitVec.ofNat 2 xord,
      scope := BitVec.ofNat 2 xscope,
      ty := BitVec.ofNat 5 xty,
      dty := BitVec.ofNat 5 xdty,
      rnd := BitVec.ofNat 3 xrnd,
      sat := BitVec.ofNat 1 xsat,
      aux := BitVec.ofNat 6 xaux,
      tgt := BitVec.ofNat 4 xtgt }
  | _ => { g := { neg := 0, pred := 0 }, cls := 0, tok := 0, sa := 0, sd := 0, recd := 0, ord := 0, scope := 0, ty := 0, dty := 0, rnd := 0, sat := 0, aux := 0, tgt := 0 }

/-- Field widths of format N (R57). -/
def widthsN : List Nat := [83, 4, 1, 8]

def encN (opc : Nat) (g : Guard) : Nat := packBits [(83, 0), (4, g.pred.toNat), (1, g.neg.toNat), (8, opc)]

def decN (w : Nat) : Guard :=
  match unpackBits widthsN w with
  | [_, p, n, _] => { neg := BitVec.ofNat 1 n, pred := BitVec.ofNat 4 p }
  | _ => { neg := 0, pred := 0 }

/-- The opcode of a word (R50). -/
def opcodeOf (w : Nat) : Nat := w / 2 ^ 88 % 256

/-- The forms of opcode `lpent`. -/
def formLpent (f : SI) : Instr :=
  if f.a ≠ 0 then .lpentReg f else if f.imm.getLsbD 47 then .lpentTable f else .lpentImm f

/-- The forms of opcode `semw`. -/
def formSemw (f : SX) : Instr :=
  if f.b ≠ 0 then .semwReg f else .semwImm f

/-- The forms of opcode `sems`. -/
def formSems (f : SX) : Instr :=
  if f.b ≠ 0 then .semsReg f else .semsImm f

/-- The forms of opcode `qwait`. -/
def formQwait (f : SX) : Instr :=
  if f.imm ≠ 0 then .qwaitTimeout f else .qwait f

/-- The forms of opcode `mtsr`. -/
def formMtsr (f : SX) : Instr :=
  let x := f.idx.toNat
    if x = 7 then .trapctlWrite f
    else if x = 0x40 || x = 0x41 || (0x48 ≤ x && x ≤ 0x4B) then .engineSharedRegisterWrite f
    else if 0x100 ≤ x && x < 0x200 && x % 32 = 0 then .calcfgWrite f
    else if 0x100 ≤ x && x < 0x200 && x % 32 = 5 then .calcmdClr f
    else if 0x200 ≤ x && x ≤ 0x207 then .perfselWrite f
    else .mtsr f

/-- The forms of opcode `kmov`. -/
def formKmov (f : VR) : Instr :=
  if f.ctl ≠ 0 then .kmovToScalar f else if f.va = 48 then .kmovFromScalar f else .kmov f

/-- The forms of opcode `mst`. -/
def formMst (f : MA) : Instr :=
  if f.acc2.getLsbD 0 then .mstScratchpad f else .mstTile f

/-- The forms of opcode `mld`. -/
def formMld (f : MA) : Instr :=
  if f.acc2.getLsbD 0 then .mldScratchpad f else .mldTile f

/-- The S map: the candidate a word encodes, its fields as they stand (R58). -/
def candidateS (w : Nat) : Instr :=
  match opcodeOf w with
  | 0x00 => .nop .s (decN w)
  | 0x01 => .add (decSR w)
  | 0x02 => .sub (decSR w)
  | 0x03 => .mul (decSR w)
  | 0x04 => .mulh (decSR w)
  | 0x05 => .madd (decSR w)
  | 0x06 => .div (decSR w)
  | 0x07 => .rem (decSR w)
  | 0x08 => .neg (decSR w)
  | 0x09 => .abs (decSR w)
  | 0x0A => .min (decSR w)
  | 0x0B => .max (decSR w)
  | 0x0C => .and (decSR w)
  | 0x0D => .or (decSR w)
  | 0x0E => .xor (decSR w)
  | 0x0F => .not (decSR w)
  | 0x10 => .shl (decSR w)
  | 0x11 => .shr (decSR w)
  | 0x12 => .rol (decSR w)
  | 0x13 => .ror (decSR w)
  | 0x14 => .clz (decSR w)
  | 0x15 => .ctz (decSR w)
  | 0x16 => .popc (decSR w)
  | 0x17 => .bext (decSR w)
  | 0x18 => .bins (decSR w)
  | 0x19 => .sel (decSR w)
  | 0x1A => .cmpeq (decSR w)
  | 0x1B => .cmpne (decSR w)
  | 0x1C => .cmplt (decSR w)
  | 0x1D => .cmple (decSR w)
  | 0x1E => .pand (decSR w)
  | 0x1F => .por (decSR w)
  | 0x20 => .pxor (decSR w)
  | 0x21 => .pnot (decSR w)
  | 0x22 => .mkva (decSR w)
  | 0x28 => .li (decSI w)
  | 0x29 => .lih (decSI w)
  | 0x2A => .addi (decSI w)
  | 0x2B => .andi (decSI w)
  | 0x2C => .ori (decSI w)
  | 0x2D => .xori (decSI w)
  | 0x2E => .shli (decSI w)
  | 0x2F => .shri (decSI w)
  | 0x30 => .cmpeqi (decSI w)
  | 0x31 => .cmplti (decSI w)
  | 0x40 => .br (decSI w)
  | 0x41 => .brx (decSI w)
  | 0x42 => .call (decSI w)
  | 0x43 => .ret (decSI w)
  | 0x44 => formLpent (decSI w)
  | 0x45 => .lpbrk (decSI w)
  | 0x46 => .lget (decSI w)
  | 0x47 => .lset (decSI w)
  | 0x48 => .spawn (decSX w)
  | 0x60 => .ld (decSM w)
  | 0x61 => .st (decSM w)
  | 0x62 => .prf (decSM w)
  | 0x63 => .atadd (decSM w)
  | 0x64 => .atand (decSM w)
  | 0x65 => .ator (decSM w)
  | 0x66 => .atxor (decSM w)
  | 0x67 => .atmin (decSM w)
  | 0x68 => .atmax (decSM w)
  | 0x69 => .atswp (decSM w)
  | 0x6A => .atcas (decSM w)
  | 0x6B => .atfadd (decSM w)
  | 0x6C => .atfmax (decSM w)
  | 0x6D => .atfmin (decSM w)
  | 0x6E => .lathe (decSM w)
  | 0x6F => .clean (decSM w)
  | 0x70 => .fence (decSX w)
  | 0x80 => .phreg (decSX w)
  | 0x81 => .phdrop (decSX w)
  | 0x82 => .phsig (decSX w)
  | 0x83 => .phwait (decSX w)
  | 0x84 => .phsw (decSX w)
  | 0x85 => formSemw (decSX w)
  | 0x86 => formSems (decSX w)
  | 0x87 => .calchk (decSX w)
  | 0x88 => .rdcnt (decSX w)
  | 0x89 => .rdcyc (decSX w)
  | 0xA0 => .qget (decSX w)
  | 0xA1 => .qpeek (decSX w)
  | 0xA2 => .qlen (decSX w)
  | 0xA3 => formQwait (decSX w)
  | 0xA4 => .spin (decSX w)
  | 0xA5 => .spflush (decSX w)
  | 0xA6 => .spend (decSX w)
  | 0xC0 => .mfsr (decSX w)
  | 0xC1 => formMtsr (decSX w)
  | 0xC2 => .trap (decSX w)
  | 0xC3 => .eret (decSX w)
  | 0xC4 => .cxsw (decSX w)
  | 0xC5 => .yield (decSX w)
  | 0xC6 => .snap (decSX w)
  | 0xC7 => .hcall (decSX w)
  | 0xFE => .rdv .s (decN w)
  | _ => .unassignedOpcode .s (BitVec.ofNat 96 w)

/-- The V map: the candidate a word encodes, its fields as they stand (R59). -/
def candidateV (w : Nat) : Instr :=
  match opcodeOf w with
  | 0x00 => .nop .v (decN w)
  | 0x01 => .vadd (decVR w)
  | 0x02 => .vsub (decVR w)
  | 0x03 => .vmul (decVR w)
  | 0x04 => .vfma (decVR w)
  | 0x05 => .vfms (decVR w)
  | 0x06 => .vfnma (decVR w)
  | 0x07 => .vdiv (decVR w)
  | 0x08 => .vsqrt (decVR w)
  | 0x09 => .vrsqrt (decVR w)
  | 0x0A => .vrcp (decVR w)
  | 0x0B => .vexp2 (decVR w)
  | 0x0C => .vlog2 (decVR w)
  | 0x0D => .vmin (decVR w)
  | 0x0E => .vmax (decVR w)
  | 0x0F => .vabs (decVR w)
  | 0x10 => .vneg (decVR w)
  | 0x11 => .vand (decVR w)
  | 0x12 => .vor (decVR w)
  | 0x13 => .vxor (decVR w)
  | 0x14 => .vnot (decVR w)
  | 0x15 => .vshl (decVR w)
  | 0x16 => .vshr (decVR w)
  | 0x17 => .vmulh (decVR w)
  | 0x18 => .vclz (decVR w)
  | 0x19 => .vpopc (decVR w)
  | 0x1A => .vtanh (decVR w)
  | 0x1B => .verf (decVR w)
  | 0x1C => .vmov (decVR w)
  | 0x1D => .viota (decVR w)
  | 0x40 => .vcmpeq (decVR w)
  | 0x41 => .vcmpne (decVR w)
  | 0x42 => .vcmplt (decVR w)
  | 0x43 => .vcmple (decVR w)
  | 0x44 => .vcmpun (decVR w)
  | 0x45 => .vclass (decVR w)
  | 0x46 => .vsel (decVR w)
  | 0x47 => .vcvt (decVR w)
  | 0x48 => .vmxq (decVR w)
  | 0x49 => .vmxd (decVR w)
  | 0x4A => .kand (decVR w)
  | 0x4B => .kor (decVR w)
  | 0x4C => .kxor (decVR w)
  | 0x4D => .knot (decVR w)
  | 0x4E => formKmov (decVR w)
  | 0x4F => .kpop (decVR w)
  | 0x60 => .vredsum (decVR w)
  | 0x61 => .vredmax (decVR w)
  | 0x62 => .vredmin (decVR w)
  | 0x63 => .vscan (decVR w)
  | 0x64 => .vscanmax (decVR w)
  | 0x65 => .vtopk (decVR w)
  | 0x66 => .vargmax (decVR w)
  | 0x67 => .vrng (decVR w)
  | 0x80 => .vperm (decVR w)
  | 0x81 => .vrot (decVR w)
  | 0x82 => .vzip (decVR w)
  | 0x83 => .vunzip (decVR w)
  | 0x84 => .vtrn (decVR w)
  | 0x85 => .vcompress (decVR w)
  | 0x86 => .vexpand (decVR w)
  | 0x87 => .vrev (decVR w)
  | 0xA0 => .vld (decVS w)
  | 0xA1 => .vst (decVS w)
  | 0xA2 => .vldx (decVS w)
  | 0xA3 => .vstx (decVS w)
  | 0xA4 => .tld (decVS w)
  | 0xA5 => .tst (decVS w)
  | 0xA6 => .vgld (decVS w)
  | 0xA7 => .vgst (decVS w)
  | 0xA8 => .tzero (decVS w)
  | 0xF0 => .rep (decVP w)
  | 0xFE => .rdv .v (decN w)
  | _ => .unassignedOpcode .v (BitVec.ofNat 96 w)

/-- The M map: the candidate a word encodes, its fields as they stand (R60). -/
def candidateM (w : Nat) : Instr :=
  match opcodeOf w with
  | 0x00 => .nop .m (decN w)
  | 0x01 => .mma (decMM w)
  | 0x02 => .mmt (decMM w)
  | 0x20 => .mzero (decMA w)
  | 0x21 => .mscale (decMA w)
  | 0x22 => .mbias (decMA w)
  | 0x23 => formMst (decMA w)
  | 0x24 => formMld (decMA w)
  | 0x25 => .mcopy (decMA w)
  | 0x26 => .mskip (decMA w)
  | 0x40 => .msave (decMA w)
  | 0x41 => .mrestore (decMA w)
  | 0xFE => .rdv .m (decN w)
  | _ => .unassignedOpcode .m (BitVec.ofNat 96 w)

/-- The C map: the candidate a word encodes, its fields as they stand (R60). -/
def candidateC (w : Nat) : Instr :=
  match opcodeOf w with
  | 0x00 => .nop .c (decN w)
  | 0x01 => .cp (decCC w)
  | 0x02 => .cpr (decCC w)
  | 0x03 => .cpt (decCC w)
  | 0x04 => .cptw (decCC w)
  | 0x05 => .cpfill (decCC w)
  | 0x06 => .csem (decCC w)
  | 0x07 => .csemw (decCC w)
  | 0x20 => .ringbind (decCC w)
  | 0x21 => .bobbind (decCC w)
  | 0x22 => .unbind (decCC w)
  | 0x23 => .ringfill (decCC w)
  | 0x40 => .fget (decCC w)
  | 0x41 => .fput (decCC w)
  | 0x42 => .cgsum (decCC w)
  | 0x43 => .fsum (decCC w)
  | 0x44 => .cprime (decCC w)
  | 0xFE => .rdv .c (decN w)
  | _ => .unassignedOpcode .c (BitVec.ofNat 96 w)

def candidate (e : Engine) (w : Nat) : Instr :=
  match e with
  | .s => candidateS w
  | .v => candidateV w
  | .m => candidateM w
  | .c => candidateC w

/-- Where an instruction comes from: a stream word of one engine, a slice word, a service-core instruction, or an event. -/
inductive Source where
  | stream (e : Engine)
  | slice
  | service
  | event
deriving DecidableEq, Repr

def Instr.source : Instr → Source
  | .nop e _ => .stream e
  | .rdv e _ => .stream e
  | .add _ => .stream .s
  | .sub _ => .stream .s
  | .mul _ => .stream .s
  | .mulh _ => .stream .s
  | .madd _ => .stream .s
  | .div _ => .stream .s
  | .rem _ => .stream .s
  | .neg _ => .stream .s
  | .abs _ => .stream .s
  | .min _ => .stream .s
  | .max _ => .stream .s
  | .and _ => .stream .s
  | .or _ => .stream .s
  | .xor _ => .stream .s
  | .not _ => .stream .s
  | .shl _ => .stream .s
  | .shr _ => .stream .s
  | .rol _ => .stream .s
  | .ror _ => .stream .s
  | .clz _ => .stream .s
  | .ctz _ => .stream .s
  | .popc _ => .stream .s
  | .bext _ => .stream .s
  | .bins _ => .stream .s
  | .sel _ => .stream .s
  | .cmpeq _ => .stream .s
  | .cmpne _ => .stream .s
  | .cmplt _ => .stream .s
  | .cmple _ => .stream .s
  | .pand _ => .stream .s
  | .por _ => .stream .s
  | .pxor _ => .stream .s
  | .pnot _ => .stream .s
  | .mkva _ => .stream .s
  | .li _ => .stream .s
  | .lih _ => .stream .s
  | .addi _ => .stream .s
  | .andi _ => .stream .s
  | .ori _ => .stream .s
  | .xori _ => .stream .s
  | .shli _ => .stream .s
  | .shri _ => .stream .s
  | .cmpeqi _ => .stream .s
  | .cmplti _ => .stream .s
  | .br _ => .stream .s
  | .brx _ => .stream .s
  | .call _ => .stream .s
  | .ret _ => .stream .s
  | .lpentReg _ => .stream .s
  | .lpentImm _ => .stream .s
  | .lpentTable _ => .stream .s
  | .lpbrk _ => .stream .s
  | .lget _ => .stream .s
  | .lset _ => .stream .s
  | .spawn _ => .stream .s
  | .ld _ => .stream .s
  | .st _ => .stream .s
  | .prf _ => .stream .s
  | .clean _ => .stream .s
  | .atadd _ => .stream .s
  | .atand _ => .stream .s
  | .ator _ => .stream .s
  | .atxor _ => .stream .s
  | .atmin _ => .stream .s
  | .atmax _ => .stream .s
  | .atswp _ => .stream .s
  | .atcas _ => .stream .s
  | .atfadd _ => .stream .s
  | .atfmax _ => .stream .s
  | .atfmin _ => .stream .s
  | .lathe _ => .stream .s
  | .fence _ => .stream .s
  | .phreg _ => .stream .s
  | .phdrop _ => .stream .s
  | .phsig _ => .stream .s
  | .phwait _ => .stream .s
  | .phsw _ => .stream .s
  | .semwReg _ => .stream .s
  | .semwImm _ => .stream .s
  | .semsReg _ => .stream .s
  | .semsImm _ => .stream .s
  | .calchk _ => .stream .s
  | .rdcnt _ => .stream .s
  | .rdcyc _ => .stream .s
  | .qget _ => .stream .s
  | .qpeek _ => .stream .s
  | .qlen _ => .stream .s
  | .qwait _ => .stream .s
  | .qwaitTimeout _ => .stream .s
  | .spin _ => .stream .s
  | .spflush _ => .stream .s
  | .spend _ => .stream .s
  | .mfsr _ => .stream .s
  | .mtsr _ => .stream .s
  | .trap _ => .stream .s
  | .eret _ => .stream .s
  | .cxsw _ => .stream .s
  | .yield _ => .stream .s
  | .snap _ => .stream .s
  | .hcall _ => .stream .s
  | .trapctlWrite _ => .stream .s
  | .engineSharedRegisterWrite _ => .stream .s
  | .calcfgWrite _ => .stream .s
  | .calcmdClr _ => .stream .s
  | .perfselWrite _ => .stream .s
  | .vadd _ => .stream .v
  | .vsub _ => .stream .v
  | .vmul _ => .stream .v
  | .vfma _ => .stream .v
  | .vfms _ => .stream .v
  | .vfnma _ => .stream .v
  | .vdiv _ => .stream .v
  | .vsqrt _ => .stream .v
  | .vrsqrt _ => .stream .v
  | .vrcp _ => .stream .v
  | .vexp2 _ => .stream .v
  | .vlog2 _ => .stream .v
  | .vmin _ => .stream .v
  | .vmax _ => .stream .v
  | .vabs _ => .stream .v
  | .vneg _ => .stream .v
  | .vand _ => .stream .v
  | .vor _ => .stream .v
  | .vxor _ => .stream .v
  | .vnot _ => .stream .v
  | .vshl _ => .stream .v
  | .vshr _ => .stream .v
  | .vmulh _ => .stream .v
  | .vclz _ => .stream .v
  | .vpopc _ => .stream .v
  | .vtanh _ => .stream .v
  | .verf _ => .stream .v
  | .vmov _ => .stream .v
  | .viota _ => .stream .v
  | .vcmpeq _ => .stream .v
  | .vcmpne _ => .stream .v
  | .vcmplt _ => .stream .v
  | .vcmple _ => .stream .v
  | .vcmpun _ => .stream .v
  | .vclass _ => .stream .v
  | .vsel _ => .stream .v
  | .vcvt _ => .stream .v
  | .vmxq _ => .stream .v
  | .vmxd _ => .stream .v
  | .kand _ => .stream .v
  | .kor _ => .stream .v
  | .kxor _ => .stream .v
  | .knot _ => .stream .v
  | .kmov _ => .stream .v
  | .kmovFromScalar _ => .stream .v
  | .kmovToScalar _ => .stream .v
  | .kpop _ => .stream .v
  | .vredsum _ => .stream .v
  | .vredmax _ => .stream .v
  | .vredmin _ => .stream .v
  | .vscan _ => .stream .v
  | .vscanmax _ => .stream .v
  | .vtopk _ => .stream .v
  | .vargmax _ => .stream .v
  | .vrng _ => .stream .v
  | .vperm _ => .stream .v
  | .vrot _ => .stream .v
  | .vzip _ => .stream .v
  | .vunzip _ => .stream .v
  | .vtrn _ => .stream .v
  | .vcompress _ => .stream .v
  | .vexpand _ => .stream .v
  | .vrev _ => .stream .v
  | .vld _ => .stream .v
  | .vst _ => .stream .v
  | .vldx _ => .stream .v
  | .vstx _ => .stream .v
  | .tld _ => .stream .v
  | .tst _ => .stream .v
  | .vgld _ => .stream .v
  | .vgst _ => .stream .v
  | .tzero _ => .stream .v
  | .rep _ => .stream .v
  | .mma _ => .stream .m
  | .mmt _ => .stream .m
  | .mzero _ => .stream .m
  | .mscale _ => .stream .m
  | .mbias _ => .stream .m
  | .mstTile _ => .stream .m
  | .mstScratchpad _ => .stream .m
  | .mldTile _ => .stream .m
  | .mldScratchpad _ => .stream .m
  | .mcopy _ => .stream .m
  | .mskip _ => .stream .m
  | .msave _ => .stream .m
  | .mrestore _ => .stream .m
  | .cp _ => .stream .c
  | .cpr _ => .stream .c
  | .cpt _ => .stream .c
  | .cptw _ => .stream .c
  | .cpfill _ => .stream .c
  | .csem _ => .stream .c
  | .csemw _ => .stream .c
  | .ringbind _ => .stream .c
  | .bobbind _ => .stream .c
  | .unbind _ => .stream .c
  | .ringfill _ => .stream .c
  | .fget _ => .stream .c
  | .fput _ => .stream .c
  | .cgsum _ => .stream .c
  | .fsum _ => .stream .c
  | .cprime _ => .stream .c
  | .gjDispatch _ _ _ => .service
  | .gjJoin _ _ _ => .service
  | .sliceDone _ => .slice
  | .sliceFail _ => .slice
  | .sliceSkip _ _ _ _ _ => .slice
  | .sliceLi _ _ => .slice
  | .sliceAddi _ _ _ => .slice
  | .sliceAdd _ _ _ => .slice
  | .sliceSub _ _ _ => .slice
  | .sliceAnd _ _ _ => .slice
  | .sliceOr _ _ _ => .slice
  | .sliceXor _ _ _ => .slice
  | .sliceShl _ _ _ => .slice
  | .sliceShr _ _ _ => .slice
  | .sliceSra _ _ _ => .slice
  | .sliceMul _ _ _ => .slice
  | .sliceMin _ _ _ _ => .slice
  | .sliceMax _ _ _ _ => .slice
  | .sliceLld _ _ _ _ => .slice
  | .sliceLldx _ _ _ _ _ => .slice
  | .sliceLst _ _ _ => .slice
  | .sliceLstx _ _ _ _ => .slice
  | .sliceFadd _ _ _ _ => .slice
  | .sliceFmax _ _ _ => .slice
  | .sliceFmin _ _ _ => .slice
  | .unassignedOpcode e _ => .stream e
  | .rdvRelease => .event
  | .hcallReply => .event
  | .repetition => .event
  | .matrixCommandStart => .event
  | .matrixCommandRetire => .event
  | .copyCommandStart => .event
  | .copyGranule => .event
  | .copyCommandRetire => .event
  | .patternPortPush => .event
  | .patternPortDrainPop => .event
  | .sectionIssue => .event
  | .gangPassStart => .event
  | .gangFreezeLift => .event
  | .trapAreaWrite => .event
  | .sliceAdmission => .event
  | .sliceLineFill => .event
  | .builtinAtomicRun => .event
  | .routineRun => .event
  | .translationFill => .event
  | .invalidationAck => .event
  | .scrubZeroFillEnd => .event
  | .migrationPartMoved => .event
  | .segmentVerified => .event
  | .arrivalBoundExpiry => .event
  | .chunkTimeout => .event
  | .requestMessage => .event
  | .hackleTokenisation => .event
  | .requestAppend => .event
  | .vudricFlitReceive => .event
  | .dispatcherDecision => .event
  | .multiDieReservationGrant => .event
  | .multiDieReservationTimeout => .event
  | .periodRelease => .event
  | .budgetExhausted => .event
  | .quantumEnd => .event
  | .starvation => .event
  | .deadlineOverrun => .event
  | .preemptionRequest => .event
  | .engineHold => .event
  | .drainCut => .event
  | .jobSaveComplete => .event
  | .scratchpadGranuleExchange => .event
  | .bankThrottle => .event
  | .thermalTrip => .event
  | .uncorrectableError => .event
  | .partitionBackInService => .event
  | .moduleReset => .event
  | .bootStep => .event
  | .recoveryImage => .event
  | .hotReset => .event
  | .virtioNetMessage => .event
  | .snapshotTrigger => .event
  | .gjJoinTimeout => .event
  | .controlBlockWrite => .event
  | .controlBlockRead => .event
  | .contractSubmission => .event
  | .contractWithdrawal => .event
  | .dispatcherParameterWrite => .event
  | .microContextRetire => .event
  | .faultClear => .event
  | .controlBlockInstall => .event
  | .preemptCommand => .event
  | .shset => .event
  | .shclr => .event
  | .shroot => .event
  | .tlbEntryRead => .event
  | .ownershipEntryRead => .event
  | .frameAssign => .event
  | .frameFree => .event
  | .migration => .event
  | .readDuplicate => .event
  | .segmentShare => .event
  | .sealPages => .event
  | .keyWrite => .event
  | .routineInstallation => .event
  | .routineClearing => .event
  | .routineMapWrite => .event
  | .slotRecordRead => .event
  | .vocabularyLoad => .event
  | .vocabularyUnload => .event
  | .vstatRead => .event
  | .contextKeyInstall => .event
  | .replayCommand => .event
  | .attestationCommand => .event
  | .fabricGroupWrite => .event
  | .runLengthSet => .event
  | .snapshotRecordRead => .event
  | .counterRead => .event
  | .bootStepClear => .event
  | .powerLoss => .event
  | .virtioDeviceStatus => .event
  | .hostTierLending => .event
  | .arrivalBoundSet => .event
  | .serviceCoreInterrupt => .event
  | .vocabularyLoadEnd => .event
  | .sharingEnd => .event
  | .transportKeyInstall => .event

/-- A slice word (R297), low field first. -/
def encSlice (op d a b x : Nat) : Nat := packBits [(18, x), (3, b), (3, a), (3, d), (5, op)]

/-- The X field of a line access (R298): size code, sign bit and offset. -/
def encLineX (s e o : Nat) : Nat := packBits [(6, o), (9, 0), (1, e), (2, s)]

/-- A custom-0 R-type word (R391). -/
def encGj (f3 d a b : Nat) : Nat := packBits [(7, 0x0B), (5, d), (3, f3), (5, a), (5, b), (7, 0)]

/-- The bits of an instruction: 96 for a stream word, 32 for a slice word or a service-core instruction; 0 for an
event, which has no encoding. -/
def Instr.bits : Instr → Nat
  | .nop _ g => encN 0x00 g
  | .rdv _ g => encN 0xFE g
  | .add f => encSR 0x01 f
  | .sub f => encSR 0x02 f
  | .mul f => encSR 0x03 f
  | .mulh f => encSR 0x04 f
  | .madd f => encSR 0x05 f
  | .div f => encSR 0x06 f
  | .rem f => encSR 0x07 f
  | .neg f => encSR 0x08 f
  | .abs f => encSR 0x09 f
  | .min f => encSR 0x0A f
  | .max f => encSR 0x0B f
  | .and f => encSR 0x0C f
  | .or f => encSR 0x0D f
  | .xor f => encSR 0x0E f
  | .not f => encSR 0x0F f
  | .shl f => encSR 0x10 f
  | .shr f => encSR 0x11 f
  | .rol f => encSR 0x12 f
  | .ror f => encSR 0x13 f
  | .clz f => encSR 0x14 f
  | .ctz f => encSR 0x15 f
  | .popc f => encSR 0x16 f
  | .bext f => encSR 0x17 f
  | .bins f => encSR 0x18 f
  | .sel f => encSR 0x19 f
  | .cmpeq f => encSR 0x1A f
  | .cmpne f => encSR 0x1B f
  | .cmplt f => encSR 0x1C f
  | .cmple f => encSR 0x1D f
  | .pand f => encSR 0x1E f
  | .por f => encSR 0x1F f
  | .pxor f => encSR 0x20 f
  | .pnot f => encSR 0x21 f
  | .mkva f => encSR 0x22 f
  | .li f => encSI 0x28 f
  | .lih f => encSI 0x29 f
  | .addi f => encSI 0x2A f
  | .andi f => encSI 0x2B f
  | .ori f => encSI 0x2C f
  | .xori f => encSI 0x2D f
  | .shli f => encSI 0x2E f
  | .shri f => encSI 0x2F f
  | .cmpeqi f => encSI 0x30 f
  | .cmplti f => encSI 0x31 f
  | .br f => encSI 0x40 f
  | .brx f => encSI 0x41 f
  | .call f => encSI 0x42 f
  | .ret f => encSI 0x43 f
  | .lpentReg f => encSI 0x44 f
  | .lpentImm f => encSI 0x44 f
  | .lpentTable f => encSI 0x44 f
  | .lpbrk f => encSI 0x45 f
  | .lget f => encSI 0x46 f
  | .lset f => encSI 0x47 f
  | .spawn f => encSX 0x48 f
  | .ld f => encSM 0x60 f
  | .st f => encSM 0x61 f
  | .prf f => encSM 0x62 f
  | .clean f => encSM 0x6F f
  | .atadd f => encSM 0x63 f
  | .atand f => encSM 0x64 f
  | .ator f => encSM 0x65 f
  | .atxor f => encSM 0x66 f
  | .atmin f => encSM 0x67 f
  | .atmax f => encSM 0x68 f
  | .atswp f => encSM 0x69 f
  | .atcas f => encSM 0x6A f
  | .atfadd f => encSM 0x6B f
  | .atfmax f => encSM 0x6C f
  | .atfmin f => encSM 0x6D f
  | .lathe f => encSM 0x6E f
  | .fence f => encSX 0x70 f
  | .phreg f => encSX 0x80 f
  | .phdrop f => encSX 0x81 f
  | .phsig f => encSX 0x82 f
  | .phwait f => encSX 0x83 f
  | .phsw f => encSX 0x84 f
  | .semwReg f => encSX 0x85 f
  | .semwImm f => encSX 0x85 f
  | .semsReg f => encSX 0x86 f
  | .semsImm f => encSX 0x86 f
  | .calchk f => encSX 0x87 f
  | .rdcnt f => encSX 0x88 f
  | .rdcyc f => encSX 0x89 f
  | .qget f => encSX 0xA0 f
  | .qpeek f => encSX 0xA1 f
  | .qlen f => encSX 0xA2 f
  | .qwait f => encSX 0xA3 f
  | .qwaitTimeout f => encSX 0xA3 f
  | .spin f => encSX 0xA4 f
  | .spflush f => encSX 0xA5 f
  | .spend f => encSX 0xA6 f
  | .mfsr f => encSX 0xC0 f
  | .mtsr f => encSX 0xC1 f
  | .trap f => encSX 0xC2 f
  | .eret f => encSX 0xC3 f
  | .cxsw f => encSX 0xC4 f
  | .yield f => encSX 0xC5 f
  | .snap f => encSX 0xC6 f
  | .hcall f => encSX 0xC7 f
  | .trapctlWrite f => encSX 0xC1 f
  | .engineSharedRegisterWrite f => encSX 0xC1 f
  | .calcfgWrite f => encSX 0xC1 f
  | .calcmdClr f => encSX 0xC1 f
  | .perfselWrite f => encSX 0xC1 f
  | .vadd f => encVR 0x01 f
  | .vsub f => encVR 0x02 f
  | .vmul f => encVR 0x03 f
  | .vfma f => encVR 0x04 f
  | .vfms f => encVR 0x05 f
  | .vfnma f => encVR 0x06 f
  | .vdiv f => encVR 0x07 f
  | .vsqrt f => encVR 0x08 f
  | .vrsqrt f => encVR 0x09 f
  | .vrcp f => encVR 0x0A f
  | .vexp2 f => encVR 0x0B f
  | .vlog2 f => encVR 0x0C f
  | .vmin f => encVR 0x0D f
  | .vmax f => encVR 0x0E f
  | .vabs f => encVR 0x0F f
  | .vneg f => encVR 0x10 f
  | .vand f => encVR 0x11 f
  | .vor f => encVR 0x12 f
  | .vxor f => encVR 0x13 f
  | .vnot f => encVR 0x14 f
  | .vshl f => encVR 0x15 f
  | .vshr f => encVR 0x16 f
  | .vmulh f => encVR 0x17 f
  | .vclz f => encVR 0x18 f
  | .vpopc f => encVR 0x19 f
  | .vtanh f => encVR 0x1A f
  | .verf f => encVR 0x1B f
  | .vmov f => encVR 0x1C f
  | .viota f => encVR 0x1D f
  | .vcmpeq f => encVR 0x40 f
  | .vcmpne f => encVR 0x41 f
  | .vcmplt f => encVR 0x42 f
  | .vcmple f => encVR 0x43 f
  | .vcmpun f => encVR 0x44 f
  | .vclass f => encVR 0x45 f
  | .vsel f => encVR 0x46 f
  | .vcvt f => encVR 0x47 f
  | .vmxq f => encVR 0x48 f
  | .vmxd f => encVR 0x49 f
  | .kand f => encVR 0x4A f
  | .kor f => encVR 0x4B f
  | .kxor f => encVR 0x4C f
  | .knot f => encVR 0x4D f
  | .kmov f => encVR 0x4E f
  | .kmovFromScalar f => encVR 0x4E f
  | .kmovToScalar f => encVR 0x4E f
  | .kpop f => encVR 0x4F f
  | .vredsum f => encVR 0x60 f
  | .vredmax f => encVR 0x61 f
  | .vredmin f => encVR 0x62 f
  | .vscan f => encVR 0x63 f
  | .vscanmax f => encVR 0x64 f
  | .vtopk f => encVR 0x65 f
  | .vargmax f => encVR 0x66 f
  | .vrng f => encVR 0x67 f
  | .vperm f => encVR 0x80 f
  | .vrot f => encVR 0x81 f
  | .vzip f => encVR 0x82 f
  | .vunzip f => encVR 0x83 f
  | .vtrn f => encVR 0x84 f
  | .vcompress f => encVR 0x85 f
  | .vexpand f => encVR 0x86 f
  | .vrev f => encVR 0x87 f
  | .vld f => encVS 0xA0 f
  | .vst f => encVS 0xA1 f
  | .vldx f => encVS 0xA2 f
  | .vstx f => encVS 0xA3 f
  | .tld f => encVS 0xA4 f
  | .tst f => encVS 0xA5 f
  | .vgld f => encVS 0xA6 f
  | .vgst f => encVS 0xA7 f
  | .tzero f => encVS 0xA8 f
  | .rep f => encVP 0xF0 f
  | .mma f => encMM 0x01 f
  | .mmt f => encMM 0x02 f
  | .mzero f => encMA 0x20 f
  | .mscale f => encMA 0x21 f
  | .mbias f => encMA 0x22 f
  | .mstTile f => encMA 0x23 f
  | .mstScratchpad f => encMA 0x23 f
  | .mldTile f => encMA 0x24 f
  | .mldScratchpad f => encMA 0x24 f
  | .mcopy f => encMA 0x25 f
  | .mskip f => encMA 0x26 f
  | .msave f => encMA 0x40 f
  | .mrestore f => encMA 0x41 f
  | .cp f => encCC 0x01 f
  | .cpr f => encCC 0x02 f
  | .cpt f => encCC 0x03 f
  | .cptw f => encCC 0x04 f
  | .cpfill f => encCC 0x05 f
  | .csem f => encCC 0x06 f
  | .csemw f => encCC 0x07 f
  | .ringbind f => encCC 0x20 f
  | .bobbind f => encCC 0x21 f
  | .unbind f => encCC 0x22 f
  | .ringfill f => encCC 0x23 f
  | .fget f => encCC 0x40 f
  | .fput f => encCC 0x41 f
  | .cgsum f => encCC 0x42 f
  | .fsum f => encCC 0x43 f
  | .cprime f => encCC 0x44 f
  | .gjDispatch d a b => encGj 0 d.toNat a.toNat b.toNat
  | .gjJoin d a b => encGj 1 d.toNat a.toNat b.toNat
  | .sliceDone a => encSlice 0x01 0 a.toNat 0 0
  | .sliceFail c => encSlice 0x02 0 0 0 c.toNat
  | .sliceSkip a b c u n => encSlice 0x03 0 a.toNat b.toNat (packBits [(5, n.toNat), (10, 0), (1, u.toNat), (2, c.toNat)])
  | .sliceLi d i => packBits [(24, i.toNat), (3, d.toNat), (5, 0x04)]
  | .sliceAddi d a x => encSlice 0x05 d.toNat a.toNat 0 x.toNat
  | .sliceAdd d a b => encSlice 0x06 d.toNat a.toNat b.toNat 0
  | .sliceSub d a b => encSlice 0x07 d.toNat a.toNat b.toNat 0
  | .sliceAnd d a b => encSlice 0x08 d.toNat a.toNat b.toNat 0
  | .sliceOr d a b => encSlice 0x09 d.toNat a.toNat b.toNat 0
  | .sliceXor d a b => encSlice 0x0A d.toNat a.toNat b.toNat 0
  | .sliceShl d a b => encSlice 0x0B d.toNat a.toNat b.toNat 0
  | .sliceShr d a b => encSlice 0x0C d.toNat a.toNat b.toNat 0
  | .sliceSra d a b => encSlice 0x0D d.toNat a.toNat b.toNat 0
  | .sliceMul d a b => encSlice 0x0E d.toNat a.toNat b.toNat 0
  | .sliceMin d a b t => encSlice 0x0F d.toNat a.toNat b.toNat t.toNat
  | .sliceMax d a b t => encSlice 0x10 d.toNat a.toNat b.toNat t.toNat
  | .sliceLld d s e o => encSlice 0x11 d.toNat 0 0 (encLineX s.toNat e.toNat o.toNat)
  | .sliceLldx d a s e o => encSlice 0x12 d.toNat a.toNat 0 (encLineX s.toNat e.toNat o.toNat)
  | .sliceLst a s o => encSlice 0x13 0 a.toNat 0 (encLineX s.toNat 0 o.toNat)
  | .sliceLstx a b s o => encSlice 0x14 0 a.toNat b.toNat (encLineX s.toNat 0 o.toNat)
  | .sliceFadd d a b t => encSlice 0x15 d.toNat a.toNat b.toNat t.toNat
  | .sliceFmax d a b => encSlice 0x16 d.toNat a.toNat b.toNat 0
  | .sliceFmin d a b => encSlice 0x16 d.toNat a.toNat b.toNat 1
  | .unassignedOpcode _ w => w.toNat
  | .rdvRelease => 0
  | .hcallReply => 0
  | .repetition => 0
  | .matrixCommandStart => 0
  | .matrixCommandRetire => 0
  | .copyCommandStart => 0
  | .copyGranule => 0
  | .copyCommandRetire => 0
  | .patternPortPush => 0
  | .patternPortDrainPop => 0
  | .sectionIssue => 0
  | .gangPassStart => 0
  | .gangFreezeLift => 0
  | .trapAreaWrite => 0
  | .sliceAdmission => 0
  | .sliceLineFill => 0
  | .builtinAtomicRun => 0
  | .routineRun => 0
  | .translationFill => 0
  | .invalidationAck => 0
  | .scrubZeroFillEnd => 0
  | .migrationPartMoved => 0
  | .segmentVerified => 0
  | .arrivalBoundExpiry => 0
  | .chunkTimeout => 0
  | .requestMessage => 0
  | .hackleTokenisation => 0
  | .requestAppend => 0
  | .vudricFlitReceive => 0
  | .dispatcherDecision => 0
  | .multiDieReservationGrant => 0
  | .multiDieReservationTimeout => 0
  | .periodRelease => 0
  | .budgetExhausted => 0
  | .quantumEnd => 0
  | .starvation => 0
  | .deadlineOverrun => 0
  | .preemptionRequest => 0
  | .engineHold => 0
  | .drainCut => 0
  | .jobSaveComplete => 0
  | .scratchpadGranuleExchange => 0
  | .bankThrottle => 0
  | .thermalTrip => 0
  | .uncorrectableError => 0
  | .partitionBackInService => 0
  | .moduleReset => 0
  | .bootStep => 0
  | .recoveryImage => 0
  | .hotReset => 0
  | .virtioNetMessage => 0
  | .snapshotTrigger => 0
  | .gjJoinTimeout => 0
  | .controlBlockWrite => 0
  | .controlBlockRead => 0
  | .contractSubmission => 0
  | .contractWithdrawal => 0
  | .dispatcherParameterWrite => 0
  | .microContextRetire => 0
  | .faultClear => 0
  | .controlBlockInstall => 0
  | .preemptCommand => 0
  | .shset => 0
  | .shclr => 0
  | .shroot => 0
  | .tlbEntryRead => 0
  | .ownershipEntryRead => 0
  | .frameAssign => 0
  | .frameFree => 0
  | .migration => 0
  | .readDuplicate => 0
  | .segmentShare => 0
  | .sealPages => 0
  | .keyWrite => 0
  | .routineInstallation => 0
  | .routineClearing => 0
  | .routineMapWrite => 0
  | .slotRecordRead => 0
  | .vocabularyLoad => 0
  | .vocabularyUnload => 0
  | .vstatRead => 0
  | .contextKeyInstall => 0
  | .replayCommand => 0
  | .attestationCommand => 0
  | .fabricGroupWrite => 0
  | .runLengthSet => 0
  | .snapshotRecordRead => 0
  | .counterRead => 0
  | .bootStepClear => 0
  | .powerLoss => 0
  | .virtioDeviceStatus => 0
  | .hostTierLending => 0
  | .arrivalBoundSet => 0
  | .serviceCoreInterrupt => 0
  | .vocabularyLoadEnd => 0
  | .sharingEnd => 0
  | .transportKeyInstall => 0

/-- The slice instruction a word encodes, its fields as they stand; none for a reserved OP (R297). -/
def candidateSlice (w : Nat) : Option Instr :=
  match unpackBits [18, 3, 3, 3, 5] w with
  | [x, b, a, d, op] =>
    let rd := BitVec.ofNat 3 d
    let ra := BitVec.ofNat 3 a
    let rb := BitVec.ofNat 3 b
    let sz := BitVec.ofNat 2 (x / 2 ^ 16)
    let sg := BitVec.ofNat 1 (x / 2 ^ 15)
    let off := BitVec.ofNat 6 x
    let t := BitVec.ofNat 1 x
    match op with
    | 0x01 => some (.sliceDone ra)
    | 0x02 => some (.sliceFail (BitVec.ofNat 16 x))
    | 0x03 => some (.sliceSkip ra rb sz sg (BitVec.ofNat 5 x))
    | 0x04 => some (.sliceLi rd (BitVec.ofNat 24 w))
    | 0x05 => some (.sliceAddi rd ra (BitVec.ofNat 18 x))
    | 0x06 => some (.sliceAdd rd ra rb)
    | 0x07 => some (.sliceSub rd ra rb)
    | 0x08 => some (.sliceAnd rd ra rb)
    | 0x09 => some (.sliceOr rd ra rb)
    | 0x0A => some (.sliceXor rd ra rb)
    | 0x0B => some (.sliceShl rd ra rb)
    | 0x0C => some (.sliceShr rd ra rb)
    | 0x0D => some (.sliceSra rd ra rb)
    | 0x0E => some (.sliceMul rd ra rb)
    | 0x0F => some (.sliceMin rd ra rb t)
    | 0x10 => some (.sliceMax rd ra rb t)
    | 0x11 => some (.sliceLld rd sz sg off)
    | 0x12 => some (.sliceLldx rd ra sz sg off)
    | 0x13 => some (.sliceLst ra sz off)
    | 0x14 => some (.sliceLstx ra rb sz off)
    | 0x15 => some (.sliceFadd rd ra rb t)
    | 0x16 => some (if x % 2 = 0 then .sliceFmax rd ra rb else .sliceFmin rd ra rb)
    | _ => none
  | _ => none

/-- The service-core instruction a 32-bit word encodes (R391); none for any other RISC-V word. -/
def candidateGj (w : Nat) : Option Instr :=
  match unpackBits [7, 5, 3, 5, 5, 7] w with
  | [op, d, f3, a, b, f7] =>
    if op = 0x0B && f7 = 0 then
      match f3 with
      | 0 => some (.gjDispatch (BitVec.ofNat 5 d) (BitVec.ofNat 5 a) (BitVec.ofNat 5 b))
      | 1 => some (.gjJoin (BitVec.ofNat 5 d) (BitVec.ofNat 5 a) (BitVec.ofNat 5 b))
      | _ => none
    else none
  | _ => none

end Sys2Proof
end

