-- ==== Sys2Proof/Machine/Fates.lean ====
section
/-!
DEFINITION. The fates of an encoding that is not an instruction (R52): for each instruction, which of its fields the
entry uses, which types, order forms and rounding codes it accepts. A fate is a trap cause, 1 or 2; cause 1 wins.
Readings this file takes (log entries 12, 13 and 86): a code that R53, R54 or R55 marks reserved is cause 1 in the field of every
word whose format has that field, used by its entry or not, and so is a scope beside a plain order form.
-/
namespace Sys2Proof

/-- The fates a check adds. -/
def fate (c : Nat) (bad : Bool) : List Nat := if bad then [c] else []

/-- A field the entry does not use (R52). -/
def unused (used : Bool) (x : Nat) : List Nat := fate 2 (!used && x ≠ 0)

def tyAll : List Nat := [0, 1, 2, 3, 4, 5, 6, 7, 8, 9, 10, 11]
def tySigned : List Nat := [0, 1, 2, 3, 4, 5, 6, 7]
def tyDotI : List Nat := [0, 1, 2, 3]
def tyNone : List Nat := []
/-- The V type groups of R112. -/
def grpI : List Nat := [0, 1, 2, 4, 5, 6]
def grpB : List Nat := [8, 9, 10]
def grpF : List Nat := [0x0D, 0x0E, 0x0F]
def grpQ : List Nat := [0x10, 0x11]
def grpSub : List Nat := [0x12, 0x13, 0x14]
def grpMx : List Nat := [0x15, 0x16, 0x17]

/-- A type field: one of `tys`, or zero where the entry takes no type; codes 0x18 to 0x1F are reserved (R53). -/
def typeFate (tys : List Nat) (t : Nat) : List Nat :=
  match tys with
  | [] => fate 1 (24 ≤ t) ++ unused false t
  | _ => fate 1 (!tys.contains t)

/-- Order form and scope of a word that uses them: an accepted form, and no scope on a plain form (R52, R54). -/
def orderFate (ords : List Nat) (ord scope : Nat) : List Nat :=
  fate 1 (!ords.contains ord) ++ fate 1 (ord = 0 && scope ≠ 0)

/-- CLASS, ORD and SCOPE of a word that touches no memory; a plain form with a scope keeps its own fate (R52). -/
def noMemFate (cls ord scope : Nat) : List Nat := fate 1 (ord = 0 && scope ≠ 0) ++ fate 2 (cls ≠ 0 || ord ≠ 0 || scope ≠ 0)

/-- A rounding field: codes 5 to 7 are reserved (R54). -/
def rndFate (used : Bool) (rnd : Nat) : List Nat := fate 1 (5 ≤ rnd) ++ unused used rnd

def srFate (f : SR) (d a b c pd : Bool) (tys : List Nat) : List Nat :=
  unused d f.d.toNat ++ unused a f.a.toNat ++ unused b f.b.toNat ++ unused c f.c.toNat ++ unused pd f.pd.toNat
    ++ typeFate tys f.ty.toNat

/-- The predicate forms of R101: A and B name predicates by bits 3:0. -/
def srPredFate (f : SR) (b : Bool) : List Nat :=
  srFate f false true b false true tyNone ++ fate 2 (f.a.toNat ≥ 16) ++ fate 2 (b && f.b.toNat ≥ 16)

def siFate (f : SI) (d a pd imm : Bool) (tys : List Nat) : List Nat :=
  unused d f.d.toNat ++ unused a f.a.toNat ++ unused pd f.pd.toNat ++ unused imm f.imm.toNat ++ typeFate tys f.ty.toNat

/-- The loop words of R107: PD 8 to 15 is reserved. -/
def loopFate (f : SI) (d a imm : Bool) : List Nat :=
  siFate f d a true imm tyNone ++ fate 1 (f.pd.toNat ≥ 8)

/-- The fields of `lpent` that its three forms fix (R107). -/
def lpentFate (f : SI) : List Nat :=
  loopFate f false true true ++
    fate 2 (if f.a ≠ 0 then f.imm ≠ 0
      else if f.imm.getLsbD 47 then f.imm.toNat % 2 ^ 47 ≠ 0
      else f.imm.toNat / 2 ^ 32 ≠ 0)

/-- `ld`, `st`, `clean` and the atomics (R232, R292, R306): the fields used beside A and DISP. -/
def smFate (f : SM) (d b c e ff scale nr te rout : Bool) (ords : List Nat) (tys : List Nat) : List Nat :=
  unused d f.d.toNat ++ unused b f.b.toNat ++ unused c f.c.toNat ++ unused e f.e.toNat ++ unused ff f.f.toNat
    ++ unused scale f.scale.toNat ++ unused nr f.nr.toNat ++ unused te f.te.toNat ++ unused rout f.rout.toNat
    ++ orderFate ords f.ord.toNat f.scope.toNat ++ typeFate tys f.ty.toNat

def allOrds : List Nat := [0, 1, 2, 3]

/-- A built-in atomic (R292): with NR, D must be zero. -/
def atomicFate (f : SM) (c : Bool) (tys : List Nat) : List Nat :=
  smFate f true true c false false false true false false allOrds tys ++ fate 2 (f.nr = 1 && f.d ≠ 0)

def tyAt4 : List Nat := [2, 3, 6, 7]
def tyAtB : List Nat := [2, 3, 6, 7, 10, 11]

/-- `lathe` (R306): D zero with NR; NR and TE both set is cause 1. -/
def latheFate (f : SM) : List Nat :=
  smFate f true true true true true false true true true allOrds tyNone
    ++ fate 2 (f.nr = 1 && f.d ≠ 0) ++ fate 1 (f.nr = 1 && f.te = 1)

/-- A system word (R181, R190, R381, R414, R416): no memory. -/
def sxFate (f : SX) (d a b idx imm : Bool) : List Nat :=
  unused d f.d.toNat ++ unused a f.a.toNat ++ unused b f.b.toNat ++ unused idx f.idx.toNat ++ unused imm f.imm.toNat
    ++ noMemFate f.cls.toNat f.ord.toNat f.scope.toNat

/-- A synchronisation word (R402): its order form is fixed. -/
def sxSyncFate (f : SX) (d a b imm : Bool) (ord : Nat) : List Nat :=
  unused d f.d.toNat ++ unused a f.a.toNat ++ unused b f.b.toNat ++ unused false f.idx.toNat ++ unused imm f.imm.toNat
    ++ orderFate [ord] f.ord.toNat f.scope.toNat

/-- `phreg` and `phdrop`: plain, class 0, mode in IMM 1:0 and count in IMM 15:8. -/
def sxPhaserFate (f : SX) (d : Bool) : List Nat :=
  sxSyncFate f d true false true 0 ++ unused false f.cls.toNat
    ++ fate 2 (f.imm.toNat / 4 % 64 ≠ 0 || f.imm.toNat / 2 ^ 16 ≠ 0)

/-- A system-register index that is assigned (R178, R408, R417, R418). -/
def srAssigned (x : Nat) : Bool :=
  x ≤ 8 || x = 0x0C || x = 0x10 || x = 0x11 || x = 0x18 || x = 0x19 || (0x20 ≤ x && x ≤ 0x27)
    || (0x30 ≤ x && x ≤ 0x37) || x = 0x40 || x = 0x41 || (0x48 ≤ x && x ≤ 0x4B)
    || (0x100 ≤ x && x ≤ 0x1FF && calAssigned (x % 32)) || (0x200 ≤ x && x ≤ 0x2FF && perfAssigned x)
where
  calAssigned (o : Nat) : Bool := o ≤ 6 || (8 ≤ o && o ≤ 0x0C) || (0x10 ≤ o && o ≤ 0x14) || (0x18 ≤ o && o ≤ 0x1C)
  perfAssigned (x : Nat) : Bool := x ≤ 0x20F || x = 0x280

def mtsrFate (f : SX) : List Nat :=
  sxFate f false true false true false ++ fate 1 (!srAssigned f.idx.toNat)

/-- The vector operand codes a source field may hold (R55). -/
def badVSource (c : Nat) : Bool := (40 ≤ c && c ≤ 47) || 50 ≤ c

/-- What a VR entry uses (R119 to R121, R126 to R140). -/
structure VRUse where
  vd : Bool
  va : Bool
  vb : Bool
  vc : Bool
  tys : List Nat
  mask : Bool
  /-- types under which the word rounds -/
  rnds : List Nat
  /-- types under which the word has a `.sat` form -/
  sats : List Nat
  kd : Bool
  /-- SREG is a scalar destination -/
  sdst : Bool
  /-- SREG is the entry's own scalar source -/
  ssrc : Bool
  /-- CTL bits the entry uses as control -/
  ctl : Nat
  /-- a reduction or scan: `.sr` is cause 1 (R121) -/
  noSr : Bool

def vrBase : VRUse := ⟨true, true, false, false, [], true, [], [], false, false, false, 0, false⟩

/-- A reserved code in a vector operand field is cause 1 whether or not the entry uses the field (R119). -/
def vrFate (f : VR) (u : VRUse) (dtyUsed : Bool) : List Nat :=
  let codes := [f.va.toNat, f.vb.toNat, f.vc.toNat]
  let ty := f.ty.toNat
  let rnd := f.rnd.toNat
  fate 1 (codes.any badVSource) ++ fate 1 (f.vd.toNat ≥ 40)
    ++ fate 1 (codes.contains 48 && u.sdst) ++ fate 1 (codes.contains 49 && u.ctl ≠ 0)
    ++ typeFate u.tys ty
    ++ fate 1 (rnd ≥ 5) ++ fate 1 (u.noSr && rnd = 4)
    ++ fate 2 (!u.rnds.contains ty && rnd ≠ 0)
    ++ fate 2 (!u.sats.contains ty && f.sat ≠ 0)
    ++ unused u.vd f.vd.toNat ++ unused u.va f.va.toNat ++ unused u.vb f.vb.toNat ++ unused u.vc f.vc.toNat
    ++ unused u.kd f.kd.toNat ++ unused u.mask f.m.toNat ++ unused u.mask f.k.toNat
    ++ (if dtyUsed then [] else typeFate tyNone f.dty.toNat)
    ++ unused (codes.contains 48 || u.sdst || u.ssrc) f.sreg.toNat
    ++ fate 2 (!codes.contains 49 && (f.ctl.toNat &&& (2 ^ 28 - 1 - u.ctl)) ≠ 0)

/-- The codes of R119 in the fields of a mask instruction: a reserved code, code 48 or 49 in VD, code 48 beside a scalar destination,
code 49 beside CTL as control. -/
def maskCodeFate (f : VR) (sdst control : Bool) : List Nat :=
  let codes := [f.va.toNat, f.vb.toNat, f.vc.toNat]
  fate 1 (codes.any badVSource) ++ fate 1 (f.vd.toNat ≥ 40) ++ fate 1 (sdst && codes.contains 48) ++
    fate 1 (control && codes.contains 49)

/-- The mask instructions of R134: masks in bits 2:0 of VA and VB, VD and M zero. -/
def vrMaskFate (f : VR) (b kd sreg typed : Bool) (ctl : Nat) : List Nat :=
  unused false f.vd.toNat ++ fate 2 (f.va.toNat ≥ 8) ++ (if b then fate 2 (f.vb.toNat ≥ 8) else unused false f.vb.toNat)
    ++ unused false f.vc.toNat ++ unused sreg f.sreg.toNat ++ unused false f.m.toNat ++ unused false f.k.toNat
    ++ typeFate (if typed then grpI ++ grpB ++ grpF ++ grpQ else []) f.ty.toNat ++ typeFate tyNone f.dty.toNat
    ++ rndFate false f.rnd.toNat ++ unused false f.sat.toNat ++ unused kd f.kd.toNat
    ++ fate 2 (f.ctl.toNat &&& (2 ^ 28 - 1 - ctl) ≠ 0)

/-- `kmov` from a scalar: VA is 48 and SREG names the scalar. -/
def kmovFromFate (f : VR) : List Nat :=
  vrMaskFate { f with va := 0 } false true true false 0 ++ maskCodeFate f false true

/-- A VS word (R142, R143). -/
def vsFate (f : VS) (sidx top disp : Bool) (mem mask : Bool) (tys : List Nat) : List Nat :=
  fate 1 (f.v.toNat ≥ 40) ++ unused mem f.sbase.toNat ++ unused sidx f.sidx.toNat ++ unused top f.top.toNat
    ++ unused disp f.disp.toNat ++ unused mask f.m.toNat ++ unused mask f.k.toNat ++ typeFate tys f.ty.toNat
    ++ (if mem then orderFate allOrds f.ord.toNat f.scope.toNat else noMemFate f.cls.toNat f.ord.toNat f.scope.toNat)

/-- INDEX bits 7:6 of a tile operand with IK 1 are Res (R56). -/
def tileFate (t : BitVec 15) : List Nat := fate 2 (t.getLsbD 8 && t.toNat / 64 % 4 ≠ 0)

def grpMove : List Nat := grpI ++ grpB ++ grpF ++ grpQ

/-- The index operand of `vgld` and `vgst` in TOP 14:9 (R119, R142). -/
def gatherFate (t : BitVec 15) : List Nat := fate 1 (t.toNat / 512 ≥ 40) ++ fate 2 (t.toNat % 512 ≠ 0)

/-- A type pair `mma` accepts (R163): the family of each type. -/
def mmaFamily (t : Nat) : Nat :=
  if [0x10, 0x11, 0x12, 0x13, 0x14, 0x15, 0x16, 0x17].contains t then 1
  else if [0, 4, 8].contains t then 2
  else if [0x0E, 0x0F].contains t then 3
  else if t = 0x0C then 4
  else 0

def mmaFate (f : MM) : List Nat :=
  fate 1 (mmaFamily f.aty.toNat = 0 || mmaFamily f.aty.toNat ≠ mmaFamily f.bty.toNat)
    ++ orderFate [0, 1] f.ord.toNat f.scope.toNat ++ unused false f.ta.toNat ++ unused false f.tb.toNat

def mmtFate (f : MM) : List Nat :=
  fate 1 (f.aty.toNat ≠ 0x0C || f.bty.toNat ≠ 0x0C) ++ noMemFate f.cls.toNat f.ord.toNat f.scope.toNat
    ++ unused false f.warp.toNat ++ unused false f.weft.toNat ++ tileFate f.ta ++ tileFate f.tb

/-- An accumulator operation (R167). -/
def maFate (f : MA) (acc acc2 top : Bool) (tys : List Nat) (rnd sat mem : Bool) (ords : List Nat) (imm : Nat) :
    List Nat :=
  unused acc f.acc.toNat ++ unused acc2 f.acc2.toNat ++ unused top f.top.toNat ++ typeFate tys f.ty.toNat
    ++ rndFate rnd f.rnd.toNat ++ unused sat f.sat.toNat
    ++ unused mem f.sbase.toNat ++ fate 2 (f.imm.toNat &&& (2 ^ 32 - 1 - imm) ≠ 0)
    ++ (if mem then orderFate ords f.ord.toNat f.scope.toNat else noMemFate f.cls.toNat f.ord.toNat f.scope.toNat)
    ++ (if top then tileFate f.top else [])

def immAll : Nat := 2 ^ 32 - 1
def tyMst : List Nat := [0x0D, 0x0E, 0x0F, 0x10, 0x11, 0x12, 0x13, 0x14, 0x0C, 2, 6, 1, 5, 0, 4]

/-- A copy word (R250, R251). -/
def ccFate (f : CC) (tok sa sd recd aux tgt : Bool) (tys dtys : List Nat) (conv : Bool) (ords : List Nat) : List Nat :=
  unused tok f.tok.toNat ++ unused sa f.sa.toNat ++ unused sd f.sd.toNat ++ unused recd f.recd.toNat
    ++ unused aux f.aux.toNat ++ unused tgt f.tgt.toNat ++ typeFate tys f.ty.toNat ++ typeFate dtys f.dty.toNat
    ++ rndFate conv f.rnd.toNat ++ unused conv f.sat.toNat ++ fate 2 (conv && f.ty = f.dty && (f.rnd ≠ 0 || f.sat ≠ 0))
    ++ (match ords with
        | [] => noMemFate f.cls.toNat f.ord.toNat f.scope.toNat
        | _ => orderFate ords f.ord.toNat f.scope.toNat)

/-- All but the MX types. -/
def tyNoMx : List Nat := tyAll ++ [0x0C, 0x0D, 0x0E, 0x0F] ++ grpQ ++ grpSub
/-- I, B and F of a fill: every integer, raw and IEEE or brain float type. -/
def tyFill : List Nat := tyAll ++ [0x0C, 0x0D, 0x0E, 0x0F]
def tySum : List Nat := [2, 6, 3, 7, 0x0C, 0x0D, 0x0E, 0x0F]

def tyCvt : List Nat := grpI ++ grpF ++ grpQ ++ grpSub

/-- Every fate of an instruction's fields (R52). The Res bits are not fields: the decoder checks them. -/
def Instr.fates : Instr → List Nat
  | .nop _ _ => []
  | .rdv _ _ => []
  | .add f => srFate f true true true false false tyAll
  | .sub f => srFate f true true true false false tyAll
  | .mul f => srFate f true true true false false tyAll
  | .mulh f => srFate f true true true false false tySigned
  | .madd f => srFate f true true true true false tyAll
  | .div f => srFate f true true true false false tySigned
  | .rem f => srFate f true true true false false tySigned
  | .neg f => srFate f true true false false false tyAll
  | .abs f => srFate f true true false false false tyDotI
  | .min f => srFate f true true true false false tySigned
  | .max f => srFate f true true true false false tySigned
  | .and f => srFate f true true true false false tyAll
  | .or f => srFate f true true true false false tyAll
  | .xor f => srFate f true true true false false tyAll
  | .not f => srFate f true true false false false tyAll
  | .shl f => srFate f true true true false false tyAll
  | .shr f => srFate f true true true false false tySigned
  | .rol f => srFate f true true true false false tyAll
  | .ror f => srFate f true true true false false tyAll
  | .clz f => srFate f true true false false false tyAll
  | .ctz f => srFate f true true false false false tyAll
  | .popc f => srFate f true true false false false tyAll
  | .bext f => srFate f true true true true false tyAll
  | .bins f => srFate f true true true true false tyAll
  | .sel f => srFate f true true true false true tyAll
  | .cmpeq f => srFate f false true true false true tyAll
  | .cmpne f => srFate f false true true false true tyAll
  | .cmplt f => srFate f false true true false true tySigned
  | .cmple f => srFate f false true true false true tySigned
  | .pand f => srPredFate f true
  | .por f => srPredFate f true
  | .pxor f => srPredFate f true
  | .pnot f => srPredFate f false
  | .mkva f => srFate f true true true false false tyNone
  | .li f => siFate f true false false true [3, 7, 11]
  | .lih f => siFate f true false false true tyNone ++ fate 2 (f.imm.toNat ≥ 2 ^ 16)
  | .addi f => siFate f true true false true tyAll
  | .andi f => siFate f true true false true tyAll
  | .ori f => siFate f true true false true tyAll
  | .xori f => siFate f true true false true tyAll
  | .shli f => siFate f true true false true tyAll
  | .shri f => siFate f true true false true tySigned
  | .cmpeqi f => siFate f false true true true tyAll
  | .cmplti f => siFate f false true true true tySigned
  | .br f => siFate f false false false true tyNone
  | .brx f => siFate f false true false true tyNone
  | .call f => siFate f true false false true tyNone
  | .ret f => siFate f false true false false tyNone
  | .lpentReg f => lpentFate f
  | .lpentImm f => lpentFate f
  | .lpentTable f => lpentFate f
  | .lpbrk f => loopFate f false false false
  | .lget f => loopFate f true false false
  | .lset f => loopFate f false true false
  | .spawn f => sxFate f true true true true false
  | .ld f => smFate f true true false false false true false false false [0, 1] tyAll
  | .st f => smFate f true true false false false true false false false [0, 2] tyAll
  | .prf f => unused false f.cls.toNat ++ unused false f.d.toNat ++ unused false f.c.toNat ++ unused false f.e.toNat ++ unused false f.f.toNat
    ++ unused false f.nr.toNat ++ unused false f.te.toNat ++ unused false f.rout.toNat ++ typeFate tyNone f.ty.toNat
    ++ noMemFate f.cls.toNat f.ord.toNat f.scope.toNat
  | .clean f => smFate f false true false false false true true false false [0, 2] tyNone
  | .atadd f => atomicFate f false tyAt4
  | .atand f => atomicFate f false tyAtB
  | .ator f => atomicFate f false tyAtB
  | .atxor f => atomicFate f false tyAtB
  | .atmin f => atomicFate f false tyAt4
  | .atmax f => atomicFate f false tyAt4
  | .atswp f => atomicFate f false tyAtB
  | .atcas f => atomicFate f true tyAtB
  | .atfadd f => atomicFate f false [0x0D, 0x0E]
  | .atfmax f => atomicFate f false [0x0D]
  | .atfmin f => atomicFate f false [0x0D]
  | .lathe f => latheFate f
  | .fence f => unused false f.d.toNat ++ unused false f.a.toNat ++ unused false f.b.toNat ++ unused false f.idx.toNat ++ unused false f.cls.toNat
    ++ fate 2 (f.imm.toNat ≥ 2 ^ 16) ++ orderFate [1, 2, 3] f.ord.toNat f.scope.toNat
  | .phreg f => sxPhaserFate f true
  | .phdrop f => sxPhaserFate f false
  | .phsig f => sxSyncFate f true true true false 2
  | .phwait f => sxSyncFate f true true true false 1
  | .phsw f => sxSyncFate f true true true false 3
  | .semwReg f => sxSyncFate f false true true true 1 ++ fate 2 (f.b ≠ 0 && f.imm ≠ 0)
  | .semwImm f => sxSyncFate f false true true true 1 ++ fate 2 (f.b ≠ 0 && f.imm ≠ 0)
  | .semsReg f => sxSyncFate f false true true true 2 ++ fate 2 (f.b ≠ 0 && f.imm ≠ 0)
  | .semsImm f => sxSyncFate f false true true true 2 ++ fate 2 (f.b ≠ 0 && f.imm ≠ 0)
  | .calchk f => sxFate f true false false false true ++ fate 2 (f.imm.toNat ≥ 2 ^ 8)
  | .rdcnt f => sxFate f true false false true false ++ fate 1 (!(f.idx.toNat ≤ 3 || (0x20 ≤ f.idx.toNat && f.idx.toNat ≤ 0x40)))
  | .rdcyc f => sxFate f true false false false false
  | .qget f => sxFate f true false false true false ++ fate 1 (f.idx.toNat > 9)
  | .qpeek f => sxFate f true false false true false ++ fate 1 (f.idx.toNat > 9)
  | .qlen f => sxFate f true false false true false ++ fate 1 (f.idx.toNat > 1)
  | .qwait f => sxFate f true false false false true
  | .qwaitTimeout f => sxFate f true false false false true
  | .spin f => sxFate f false true false false false
  | .spflush f => sxFate f false false false false false
  | .spend f => sxFate f false false false false false
  | .mfsr f => sxFate f true false false true false ++ fate 1 (!srAssigned f.idx.toNat)
  | .mtsr f => mtsrFate f
  | .trap f => sxFate f false false false false true
  | .eret f => sxFate f false false false false false
  | .cxsw f => sxFate f false true true false false
  | .yield f => sxFate f false false false false false
  | .snap f => sxFate f false false false false true
  | .hcall f => sxFate f true false false false true
  | .trapctlWrite f => mtsrFate f
  | .engineSharedRegisterWrite f => mtsrFate f
  | .calcfgWrite f => mtsrFate f
  | .calcmdClr f => mtsrFate f
  | .perfselWrite f => mtsrFate f
  | .vadd f => vrFate f { vrBase with vb := true, tys := grpI ++ grpF, rnds := grpF, sats := grpI ++ grpF } false
  | .vsub f => vrFate f { vrBase with vb := true, tys := grpI ++ grpF, rnds := grpF, sats := grpI ++ grpF } false
  | .vmul f => vrFate f { vrBase with vb := true, tys := grpI ++ grpF, rnds := grpF, sats := grpI ++ grpF } false
  | .vfma f => vrFate f { vrBase with vb := true, vc := true, tys := grpF, rnds := grpF, sats := grpF } false
  | .vfms f => vrFate f { vrBase with vb := true, vc := true, tys := grpF, rnds := grpF, sats := grpF } false
  | .vfnma f => vrFate f { vrBase with vb := true, vc := true, tys := grpF, rnds := grpF, sats := grpF } false
  | .vdiv f => vrFate f { vrBase with vb := true, tys := grpF, rnds := grpF, sats := grpF } false
  | .vsqrt f => vrFate f { vrBase with tys := grpF, rnds := grpF } false
  | .vrsqrt f => vrFate f { vrBase with tys := grpF, rnds := grpF, sats := grpF } false
  | .vrcp f => vrFate f { vrBase with tys := grpF, rnds := grpF, sats := grpF } false
  | .vexp2 f => vrFate f { vrBase with tys := grpF, rnds := grpF, sats := grpF } false
  | .vlog2 f => vrFate f { vrBase with tys := grpF, rnds := grpF } false
  | .vmin f => vrFate f { vrBase with vb := true, tys := grpI ++ grpF } false
  | .vmax f => vrFate f { vrBase with vb := true, tys := grpI ++ grpF } false
  | .vabs f => vrFate f { vrBase with tys := [0, 1, 2] ++ grpF, sats := [0, 1, 2] } false
  | .vneg f => vrFate f { vrBase with tys := grpI ++ grpF, sats := grpI } false
  | .vand f => vrFate f { vrBase with vb := true, tys := grpI ++ grpB } false
  | .vor f => vrFate f { vrBase with vb := true, tys := grpI ++ grpB } false
  | .vxor f => vrFate f { vrBase with vb := true, tys := grpI ++ grpB } false
  | .vnot f => vrFate f { vrBase with tys := grpI ++ grpB } false
  | .vshl f => vrFate f { vrBase with vb := true, tys := grpI ++ grpB } false
  | .vshr f => vrFate f { vrBase with vb := true, tys := grpI } false
  | .vmulh f => vrFate f { vrBase with vb := true, tys := grpI } false
  | .vclz f => vrFate f { vrBase with tys := grpI ++ grpB } false
  | .vpopc f => vrFate f { vrBase with tys := grpI ++ grpB } false
  | .vtanh f => vrFate f { vrBase with tys := grpF, rnds := grpF } false
  | .verf f => vrFate f { vrBase with tys := grpF, rnds := grpF } false
  | .vmov f => vrFate f { vrBase with tys := grpMove } false
  | .viota f => vrFate f { vrBase with tys := grpI } false
  | .vcmpeq f => vrFate f { vrBase with vd := false, vb := true, kd := true, tys := grpI ++ grpB ++ grpF } false
  | .vcmpne f => vrFate f { vrBase with vd := false, vb := true, kd := true, tys := grpI ++ grpB ++ grpF } false
  | .vcmplt f => vrFate f { vrBase with vd := false, vb := true, kd := true, tys := grpI ++ grpF } false
  | .vcmple f => vrFate f { vrBase with vd := false, vb := true, kd := true, tys := grpI ++ grpF } false
  | .vcmpun f => vrFate f { vrBase with vd := false, vb := true, kd := true, tys := grpF } false
  | .vclass f => vrFate f { vrBase with tys := grpF } false
  | .vsel f => vrFate f { vrBase with vb := true, tys := grpMove } false ++ fate 1 (f.m = 0)
  | .vcvt f => vrFate f { vrBase with tys := tyCvt, rnds := (if grpI.contains f.ty.toNat && grpI.contains f.dty.toNat then [] else tyCvt), sats := tyCvt, ctl := 3 } true
    ++ fate 1 (!tyCvt.contains f.dty.toNat) ++ fate 1 (f.ty = f.dty)
  | .vmxq f => vrFate { f with k := 0, m := 0 } { vrBase with vb := true, tys := grpF, rnds := grpF, sats := grpF, ctl := 3 } true
    ++ fate 1 (!grpMx.contains f.dty.toNat) ++ fate 1 (f.m = 1) ++ unused false f.k.toNat
  | .vmxd f => vrFate { f with k := 0, m := 0 } { vrBase with vb := true, tys := grpMx, rnds := grpMx, sats := grpMx, ctl := 3 } true
    ++ fate 1 (!grpF.contains f.dty.toNat) ++ fate 1 (f.m = 1) ++ unused false f.k.toNat
  | .kand f => vrMaskFate f true true false false 0 ++ maskCodeFate f false false
  | .kor f => vrMaskFate f true true false false 0 ++ maskCodeFate f false false
  | .kxor f => vrMaskFate f true true false false 0 ++ maskCodeFate f false false
  | .knot f => vrMaskFate f false true false false 0 ++ maskCodeFate f false false
  | .kmov f => vrMaskFate f false true false false 0 ++ maskCodeFate f false true
  | .kmovFromScalar f => kmovFromFate f
  | .kmovToScalar f => vrMaskFate f false false true false 1 ++ maskCodeFate f true true
  | .kpop f => vrMaskFate f false false true true 0 ++ maskCodeFate f true false
  | .vredsum f => vrFate f { vrBase with tys := grpI ++ grpF, rnds := grpF, sats := grpI ++ grpF, noSr := true } false
  | .vredmax f => vrFate f { vrBase with tys := grpI ++ grpF, noSr := true } false
  | .vredmin f => vrFate f { vrBase with tys := grpI ++ grpF, noSr := true } false
  | .vscan f => vrFate f { vrBase with tys := grpI ++ grpF, rnds := grpF, sats := grpI ++ grpF, noSr := true, ctl := 1 } false
  | .vscanmax f => vrFate f { vrBase with tys := grpI ++ grpF, noSr := true, ctl := 1 } false
  | .vtopk f => vrFate f { vrBase with tys := grpI ++ grpF ++ grpQ, ctl := 0x7FF } false
  | .vargmax f => vrFate f { vrBase with vd := false, tys := grpI ++ grpF, sdst := true, ctl := 1 } false
  | .vrng f => vrFate f { vrBase with tys := [6, 0x0D], ssrc := true } false ++ fate 1 (f.va.toNat ≥ 40)
  | .vperm f => vrFate f { vrBase with vb := true, vc := true, tys := grpMove } false
  | .vrot f => vrFate f { vrBase with vb := true, tys := grpMove } false
  | .vzip f => vrFate f { vrBase with vb := true, tys := grpMove, ctl := 1 } false
  | .vunzip f => vrFate f { vrBase with vb := true, tys := grpMove, ctl := 1 } false
  | .vtrn f => vrFate f { vrBase with vb := true, tys := grpMove, ctl := 1 } false
  | .vcompress f => vrFate f { vrBase with tys := grpMove, sdst := true } false ++ fate 1 (f.m = 0)
  | .vexpand f => vrFate f { vrBase with tys := grpMove } false ++ fate 1 (f.m = 0)
  | .vrev f => vrFate f { vrBase with tys := grpMove } false
  | .vld f => vsFate f true false true true true grpMove
  | .vst f => vsFate f true false true true true grpMove
  | .vldx f => vsFate f true false true true true grpMove
  | .vstx f => vsFate f true false true true true grpMove
  | .tld f => vsFate f false true false false true grpMove ++ tileFate f.top
  | .tst f => vsFate f false true false false true grpMove ++ tileFate f.top
  | .vgld f => vsFate f false true true true true grpMove ++ gatherFate f.top
  | .vgst f => vsFate f false true true true true grpMove ++ gatherFate f.top
  | .tzero f => vsFate f false true false false false tyNone ++ unused false f.v.toNat ++ fate 2 (f.top.toNat % 2 ^ 11 ≠ 0)
  | .rep f => unused (f.creg = 0) f.count.toNat
  | .mma f => mmaFate f
  | .mmt f => mmtFate f
  | .mzero f => maFate f true false false tyNone false false false [] 0
  | .mscale f => maFate f true false false [0x0D, 0x0C] true true false [] immAll
  | .mbias f => maFate f true false true [0x0D, 0x0E, 0x0F, 0x0C, 2] true true false [] 1
  | .mstTile f => maFate f true true true tyMst true true false [] 0 ++ fate 2 (f.acc2.toNat ≥ 2)
  | .mstScratchpad f => maFate f true true false tyMst true true true [0, 2] immAll ++ fate 2 (f.acc2.toNat ≥ 2)
  | .mldTile f => maFate f true true true tyMst false false false [] 0 ++ fate 2 (f.acc2.toNat ≥ 2)
  | .mldScratchpad f => maFate f true true false tyMst false false true [0, 1] immAll ++ fate 2 (f.acc2.toNat ≥ 2)
  | .mcopy f => maFate f true true false [10, 11] false false false [] 1
  | .mskip f => maFate f false false false tyNone false false false [] immAll
  | .msave f => maFate f false false false tyNone false false true [0, 2] immAll
  | .mrestore f => maFate f false false false tyNone false false true [0, 1] immAll
  | .cp f => ccFate f true true true true false false tyNoMx tyNoMx true allOrds
  | .cpr f => ccFate f true true false true false true tyNoMx tyNoMx true allOrds
  | .cpt f => ccFate f true true true true false false tyNoMx tyNoMx true allOrds
  | .cptw f => ccFate f true true true true false false tyNoMx tyNoMx true allOrds
  | .cpfill f => ccFate f true false true true true false tyFill tyFill true allOrds ++ fate 1 (f.ty ≠ f.dty)
  | .csem f => ccFate f false false false false true false tyNone tyNone false [2]
  | .csemw f => ccFate f false false false false true false tyNone tyNone false [1]
  | .ringbind f => ccFate f true false false true true true tyNone tyNone false [0, 1]
  | .bobbind f => ccFate f true false false true false true tyNoMx [0, f.ty.toNat] false [0, 1, 2]
  | .unbind f => ccFate f false false false false false true tyNone tyNone false []
  | .ringfill f => ccFate f true true false true false true tyNoMx tyNoMx true allOrds
  | .fget f => ccFate f true true true true false false tyNoMx tyNoMx true allOrds
  | .fput f => ccFate f true true true true false false tyNoMx tyNoMx true allOrds
  | .cgsum f => ccFate f true true true true true false tySum tyNoMx true [0, 1]
  | .fsum f => ccFate f true true true true true false tySum tyNoMx true allOrds
  | .cprime f => ccFate f true true false false true false tyNone tyNone false [0]
  | .gjDispatch _ _ _ => []
  | .gjJoin _ _ _ => []
  | .sliceDone _ => []
  | .sliceFail _ => []
  | .sliceSkip _ _ _ _ _ => []
  | .sliceLi _ _ => []
  | .sliceAddi _ _ _ => []
  | .sliceAdd _ _ _ => []
  | .sliceSub _ _ _ => []
  | .sliceAnd _ _ _ => []
  | .sliceOr _ _ _ => []
  | .sliceXor _ _ _ => []
  | .sliceShl _ _ _ => []
  | .sliceShr _ _ _ => []
  | .sliceSra _ _ _ => []
  | .sliceMul _ _ _ => []
  | .sliceMin _ _ _ _ => []
  | .sliceMax _ _ _ _ => []
  | .sliceLld _ _ _ _ => []
  | .sliceLldx _ _ _ _ _ => []
  | .sliceLst _ _ _ => []
  | .sliceLstx _ _ _ _ => []
  | .sliceFadd _ _ _ _ => []
  | .sliceFmax _ _ _ => []
  | .sliceFmin _ _ _ => []
  | .unassignedOpcode _ _ => []
  | .rdvRelease => []
  | .hcallReply => []
  | .repetition => []
  | .matrixCommandStart => []
  | .matrixCommandRetire => []
  | .copyCommandStart => []
  | .copyGranule => []
  | .copyCommandRetire => []
  | .patternPortPush => []
  | .patternPortDrainPop => []
  | .sectionIssue => []
  | .gangPassStart => []
  | .gangFreezeLift => []
  | .trapAreaWrite => []
  | .sliceAdmission => []
  | .sliceLineFill => []
  | .builtinAtomicRun => []
  | .routineRun => []
  | .translationFill => []
  | .invalidationAck => []
  | .scrubZeroFillEnd => []
  | .migrationPartMoved => []
  | .segmentVerified => []
  | .arrivalBoundExpiry => []
  | .chunkTimeout => []
  | .requestMessage => []
  | .hackleTokenisation => []
  | .requestAppend => []
  | .vudricFlitReceive => []
  | .dispatcherDecision => []
  | .multiDieReservationGrant => []
  | .multiDieReservationTimeout => []
  | .periodRelease => []
  | .budgetExhausted => []
  | .quantumEnd => []
  | .starvation => []
  | .deadlineOverrun => []
  | .preemptionRequest => []
  | .engineHold => []
  | .drainCut => []
  | .jobSaveComplete => []
  | .scratchpadGranuleExchange => []
  | .bankThrottle => []
  | .thermalTrip => []
  | .uncorrectableError => []
  | .partitionBackInService => []
  | .moduleReset => []
  | .bootStep => []
  | .recoveryImage => []
  | .hotReset => []
  | .virtioNetMessage => []
  | .snapshotTrigger => []
  | .gjJoinTimeout => []
  | .controlBlockWrite => []
  | .controlBlockRead => []
  | .contractSubmission => []
  | .contractWithdrawal => []
  | .dispatcherParameterWrite => []
  | .microContextRetire => []
  | .faultClear => []
  | .controlBlockInstall => []
  | .preemptCommand => []
  | .shset => []
  | .shclr => []
  | .shroot => []
  | .tlbEntryRead => []
  | .ownershipEntryRead => []
  | .frameAssign => []
  | .frameFree => []
  | .migration => []
  | .readDuplicate => []
  | .segmentShare => []
  | .sealPages => []
  | .keyWrite => []
  | .routineInstallation => []
  | .routineClearing => []
  | .routineMapWrite => []
  | .slotRecordRead => []
  | .vocabularyLoad => []
  | .vocabularyUnload => []
  | .vstatRead => []
  | .contextKeyInstall => []
  | .replayCommand => []
  | .attestationCommand => []
  | .fabricGroupWrite => []
  | .runLengthSet => []
  | .snapshotRecordRead => []
  | .counterRead => []
  | .bootStepClear => []
  | .powerLoss => []
  | .virtioDeviceStatus => []
  | .hostTierLending => []
  | .arrivalBoundSet => []
  | .serviceCoreInterrupt => []
  | .vocabularyLoadEnd => []
  | .sharingEnd => []
  | .transportKeyInstall => []

/-- The cause of R52: 1 when any fate is 1, 2 when every fate is 2. -/
def fateCause (l : List Nat) : Option Nat :=
  if l.contains 1 then some 1 else if l.isEmpty then none else some 2

end Sys2Proof
end

