-- ==== Sys2Proof/WellFormed.lean ====
section
/-!
DEFINITION. Well-formed instructions: no field has a fate of R52, and the fields choose the constructor (where one opcode
has several forms). Only a well-formed instruction has an encoding that the decoder reads back.
-/
namespace Sys2Proof

/-- The opcodes R58, R59 and R60 assign. -/
def opcodeAssigned (e : Engine) (o : Nat) : Bool :=
  let within (lo hi : Nat) : Bool := lo ≤ o && o ≤ hi
  match e with
  | .s => within 0 0x22 || within 0x28 0x31 || within 0x40 0x48 || within 0x60 0x70 || within 0x80 0x89
      || within 0xA0 0xA6 || within 0xC0 0xC7 || o = 0xFE
  | .v => within 0 0x1D || within 0x40 0x4F || within 0x60 0x67 || within 0x80 0x87 || within 0xA0 0xA8
      || o = 0xF0 || o = 0xFE
  | .m => within 0 2 || within 0x20 0x26 || within 0x40 0x41 || o = 0xFE
  | .c => within 0 7 || within 0x20 0x23 || within 0x40 0x44 || o = 0xFE

/-- The classes of `mtsr` by the register it writes. -/
inductive SrClass where
  | trapctl | shared | calcfg | calcmd | perfsel | other
deriving DecidableEq, Repr

def srClass (x : Nat) : SrClass :=
  if x = 7 then .trapctl
  else if x = 0x40 || x = 0x41 || (0x48 ≤ x && x ≤ 0x4B) then .shared
  else if 0x100 ≤ x && x < 0x200 && x % 32 = 0 then .calcfg
  else if 0x100 ≤ x && x < 0x200 && x % 32 = 5 then .calcmd
  else if 0x200 ≤ x && x ≤ 0x207 then .perfsel
  else .other

/-- A line access that fits the 64-byte line on its own alignment (R298, R302 reason 3). -/
def lineAccessOk (s : BitVec 2) (o : BitVec 6) : Bool := o.toNat % 2 ^ s.toNat = 0

/-- The fields choose this constructor among the forms of its opcode. -/
def Instr.formOk : Instr → Bool
  | .lpentReg f => f.a ≠ 0
  | .lpentImm f => f.a = 0 && !f.imm.getLsbD 47
  | .lpentTable f => f.a = 0 && f.imm.getLsbD 47
  | .semwReg f => f.b ≠ 0
  | .semwImm f => f.b = 0
  | .semsReg f => f.b ≠ 0
  | .semsImm f => f.b = 0
  | .qwait f => f.imm = 0
  | .qwaitTimeout f => f.imm ≠ 0
  | .mtsr f => srClass f.idx.toNat = .other
  | .trapctlWrite f => srClass f.idx.toNat = .trapctl
  | .engineSharedRegisterWrite f => srClass f.idx.toNat = .shared
  | .calcfgWrite f => srClass f.idx.toNat = .calcfg
  | .calcmdClr f => srClass f.idx.toNat = .calcmd
  | .perfselWrite f => srClass f.idx.toNat = .perfsel
  | .kmov f => f.ctl = 0 && f.va ≠ 48
  | .kmovFromScalar f => f.ctl = 0 && f.va = 48
  | .kmovToScalar f => f.ctl ≠ 0
  | .mstTile f => !f.acc2.getLsbD 0
  | .mstScratchpad f => f.acc2.getLsbD 0
  | .mldTile f => !f.acc2.getLsbD 0
  | .mldScratchpad f => f.acc2.getLsbD 0
  | .unassignedOpcode e w => !opcodeAssigned e (opcodeOf w.toNat)
  | .sliceSkip _ _ _ _ n => n ≠ 0
  | .sliceLld _ s _ o => lineAccessOk s o
  | .sliceLst _ s o => lineAccessOk s o
  | _ => true

/-- An instruction the encoding admits. -/
def Instr.wellFormed (i : Instr) : Bool := i.fates.isEmpty && i.formOk

end Sys2Proof
end

