-- ==== Sys2Proof/Decode.lean ====
section
/-!
DEFINITION. Decoding, total on any bits, and encoding. A word's candidate is read off the opcode map; it is refused by
name when a Res bit is set or a field has a fate of R52.
-/
namespace Sys2Proof

/-- Why bits are no instruction. -/
inductive Reject where
  /-- a fate of R52, with the cause the word traps with -/
  | encoding (cause : Nat)
  /-- a reserved slice operation (R297) -/
  | reservedSliceOp
  /-- a nonzero slice field that R298 leaves unnamed -/
  | unnamedSliceField
  /-- a RISC-V word other than the two of R391 -/
  | notAServiceInstruction
  /-- a run of bytes of the wrong length -/
  | wrongLength
deriving DecidableEq, Repr

/-- The cause a stream word traps with for a reject (R52). -/
def Reject.cause : Reject → Nat
  | .encoding c => c
  | _ => 1

/-- The fates of a 96-bit word: a Res bit set (the candidate does not give the word back) and those of its fields. -/
def wordFates (i : Instr) (w : Nat) : List Nat := fate 2 (i.bits ≠ w) ++ i.fates

/-- Decode a word of engine `e`'s stream (R50 to R60). -/
def decode (e : Engine) (w : Nat) : Except Reject Instr :=
  let i := candidate e w
  match fateCause (wordFates i w) with
  | some c => .error (.encoding c)
  | none => .ok i

/-- Decode a slice word (R297, R298). -/
def decodeSlice (w : Nat) : Except Reject Instr :=
  match candidateSlice w with
  | none => .error .reservedSliceOp
  | some i => if i.bits = w then .ok i else .error .unnamedSliceField

/-- Decode a word of a service core: the two instructions of R391. -/
def decodeService (w : Nat) : Except Reject Instr :=
  match candidateGj w with
  | none => .error .notAServiceInstruction
  | some i => .ok i

/-- Decode the 12 bytes of a stream word, little-endian (R3). -/
def decodeBytes (e : Engine) (bs : List Byte) : Except Reject Instr :=
  if bs.length = 12 then decode e (leNat bs) else .error .wrongLength

/-- How many bytes encode an instruction. -/
def Instr.byteLength (i : Instr) : Nat :=
  match i.source with
  | .stream _ => 12
  | .slice => 4
  | .service => 4
  | .event => 0

/-- The bytes of a well-formed instruction, lowest address first (R3, R50, R297, R391). -/
def encode (i : Instr) : List Byte := leBytes i.byteLength i.bits

/-- Decode bits as the source of an instruction reads them. -/
def decodeSource (src : Source) (w : Nat) : Except Reject Instr :=
  match src with
  | .stream e => decode e w
  | .slice => decodeSlice w
  | .service => decodeService w
  | .event => .error .wrongLength

/-- The instruction the decoder reads from bits numbered as the opcode table numbers them: 32-bit rows are slice words
and the service-core instructions, which have OP zero; 96-bit words are read in the S map. -/
def decodeTableWord (nbits w : Nat) : Option Instr :=
  if nbits = 32 then
    if w / 2 ^ 27 % 32 = 0 then (decodeService w).toOption else (decodeSlice w).toOption
  else (decode .s w).toOption

end Sys2Proof
end

