-- ==== Sys2Proof/Machine/Objects.lean ====
section
/-!
DEFINITION. Synchronisation objects in their records (R398 to R401), the units a semaphore's head waiter takes (R403), and a
waiter that leaves its queue (R406).
-/
namespace Sys2Proof.Machine

/-- A phaser's fields (R401). -/
structure Phaser where
  phase  : Nat
  ctx    : Nat
  calarm : Nat
  failed : Bool
  fidx   : Nat
  sig    : Nat
  wait   : Nat
  arr    : Nat
deriving DecidableEq, Repr

/-- What a record holds. -/
inductive SyncRecord where
  | blank
  | sem (count : Nat)
  | phaser (p : Phaser)
  /-- another KIND, or a nonzero Res field -/
  | bad
deriving DecidableEq, Repr

/-- Read a 64-byte record (R401). -/
def SyncRecord.ofBytes (bs : List Byte) : SyncRecord :=
  let w (k n : Nat) : Nat := leNat ((bs.drop (8 * k)).take n)
  match w 0 1 with
  | 0 => .blank
  | 0x5E => if w 0 8 / 256 = 0 && w 1 8 < 2 ^ 32 && (bs.drop 16).all (· = 0) then .sem (w 1 8) else .bad
  | 0x50 =>
    let h := w 0 8
    let x := w 1 8
    if bits h 31 29 ≠ 0 || bits x 62 7 ≠ 0 then .bad
    else .phaser ⟨bits h 63 32, bits h 28 16, bits h 15 8, bit x 63, bits x 6 0, w 2 16, w 4 16, w 6 16⟩
  | _ => .bad

def Phaser.bytes (p : Phaser) : List Byte :=
  leBytes 8 (packBits [(8, 0x50), (8, p.calarm), (13, p.ctx), (3, 0), (32, p.phase)])
    ++ leBytes 8 (packBits [(7, p.fidx), (56, 0), (1, b2n p.failed)])
    ++ leBytes 16 p.sig ++ leBytes 16 p.wait ++ leBytes 16 p.arr

/-- The bytes of a semaphore's record. -/
def semBytes (count : Nat) : List Byte := leBytes 8 0x5E ++ leBytes 8 count ++ List.replicate 48 0

def State.record (s : State) (pa : Nat) : SyncRecord := .ofBytes (s.readPa pa 64)

def State.waitersAt (s : State) (pa : Nat) : List Waiter := Sparse.get [] (s.die (paDie pa)).waiters pa
def State.setWaiters (s : State) (pa : Nat) (ws : List Waiter) : State :=
  s.updDie (paDie pa) fun d => { d with waiters := Sparse.set [] d.waiters pa ws }

/-- A waiting word of a job completes: S writes `s[D]` where the word has one and goes on; the C engine's `csemw` retires. An S word
whose destination a C word has made pending meanwhile holds at the scoreboard and issues again (R93). -/
def Job.granted (j : Job) (w : Waiter) (v : Option Word) : Job :=
  match w.sel with
  | .c => { j with ccmd := none }.commandDone .c
  | sel =>
    let j1 := { j with swait := .none }
    match v with
    | some x => if j.pendS w.dest then j1 else (j1.ws w.dest x).advance sel 0
    | none => j1.advance sel 0

def State.grant (s : State) (w : Waiter) (v : Option Word) : State := s.updJob w.core (·.granted w v)

/-- The head waiter of a semaphore takes its units as soon as COUNT suffices, and so on down the queue (R403). -/
def State.grantUnits : Nat → State → Nat → State
  | 0, s, _ => s
  | k + 1, s, pa =>
    match s.record pa, s.waitersAt pa with
    | .sem c, w :: rest =>
      if w.kind = .units && w.amount ≤ c then
        State.grantUnits k (((s.writePa pa (semBytes (c - w.amount))).setWaiters pa rest).grant w none) pa
      else s
    | _, _ => s

/-- The object is resident in its synchronisation engine (R399). -/
def State.objectResident (s : State) (pa : Nat) : Bool := (s.die (paDie pa)).objects.any (·.1 = pa)

/-- The waiters of a stream leave the queue of the object at `pa`; the head that is left may take its units (R403, R406), where the
object is resident: else the next synchronisation word on it evaluates them (R400). -/
def State.leaveQueue (s : State) (n : Nat) (e : Engine) (pa : Nat) : State :=
  let ws := s.waitersAt pa
  let s1 := s.setWaiters pa (ws.filter fun w => w.core ≠ n || w.sel.engine ≠ e)
  if s.objectResident pa then State.grantUnits ws.length s1 pa else s1

/-- What the job's S stream holds at a wait is abandoned unissued: a `qwait` (R385), an `rdv` (R186, R200), an access a page state
stalls. -/
def Job.leaveWait (j : Job) : Job :=
  { j.updStream .s (fun st => { st with rdvWait := false }) with waitFrom := none, stalls := j.stalls.set .s none }

/-- An S word that holds at a wait, or waits for an object, is abandoned unissued (R186, R200, R406). -/
def State.abandonS (s : State) (n : Nat) : State :=
  match s.job? n with
  | none => s
  | some j =>
    match j.swait with
    | .object pa => (s.setJob n { j.leaveWait with swait := .none }).leaveQueue n .s pa
    | _ => s.setJob n j.leaveWait

/-- The objects a core's C engine waits at. -/
def State.cObjects (s : State) (n : Nat) : List Nat :=
  allDies.flatMap fun d => (s.die d).waiters.filterMap fun p => if p.2.any (fun w => w.core = n && w.sel = .c) then some p.1 else none

/-- A `csemw` that waits is abandoned (R406): it starts again later. -/
def State.abandonC (s : State) (n : Nat) : State :=
  match s.cObjects n with
  | [] => s
  | os =>
    os.foldl (fun s pa => s.leaveQueue n .c pa)
      (s.updJob n fun j => { j with ccmd := j.ccmd.map fun c => { c with started := false } })

end Sys2Proof.Machine
end

