-- ==== Sys2Proof/Machine/Tlb.lean ====
section
/-!
DEFINITION. Filling and removing translations (R314 to R317, R319, R227), invalidation rounds, and the collapse of a
read-duplicated page (R226).
-/
namespace Sys2Proof.Machine

/-- Set of a translation in a TLB of `n` sets (R315). -/
def TlbEntry.setIndex (t : TlbEntry) (n : Nat) : Nat := (t.asid ^^^ (t.va / 2 ^ t.size)) % n

/-- The least recently used entry of a full set, which makes room; one that records replicas stays (R225, R315). -/
def tlbVictim (ways sets : Nat) (tlb : List TlbEntry) (t : TlbEntry) : Option TlbEntry :=
  let same := tlb.filter fun x => x.setIndex sets = t.setIndex sets
  if same.length < ways then none else same.find? (·.copies.isEmpty)

/-- The ways of a translation's set are all taken by entries that record replicas: it finds no place. -/
def tlbFull (ways sets : Nat) (tlb : List TlbEntry) (t : TlbEntry) : Bool :=
  let same := tlb.filter fun x => x.setIndex sets = t.setIndex sets
  ways ≤ same.length && same.all fun x => !x.copies.isEmpty

/-- Put a translation into a TLB, in place of one it covers the page of. -/
def tlbInsert (ways sets : Nat) (tlb : List TlbEntry) (t : TlbEntry) : List TlbEntry :=
  let kept := tlb.filter fun x => !(x.asid = t.asid && x.va = t.va && x.size = t.size)
  match tlbVictim ways sets kept t with
  | some v => kept.filter (· ≠ v) ++ [t]
  | none => if tlbFull ways sets kept t then tlb else kept ++ [t]


/-- The permissions a fill grants (R317): W goes from a shared page, and from a read-duplicated one (R225). -/
def fillPerm (perm : Nat) (readOnly : Bool) : Nat := if readOnly then perm - bits perm 1 1 * 2 else perm

/-- The translation a memory-side fill of `va` makes for a job of world `wid`: the walk, then the check of the ownership entry
(R317); none where the fill stalls or traps. It records the replicas of the page that another identifier's entry records, unless the
page collapses: a fill then names the master (R226). -/
def State.walkEntry (s : State) (ctx wid va : Nat) : Option TlbEntry :=
  match s.walk ctx va with
  | none => none
  | some l =>
    let e := s.ownerAt (l.pa + va % 2 ^ l.size)
    let st := ownState e
    let other := (s.die (bits va 51 49)).mtlb.find? fun t => t.pa = l.pa && t.size = l.size && !t.coll
    if !s.worldMay l.pa e wid || st = ownScrub || st = ownArriving || ownCode e != (l.perm = 4) then none
    else
      let copies := match other with
        | some t => t.copies
        | none => []
      some { asid := ctx, va := va / 2 ^ l.size * 2 ^ l.size, size := l.size, pa := l.pa, leaf := l.perm
             perm := fillPerm l.perm (ownChecked e = ownShared || !copies.isEmpty), hold := 0, copies := copies, coll := false }

/-- The flush of an identifier runs: its round has not ended on some die (R319). -/
def State.flushing (s : State) (ctx : Nat) : Bool :=
  allDies.any fun d => (s.die d).work.any fun w => match w with
    | .round a _ z _ .drop => a = ctx && z = 52
    | _ => false

/-- No fill of an identifier is accepted on any die while its flush runs, nor of an address while a round for it runs, but that of a
collapse, which fills from the master (R226, R319, R321), nor while a moved page waits to be named anew (R229); a unit in reset fills nothing (R428). -/
def State.fillBarred (s : State) (ctx va : Nat) : Bool :=
  let d := s.die (bits va 51 49)
  !d.alive || s.flushing ctx || d.work.any fun w => match w with
    | .round a v z _ k => k ≠ .collapse && a = ctx && v / 2 ^ z = va / 2 ^ z
    | .move src _ parts moved =>
      parts = moved && d.mtlb.any fun t => t.hits ctx va &&
        (let f := ownerIndex t.pa
         src < f + 2 ^ t.size / frameBytes && f < src + parts)

/-- Give each core of `cs` on die `d` a new first-level TLB. -/
def State.mapTlbs (s : State) (d : Nat) (cs : List Nat) (f : List TlbEntry → List TlbEntry) : State :=
  cs.foldl (fun s c => s.updCore (16 * d + c) fun x => { x with tlb := f x.tlb }) s

/-- The cores of a holder mask. -/
def maskCores (m : Nat) : List Nat := (List.range 16).filter m.testBit

/-- Fill the memory-side TLB of the home die (R314); the victim's translations leave the cores that hold them (log entry 17). -/
def State.fillMemory (s : State) (ctx wid va : Nat) : State :=
  let d := bits va 51 49
  if (s.die d).mtlb.any (·.hits ctx va) || s.fillBarred ctx va then s
  else
    match s.walkEntry ctx wid va with
    | none => s
    | some t =>
      let s1 := match tlbVictim 16 2048 (s.die d).mtlb t with
        | some v => s.mapTlbs d (maskCores v.hold) (·.filter fun x => !(x.asid = v.asid && x.va = v.va && x.size = v.size))
        | none => s
      s1.updDie d fun x => { x with mtlb := tlbInsert 16 2048 x.mtlb t }

/-- Fill the first-level TLB of core `n` from its die's memory-side unit, and record the holder (R314, R316, R225); the miss it serves
counts (R417; log entry 40). -/
def State.fillCore (s : State) (n ctx va : Nat) : State :=
  let d := n / 16
  if d ≠ bits va 51 49 || s.fillBarred ctx va then s
  else
    match (s.die d).mtlb.find? (·.hits ctx va) with
    | none => s
    | some t =>
      let pa := t.pageFor (n % 16)
      let own : TlbEntry := { t with pa := pa, perm := fillPerm t.perm (!t.copies.isEmpty), hold := 0, copies := [], coll := false }
      let held (y : TlbEntry) : TlbEntry := if y.hits ctx va then { y with hold := y.hold ||| 2 ^ (n % 16) } else y
      let s1 := s.updDie d fun x => { x with mtlb := x.mtlb.map held }
      s1.updCore n fun c => { c with tlb := tlbInsert 8 128 c.tlb own, job := c.job.map (·.count 0x0A 1) }

/-- A whole fill for an access of a job (R314, R317). -/
def State.fill (s : State) (n ctx wid va : Nat) : State := (s.fillMemory ctx wid va).fillCore n ctx va

/-- What follows a round once every core has acknowledged: a collapsed page is ordinary, and every frame of its replicas is to be
scrubbed (R226). -/
def State.endRound (s : State) (d asid va size : Nat) (kind : RoundKind) : State × List Nat :=
  let n := 2 ^ size / frameBytes
  let same (t : TlbEntry) : Bool := t.asid = asid && t.va = va && t.size = size
  match kind with
  | .collapse =>
    let copies := ((s.die d).mtlb.filter same).flatMap (·.copies)
    let s1 := s.updDie d fun x => { x with mtlb := x.mtlb.map fun t => if same t then { t with copies := [], coll := false } else t }
    let gone := copies.filter fun pa => !(s1.die d).mtlb.any fun t => t.copies.contains pa
    (s1, gone.flatMap fun pa => (List.range n).map fun k => pa + k * frameBytes)
  | _ => (s, [])

/-- Start an invalidation round of a memory-side entry (R227): it goes to the cores in HOLD, which is then cleared. -/
def State.startRound (s : State) (d : Nat) (t : TlbEntry) (kind : RoundKind) : State :=
  let same (y : TlbEntry) : Bool := y.asid = t.asid && y.va = t.va && y.size = t.size
  s.updDie d fun x =>
    { x with
      mtlb := match kind with
        | .drop => x.mtlb.filter fun y => !same y
        | k => x.mtlb.map fun y => if same y then { y with hold := 0, coll := decide (k = .collapse) || y.coll } else y
      work := if t.hold = 0 && kind ≠ .collapse then x.work else x.work ++ [.round t.asid t.va t.size (maskCores t.hold) kind] }

/-- A write to a read-duplicated page collapses it (R226). -/
def State.collapsePage (s : State) (ctx va : Nat) : State :=
  let d := bits va 51 49
  let pa := match (s.die d).mtlb.find? (·.hits ctx va) with
    | some t => t.pa + va % 2 ^ t.size
    | none => match s.walk ctx va with
      | some l => l.pa + va % 2 ^ l.size
      | none => 2 ^ 52
  (s.die d).mtlb.foldl (fun s t => if !t.copies.isEmpty && !t.coll && t.ofPage ctx va pa then s.startRound d t .collapse else s) s

/-- A translation maps a byte of `n` frames from `pa` on. -/
def TlbEntry.meets (t : TlbEntry) (pa n : Nat) : Bool := t.pa < pa + n * frameBytes && pa < t.pa + 2 ^ t.size

/-- Start a round for every translation of `n` frames from `pa` on. -/
def State.roundsOf (s : State) (pa n : Nat) (kind : RoundKind) : State :=
  (s.die (paDie pa)).mtlb.foldl (fun s t => if t.meets pa n then s.startRound (paDie pa) t kind else s) s

/-- A round of a translation of `n` frames from `pa` on has not ended. Its memory-side entry is gone where the translation is. -/
def State.roundsRun (s : State) (pa n : Nat) : Bool :=
  let d := s.die (paDie pa)
  d.work.any fun w => match w with
    | .round a v z _ .drop => d.cores.any fun c => c.2.tlb.any fun t => t.asid = a && t.va / 2 ^ z = v / 2 ^ z && t.meets pa n
    | .round a v z _ _ => d.mtlb.any fun t => t.asid = a && t.va = v && t.size = z && t.meets pa n
    | _ => false

/-- A page enters the scrub path (R223, steps 1 and 2): its entry and tag take state SCRUB with its next owner, the world it leaves
staying recorded (R220), and its translations are removed by rounds. -/
def State.enterScrub (s : State) (d i : Nat) (next : Option Nat) : State :=
  let pa := framePa d i
  let wid := ownWid (s.ownerEntry d i)
  let s1 := (s.setOwnerTag d i (ownMake ownScrub 0 false false false false next.isSome (next.getD 0) wid 0)).roundsOf pa 1 .drop
  s1.updDie d fun x => { x with names := x.names.filter fun r => r.dst ≠ pa / frameBytes }

/-- Core `c` of die `d` removes its translations of a round's page and acknowledges (R227). The last one ends the round; the
replicas of a collapsed page enter the scrub path (R226, step 4). -/
def State.ackRound (s : State) (d c asid va size : Nat) (kind : RoundKind) (pending : List Nat) : State :=
  let s1 := s.mapTlbs d [c] (·.filter fun t => !(t.asid = asid && t.va / 2 ^ size = va / 2 ^ size))
  let left := pending.filter (· ≠ c)
  let s2 := s1.updDie d fun x =>
    { x with work := x.work.flatMap fun w =>
        if w = .round asid va size pending kind then
          (if left.isEmpty then [] else [.round asid va size left kind]) else [w] }
  if left.isEmpty then
    let r := s2.endRound d asid va size kind
    r.2.foldl (fun s pa => s.enterScrub d (ownerIndex pa) none) r.1
  else s2

end Sys2Proof.Machine
end

