-- ==== Sys2Proof/Machine/Ops.lean ====
section
/-!
DEFINITION. Running a word of a stream, taking a trap and returning from one, asking for a pre-emption, faulting a
micro-context: the operations the meanings share.
-/
namespace Sys2Proof.Machine

abbrev Result := Host.Outcome State Fault Refusal

/-! Pre-emption requests (R200, R350) -/

/-- The section a job's stream stands at: its number, whether it stands before the section's first word, and its header. -/
def State.currentSection (s : State) (j : Job) (e : Engine) : Option (Nat × Bool × Nat) :=
  let st := j.stream (.ofEngine e)
  if st.ended then none
  else
    match st.header with
    | some h => some (hSect h.toNat, st.word ≤ 1 && st.out = 0, h.toNat)
    | none =>
      match st.closed, st.flight.getLast? with
      | true, some f => some (f.sect, false, f.header.toNat)
      | _, _ =>
        match s.fetch j st.hdr 8 with
        | .ok bs => some (hSect (leNat bs), st.word ≤ 1, leNat bs)
        | _ => none

/-- The section of header `h` is the stream's prologue, a body or the epilogue of level `n` (R350): bodies carry L, the others do not
(R344). -/
def Job.withinSection (j : Job) (e : Engine) (n h : Nat) : Bool :=
  let x := j.loop n
  let sp := x.spans.get e
  let sect := hSect h
  (!hL h && ((sp.pro ≠ 0xFFF && sp.pro = sect) || (sp.epi ≠ 0xFFF && sp.epi = sect))) || (hL h && x.body.get e && spanHolds sp sect)

/-- A stream is within level `n` (R350). -/
def State.within (s : State) (j : Job) (e : Engine) (n : Nat) : Bool :=
  (j.loop n).pipe && (j.level n).active && match s.currentSection j e with
    | some (_, _, h) => j.withinSection e n h
    | none => false

/-- CLAMP of a drain of level `n` (R351, step 1). -/
def Job.clampOf (j : Job) (n : Nat) : Nat :=
  let x := j.level n
  let passes := allEngines.filterMap fun e => if x.begun.get e then some (if x.mode.get e = Pass.running then x.pass.get e
    else x.pass.get e - (j.share (j.loop n).kind).1) else none
  match passes with
  | [] => x.p0 + 1
  | p :: r => r.foldl max p + 1

/-- The request of a pre-emption as it reaches the core: how each stream of a pipelined level is taken (R350, R351). -/
def State.preemptRecord (s : State) (j : Job) : Preempt :=
  let base : Preempt := ⟨s.cycle (j.core / 16), .all .none, .all false, 0, none, none, false, false, false⟩
  match allLevels.find? (fun n => [Engine.v, .m, .c].any (fun e => s.within j e n)) with
  | none => base
  | some n =>
    let x := j.loop n
    if x.drain then
      let run (e : Engine) : Bool := x.body.get e && (s.within j e n || !(j.level n).finished e)
      { base with
        plan := ⟨.none, if run .v then .epilogue else .none, if run .m then .epilogue else .none,
          if run .c then .epilogue else .none⟩
        gone := ⟨false, (j.level n).finished .v && (x.spans.get .v).epi = 0xFFF,
          (j.level n).finished .m && (x.spans.get .m).epi = 0xFFF, (j.level n).finished .c && (x.spans.get .c).epi = 0xFFF⟩
        level := n, clamp := some (j.clampOf n), eplen := some x.eplen }
    else
      let d (e : Engine) : Plan := if s.within j e n then .dSection else .none
      let at_ (e : Engine) : Bool := match s.currentSection j e with
        | some (_, start, h) => start && hD h
        | none => true
      { base with plan := ⟨.none, d .v, d .m, d .c⟩, gone := ⟨false, at_ .v, at_ .m, at_ .c⟩, level := n, eplen := some x.eplen }

/-- The S word that waits at a slice stops waiting: its destination is no longer pending. -/
def Job.leaveSlice (j : Job) (d : Nat) : Job := { j with swait := .none }.setPendS d false

/-- The fields of an atomic or `lathe`. -/
def sliceFields : Instr → Option SM
  | .atadd f | .atand f | .ator f | .atxor f | .atmin f | .atmax f | .atswp f | .atcas f | .atfadd f | .atfmax f | .atfmin f
  | .lathe f => some f
  | _ => none

/-- The destination of an atomic or `lathe`. -/
def atomicDest (i : Instr) : Nat := ((sliceFields i).map fun f => f.d.toNat).getD 0

/-- Whether the form returns no value. -/
def SliceRequest.nr (r : SliceRequest) : Bool := (sliceFields r.instr).any fun f => f.nr = 1

/-- The ordering class of a request (R270). -/
def SliceRequest.cls (r : SliceRequest) : Nat := ((sliceFields r.instr).map fun f => f.cls.toNat).getD 0

/-! Retired requests that have not run (R271, R285) -/

/-- Core `n` has a no-return request that its slice has admitted and not run, and that `p` picks: the word has retired, its access has
not performed. -/
def State.unrun (s : State) (n : Nat) (p : SliceRequest → Bool) : Bool :=
  s.dies.any fun d => d.2.slices.any fun y => y.2.queues.any fun q => q.reqs.any fun r => r.core = n && r.nr && p r

/-- An access of class `c` of the S stream comes after an earlier access of its class that has not performed (R271); requests on
one line are run in the order they were admitted in (R288), so one on the same line need not wait. -/
def State.behind (s : State) (n : Nat) (sel : Sel) (c : Nat) (line : Option Nat) : Bool :=
  s.unrun n fun r => r.handler = sel.isHandler && r.cls = c && line ≠ some (r.pa / 64)

/-- An access of a class of the mask, of the stream, has not performed (R274, R275, R277). -/
def State.unfenced (s : State) (n : Nat) (sel : Sel) (mask : Nat) : Bool :=
  s.unrun n fun r => r.handler = sel.isHandler && mask.testBit r.cls

/-- A pre-emption request or a gang freeze cancels a request that no slice has admitted (R290): the word issues again. -/
def State.cancelRequest (s : State) (n : Nat) : State :=
  match s.job? n with
  | none => s
  | some j =>
    match j.swait with
    | .slice d i =>
      match (s.slice d i).input.find? (·.core = n) with
      | some r =>
        (s.updSlice d i fun x => { x with input := x.input.filter (·.core ≠ n) }).setJob n (j.leaveSlice (atomicDest r.instr))
      | none => s
    | _ => s

/-- A pre-emption request reaches a core (R200); a second request adds nothing; the quiesce phase of a `cxsw` ends (R198). -/
def State.requestPreempt (s : State) (n : Nat) : State :=
  match s.job? n with
  | some j =>
    if j.preempt.any (!·.swap) then s
    else
      let j1 := { j with preempt := some (s.preemptRecord j), stalls := .all none }.count 0x0D 1
      (((s.setJob n j1).cancelRequest n).abandonS n).abandonC n
  | none => s

/-- The cores that run jobs of a micro-context. -/
def State.coresOf (s : State) (ctx : Nat) : List Nat :=
  allCores.filter fun n => match s.job? n with
    | some j => j.ctx = ctx
    | none => false

/-- The dispatcher sends the pre-emption requests of a group; each reaches its core as an event (R200, R201). -/
def State.preemptGroup (s : State) (ctx : Nat) : State := s.updExtra ctx fun x => { x with wanted := true }

/-- The tickets whose binding has not ended take a status: those of descriptors that have left the queue, and that of the binding's own
descriptor (R391). -/
def State.endTickets (s : State) (ctx : Nat) (status : Nat) : State :=
  let e := s.extra ctx
  s.updDie (homeDie ctx) fun d =>
    { d with tickets := d.tickets.map fun t =>
        if t.ctx = ctx && (t.served || (!e.servedDesc && t.desc = e.bindDesc)) && t.status.isNone then { t with status := some status } else t }

/-- The micro-context becomes faulted (R187): every job of its group is stopped and saved. -/
def State.faultCtx (s : State) (ctx cause : Nat) : State :=
  (((s.setCtxState ctx stFaulted).setBlkBits ctx 0 7 0 cause).endTickets ctx (0x100 + cause)).preemptGroup ctx

/-- The bound jobs of a micro-context on a die, of which the arming of a lockstep level makes gangs (R29, R349). -/
def State.gangCores (s : State) (ctx die : Nat) : List Nat :=
  (s.coresOf ctx).filter fun n => n / 16 = die && match s.job? n with
    | some j => !j.child
    | none => false

/-- The active arming of a lockstep level that hands the core passes: the core is in its gang (R29, R349). A child's passes are its own
(R347). -/
def Job.gangArming (j : Job) (n : Nat) : Option Nat :=
  if !j.child && (j.loop n).lock && (j.level n).active then some (j.level n).made else none

/-- Two jobs run one arming of a lockstep level. -/
def Job.sameGang (j k : Job) : Bool := allLevels.any fun n => (j.gangArming n).isSome && j.gangArming n = k.gangArming n

/-- A page state, or a partition in reset, stalls an access of a job; else what stalls it is a held line (R285). -/
def State.pageStalls (s : State) (j : Job) (k : AccessKind) (va : Nat) : Bool :=
  match s.span j.core j.ctx j.wid j.conf k va 1 with
  | .stall _ => true
  | _ => false

/-- A write of a job waits for the collapse of a read-duplicated page. -/
def State.awaitsCollapse (s : State) (j : Job) (k : AccessKind) (va : Nat) : Bool :=
  k.isWrite && match s.leafOf j.core j.ctx va with
    | some l => s.duplicated j.ctx va (l.pa + va % 2 ^ l.size)
    | none => false

/-- The record of an access that stalls: one that stalled there before keeps the cycle and the step it arrived in. -/
def State.stallRecord (s : State) (j : Job) (e : Engine) (va : Nat) (k : AccessKind) : Stall :=
  let new : Stall := ⟨va, k, s.cycle (j.core / 16), if s.awaitsCollapse j k va then some s.tick else none⟩
  match j.stalls.get e with
  | some x => if x.va = va && x.kind = k then { x with order := x.order.or new.order } else new
  | none => new

/-- An access of an engine stalls on a page state; a write to a read-duplicated page starts its collapse (R226), and in a
gang the stall wire freezes every member (R29, R349). One that waits for a held line alone just waits. -/
def State.stalled (s : State) (n : Nat) (e : Engine) (va : Nat) (k : AccessKind) : State :=
  match s.job? n with
  | none => s
  | some j =>
    if !s.pageStalls j k va then s
    else
    let s0 := s.setJob n { j with stalls := j.stalls.set e (some (s.stallRecord j e va k)) }
    let s1 := if k = .write then s0.collapsePage j.ctx va else s0
    ((s1.gangCores j.ctx (n / 16)).filter fun m => (s1.job? m).any j.sameGang).foldl
      (fun t m => (((t.updJob m fun j => { j with frozen := true }).cancelRequest m).abandonS m).abandonC m) s1

/-- The engine's access no longer stalls. -/
def State.unstalled (s : State) (n : Nat) (e : Engine) : State := s.updJob n fun j => { j with stalls := j.stalls.set e none }

/-! Traps (R183 to R189) -/

/-- What a trap names: its cause, `TRAPADDR`, `TRAPAUX`, the engine's part of ESTAT (R185) and, for a header, its number. -/
structure Trap where
  cause : Nat
  addr  : Nat
  aux   : Nat
  estat : Nat
  /-- the trap names a header (word index 0): its section number, where the header could be read -/
  hdr   : Option (Option Nat)
deriving DecidableEq, Repr

def trap (cause addr aux : Nat) : Trap := ⟨cause, addr, aux, 0, none⟩
/-- A trap that names the header at `addr`, which reads `h` where it could be read (R192). -/
def headerTrap (cause addr aux : Nat) (h : Option Nat) : Trap := ⟨cause, addr, aux, 0, some (h.map hSect)⟩
/-- A trap whose `TRAPAUX` holds bits 95:32 of the word (R184). -/
def wordTrap (cause addr : Nat) (i : Instr) : Trap := trap cause addr (i.bits / 2 ^ 32)

def engineCode : Engine → Nat
  | .s => 0
  | .v => 1
  | .m => 2
  | .c => 3

/-- The engine status word (R185). -/
def Job.trapStat (j : Job) (sel : Sel) (estat : Nat) : Nat :=
  let e := sel.engine
  let own := match e with
    | .v => estat + j.repDone
    | _ => estat
  packBits [(40, own), (4, 0), (12, (j.stream sel).rthru), (6, 0), (2, engineCode e)]

/-- The record of a trap in a stream (R183). -/
def Job.trapRecord (j : Job) (sel : Sel) (free : Nat) (t : Trap) : TrapRecord :=
  let st := j.stream sel
  let sect := match t.hdr, st.header with
    | some (some n), _ => n
    | some none, _ => free % 4096
    | none, some h => hSect h.toNat
    | none, none => free % 4096
  ⟨t.cause, engineCode sel.engine, sect, if t.hdr.isSome then 0 else st.word, j.trapStat sel t.estat, t.addr, t.aux⟩

/-- PEND: a stream holds a trap not yet delivered (R183, R189). -/
def Job.pend (j : Job) : Bool := j.heldv.isSome || j.heldm.isSome || j.heldc.isSome || !j.rebind.isEmpty

/-- A record in the trap-area layout (R186). -/
def recordBytes (pend : Bool) (r : TrapRecord) (rets : Nat) : List Byte :=
  leBytes 8 (r.cause + 256 * b2n pend) ++ leBytes 8 r.stream ++ leBytes 8 r.sect ++ leBytes 8 r.word ++ leBytes 8 r.stat
    ++ leBytes 8 r.addr ++ leBytes 8 r.aux ++ leBytes 8 rets

/-- Write 64 bytes to the micro-context's trap area (R186, R188); a bad TRAPAREA is a fault of the write. -/
def State.trapArea (s : State) (j : Job) (bs : List Byte) : Access State :=
  let a := s.blk j.ctx 0x28
  if a = 0 || a % 64 ≠ 0 then .trap 0x06 a 0 else s.jobStore j a bs

/-- The write of the trap area fails: the trap entry ends and the micro-context is faulted with the original cause (R188). -/
def State.recordFails (s : State) (n : Nat) (j : Job) : State :=
  ((s.updJob n fun j => { j with areaPending := false, nest := true }).unstalled n .s).faultCtx j.ctx j.trap.cause

/-- The write of the job's own record: the handler's first word waits while it stalls; a fault of it ends the trap entry and
faults the micro-context with the original cause (R188). -/
def State.writeRecord (s : State) (n : Nat) (j : Job) : State :=
  match s.trapArea j (recordBytes j.pend j.trap j.rets.toNat) with
  | .ok s1 => (s1.updJob n fun j => { j with areaPending := false }).unstalled n .s
  | .stall a => (s.updJob n fun j => { j with areaPending := true }).stalled n .s a .write
  | .trap _ _ _ => s.recordFails n j

/-- `RETS` of a trap (R186): the first S word not retired; a trap that names S's header resumes at that header. Where S has ended no word
is left, and the model gives word 1 of its last section's header (DESIGN CHOICE; log entry 90). -/
def Job.retsFor (j : Job) (r : TrapRecord) : Word :=
  BitVec.ofNat 64 (if r.stream = 0 && r.word = 0 then j.streams.s.position else j.streams.s.firstWord)

/-- Take a trap record in job mode: the record registers, handler mode, `RETS`, the trap area, the handler's streams (R186);
without a handler the micro-context is faulted (R187). An S word that waits for an object or at `qwait` is abandoned unissued. -/
def State.deliver (s0 : State) (n : Nat) (r : TrapRecord) : State :=
  let s := s0.abandonS n
  match s.job? n with
  | none => s
  | some j =>
    let j1 := { j with trap := r, nest := j.handS = 0, hmode := true, skip := false, swapped := false, rets := j.retsFor r,
                       hs := .start j.handS, hm := .start j.handM, msaved := .before }
    let s1 := (s.setJob n j1).writeRecord n j1
    if j.handS = 0 then s1.faultCtx j.ctx r.cause else s1

/-- The S stream has a word that has issued and not retired (R293, R195). -/
def Job.sOutstanding (j : Job) : Bool :=
  match j.swait with
  | .slice _ _ => true
  | .hcall _ _ _ _ => true
  | _ => false

/-- Keep a record in its engine until it can be delivered (R189). -/
def Job.hold (j : Job) (e : Engine) (r : TrapRecord) : Job :=
  match e with
  | .v => { j with heldv := some r }
  | .m => { j with heldm := some r }
  | .c => { j with heldc := some r }
  | .s => j

/-- A walk that stops at a table outside world 0's pages is reported to firmware on the service ring of the unit (R313). -/
def State.reportWalk (s : State) (ctx : Nat) (t : Trap) : State :=
  if t.cause = 0x07 && s.tableFault ctx t.addr then
    { s with hub := { s.hub with responses := s.hub.responses ++ [⟨homeDie ctx, 0, "TABLE_FAULT", 0, leBytes 8 ctx ++ leBytes 8 t.addr⟩] } }
  else s

/-- Take a trap in a stream of the job on core `n`. -/
def State.takeTrap (s : State) (n : Nat) (sel : Sel) (t : Trap) : State :=
  match s.job? n with
  | none => s
  | some j =>
    let r := j.trapRecord sel (Config.freeNat s.tick 0) t
    let s1 := (s.reportWalk j.ctx t).setJob n (j.updStream sel fun st => { st with trapped := true })
    if sel.isHandler then
      let j1 := { j.updStream sel (fun st => { st with trapped := true }) with trap := r, nest := true }
      ((s1.setJob n j1).writeRecord n j1).faultCtx j.ctx t.cause
    else if j.hmode || (sel ≠ .s && j.sOutstanding) then s1.updJob n (·.hold sel.engine r)
    else s1.deliver n r

/-- The next held trap in the order V, M, C (R189). -/
def Job.nextHeld (j : Job) : Option (TrapRecord × Job) :=
  match j.heldv, j.heldm, j.heldc with
  | some r, _, _ => some (r, { j with heldv := none })
  | none, some r, _ => some (r, { j with heldm := none })
  | none, none, some r => some (r, { j with heldc := none })
  | none, none, none => none

/-- Deliver the next held trap, where nothing stands before it (R189); a trap that waits for the S stream's next word
boundary comes first (R343, R431). -/
def State.deliverHeld (s : State) (n : Nat) : State :=
  match s.job? n with
  | none => s
  | some j =>
    if j.hmode || j.sOutstanding then s
    else
      match j.rebind, j.nextHeld with
      | r :: rest, _ => (s.setJob n { j.updStream .s (fun st => { st with trapped := true }) with rebind := rest }).deliver n r
      | [], some (r, j1) => (s.setJob n j1).deliver n r
      | [], none => s

/-- A trap that no word raises: the job's S stream takes it at its next word boundary, after those that wait already (R343, R431); while
the handler runs, S keeps it (R189). -/
def State.asyncTrap (s : State) (n : Nat) (cause addr aux : Nat) : State :=
  match s.job? n with
  | none => s
  | some j =>
    let sect := match s.currentSection j .s with
      | some (x, _) => x
      | none => Config.freeNat s.tick 2 % 4096
    let r : TrapRecord := ⟨cause, 0, sect, j.streams.s.word, j.trapStat .s 0, addr, aux⟩
    (s.setJob n { j with rebind := j.rebind ++ [r] }).deliverHeld n

/-- The stream a record names among the job's own. -/
def selOfCode : Nat → Sel
  | 0 => .s
  | 1 => .v
  | 2 => .m
  | _ => .c

/-- SKIP retires the trapped word, unless the trap names a header, the word has retired (R191, R192), or a `cxsw` has taken its
context away. -/
def Job.skips (j : Job) : Bool := j.skip && j.trap.cause ≠ 0x15 && j.trap.word ≠ 0 && !j.swapped

/-- The trapped word retires with no effect: a copy command where it stands (R248), an M command that no word stands for by
leaving the queue. -/
def Job.skipWord (j : Job) (x : Sel) : Job :=
  match x, j.mqueue with
  | .c, _ => { j with ccmd := none }.advance .c 0
  | .m, c :: r => if c.image then { j with mqueue := r }.commandDone .m else j.advance .m 0
  | x, _ => j.retireWord x 0

/-- The list of a fabric group's entry, as hub memory holds it (R392). -/
def State.groupList (s : State) (g : Nat) : List Nat :=
  let e := Sparse.get .empty s.hub.groups g
  (List.range e.count).map fun i => regionNat s.hub.memory (e.addr + 2 * i) 2

/-- The members of a fabric group (R392); none where its count is 0 or a device stands twice. -/
def State.groupMembers (s : State) (g : Nat) : Option (List Nat) :=
  let m := s.groupList g
  if m = [] || m.eraseDups.length ≠ m.length then none else some m

/-- The return from a trap (R192), once every issued handler word has retired: handler mode ends, the trapped stream goes on
at its trapped word or past it, S at `RETS` with its section's waits evaluated again, and a held trap is delivered. -/
def State.returnFromTrap (s : State) (n : Nat) : State :=
  match s.job? n with
  | none => s
  | some j =>
    let x := selOfCode j.trap.stream
    let j1 := j.updStream x fun st => { st with trapped := false, fetched := none }
    let j2 := if j.skips then j1.skipWord x else j1
    let j3 := j2.updStream .s fun st => { st with header := none, fetched := none }
    (s.setJob n { j3 with hmode := false, skip := false, hs := .empty, hm := .empty }).deliverHeld n

/-! Commands that trap (R160, R248) -/

/-- The token of a copy command (R95). -/
def copyToken : Instr → Nat
  | .cp f | .cpr f | .cpt f | .cptw f | .cpfill f | .ringbind f | .bobbind f | .ringfill f | .fget f | .fput f | .cgsum f | .fsum f
  | .cprime f => f.tok.toNat
  | _ => 0

/-- The status word of a copy command (R95). -/
def statusWord (err : Bool) (cause bytes : Nat) : Word :=
  BitVec.ofNat 64 (2 ^ 63 + (if err then 2 ^ 62 + cause % 256 * 2 ^ 40 else 0) + bytes % 2 ^ 40)

/-- Write a token's status word (R95); token 0 has none. -/
def Job.token (j : Job) (tok : Nat) (w : Word) : Job := if tok = 0 then j else (j.ws tok w).setPendS tok false

/-- The C command in flight traps (R96, R248): its token takes the ERR status in the same step, and the command issues again
at its granule. -/
def State.cTrap (s : State) (n : Nat) (t : Trap) : State :=
  match s.job? n with
  | none => s
  | some j =>
    match j.ccmd with
    | none => s.takeTrap n .c t
    | some c =>
      let j1 := { j with ccmd := some { c with held := true } }.updStream .c (·.rewind c.word)
      (s.setJob n (j1.token (copyToken c.instr) (statusWord true t.cause c.bytes))).takeTrap n .c { t with estat := c.bytes % 2 ^ 40 }

/-- The accumulators an M word leases (R158). -/
def leasedAccs : Instr → List Nat
  | .mma f => [f.acc.toNat]
  | .mmt f => [f.acc.toNat]
  | .mzero f => [f.acc.toNat]
  | .mscale f => [f.acc.toNat]
  | .mbias f => [f.acc.toNat]
  | .mstTile f => [f.acc.toNat]
  | .mstScratchpad f => [f.acc.toNat]
  | .mldTile f => [f.acc.toNat]
  | .mldScratchpad f => [f.acc.toNat]
  | .mcopy f => [f.acc.toNat, f.acc2.toNat]
  | .msave _ => List.range 8
  | .mrestore _ => List.range 8
  | _ => []

/-- `mrestore` (R176). -/
def isMrestore : Instr → Bool
  | .mrestore _ => true
  | _ => false

/-- Where the handler M stream stands once commands of it have left the queue unperformed (R160, R177). -/
def msavedBefore (dropped : List MCommand) (m : MSaveState) : MSaveState :=
  if dropped.any (fun c => match c.instr with
    | .msave _ => true
    | _ => false) then .before
  else if dropped.any (fun c => isMrestore c.instr) then .saved
  else m

/-- Commands leave the queue unperformed: they issue again from the words of their stream (R160). -/
def Job.reissue (j : Job) (sel : Sel) : List MCommand → Job
  | [] => j
  | c :: _ => j.updStream sel (·.rewind c.word)

/-- An M command traps (R160): it and the later commands leave the queue, and each stream issues its own again; where one of the
job's stands for no word, the job's stay as queued images. -/
def State.mTrap (s : State) (n : Nat) (k : Nat) (t : Trap) : State :=
  match s.job? n with
  | none => s
  | some j =>
    match j.mqueue[k]? with
    | none => s
    | some c =>
      let rest := j.mqueue.drop (k + 1)
      let accs := (List.range 8).foldl (fun a x => if (leasedAccs c.instr).contains x then a + 2 ^ x else a) 0
      let t' := { t with estat := rest.length % 8 + 256 * accs }
      let sel : Sel := if c.handler then .hm else .m
      let hand := (c :: rest).filter (·.handler)
      let own := (c :: rest).filter fun x => !x.handler
      let j1 := { j with msaved := msavedBefore hand j.msaved }.reissue .hm hand
      let j2 := if own.any (·.image) then
          { j1 with mqueue := j.mqueue.take k ++ own.map fun x => { x with started := false, queued := true, parts := 0 } }
        else { j1 with mqueue := j.mqueue.take k }.reissue .m own
      (s.setJob n j2).takeTrap n sel t'

/-- An engine's access that has waited traps: the trap is the C command's or the M command's where one made it. -/
def State.engineTrap (s : State) (n : Nat) (sel : Sel) (k : AccessKind) (t : Trap) : State :=
  match s.job? n with
  | none => s
  | some j =>
    match sel.engine, k with
    | _, .fetch => s.takeTrap n sel t
    | .c, _ => s.cTrap n t
    | .m, _ =>
      match j.mqueue.findIdx? (·.started) with
      | some i => s.mTrap n i t
      | none => s.takeTrap n sel t
    | _, _ => s.takeTrap n sel t

/-! Words -/

/-- What a word does when it reaches issue. -/
inductive Act where
  /-- it issues; `cmd` is 1 where it leaves a command that retires later -/
  | done (s : State) (cmd : Nat)
  /-- it issues and its stream stays at it until something retires it -/
  | stay (s : State)
  /-- it is held unissued -/
  | wait
  /-- a page state stalls its access: it is held unissued (R234, R237) -/
  | stall (va : Nat) (k : AccessKind)
  /-- a branch to a header is taken -/
  | jump (s : State) (target : Nat)
  | trap (t : Trap) (s : State)

/-- A stream may issue a word: it is not stopped, ended, waiting, or held by a pre-emption or a gang freeze (R29, R161, R186, R200,
R350); the job's M stream waits from a handler's `msave` until its `mrestore` has retired (R176, R177). -/
def Job.mayIssue (j : Job) (sel : Sel) : Bool :=
  let st := j.stream sel
  let free := match j.preempt with
    | none => true
    | some p => (p.swap && sel = .hs) ||
      (!p.cut && !p.saving && !sel.isHandler && !p.gone.get sel.engine && p.plan.get sel.engine ≠ Plan.none)
  free && !st.trapped && !st.ended && !st.closed && !st.rdvWait &&
    !(j.frozen && sel.engine ≠ .c) &&
    !(sel.engine = .s && decide (j.swait ≠ .none)) &&
    !(sel = .m && j.hmode && (j.msaved = .saved || j.mqueue.any (fun c => c.handler && isMrestore c.instr))) &&
    (if sel.isHandler then j.hmode && !j.areaPending else !(sel = .s && j.hmode))

/-- A trap of an M or C word is taken once every earlier command has retired (R160, R247). -/
def Job.trapHeld (j : Job) (sel : Sel) : Bool :=
  match sel with
  | .m => j.mqueue.any fun c => !c.queued
  | .hm => j.mqueue.any (·.handler)
  | .c => match j.ccmd with
    | some c => !c.held
    | none => false
  | _ => false

/-- What a handler M word meets (R177): cause 0x04 before `msave` and after `mrestore`, cause 0x10 for a ring between them. -/
def mHandlerTrap (j : Job) (i : Instr) : Option Trap :=
  let lease (i : Instr) : Trap := match i with
    | .mma f => trap 0x04 0 (16 + 256 * f.acc.toNat)
    | .mmt f => trap 0x04 0 (16 + 256 * f.acc.toNat)
    | .mzero f | .mscale f | .mbias f | .mstTile f | .mstScratchpad f | .mldTile f | .mldScratchpad f | .mcopy f =>
      trap 0x04 0 (16 + 256 * f.acc.toNat)
    | _ => trap 0x04 0 0
  match j.msaved, i with
  | _, .unassignedOpcode _ _ => none
  | .before, .nop _ _ => none
  | .before, .msave _ => none
  | .saved, .mma f => some (trap 0x10 0 f.warp.toNat)
  | .saved, .mskip f => some (trap 0x10 0 (f.imm.toNat % 16))
  | .saved, _ => none
  | _, i => some (lease i)

/-- Run a word of the stream whose turn it is: the encoding check (R52), the scoreboard (R93), the guard (R51), then its
effect. `regs` and `preds` are the scalars and predicates it reads or writes. -/
def runWord (i : Instr) (g : Guard) (regs preds : List Nat) (s : State) (body : Nat → Sel → Job → Act) : Result :=
  match s.turn with
  | .stream n sel =>
    match s.job? n with
    | none => .next s
    | some j =>
      if !j.mayIssue sel then .next s
      else
        match fateCause i.fates with
        | some c => .next (if j.trapHeld sel then s else s.takeTrap n sel (wordTrap c 0 i))
        | none =>
          if j.pendP g.pred.toNat then .next s
          else if j.rp g.pred.toNat = decide (g.neg = 1) then .next (s.setJob n (j.retireWord sel 0))
          else if regs.any j.pendS || preds.any j.pendP then .next s
          else
            match (match sel, mHandlerTrap j i with
              | .hm, some t => Act.trap t s
              | _, _ => body n sel j) with
            | .done s1 cmd => .next ((s1.updJob n (·.retireWord sel cmd)).unstalled n sel.engine)
            | .stay s1 => .next s1
            | .wait => .next s
            | .stall va k => .next (s.stalled n sel.engine va k)
            | .jump s1 t => .next ((s1.updJob n (·.branch sel t)).unstalled n sel.engine)
            | .trap t s1 => .next (if j.trapHeld sel then s else (s1.takeTrap n sel t).unstalled n sel.engine)
  | _ => .next s

/-- A word that changes only the job. -/
def runJob (i : Instr) (g : Guard) (regs preds : List Nat) (s : State) (f : Job → Job) : Result :=
  runWord i g regs preds s fun n _ j => .done (s.setJob n (f j)) 0

/-- A word that changes only the job, or traps with it unchanged. -/
def runJob? (i : Instr) (g : Guard) (regs preds : List Nat) (s : State) (f : Job → Except Trap Job) : Result :=
  runWord i g regs preds s fun n _ j => match f j with
    | .ok j1 => .done (s.setJob n j1) 0
    | .error t => .trap t s

/-- An event acts on what its input names. -/
def runEvent (s : State) (f : Input → State) : Result := .next (f s.input)

end Sys2Proof.Machine
end

