-- ==== Sys2Proof/Machine/Scalar.lean ====
section
/-!
DEFINITION. Integer and address arithmetic of the S engine (R98 to R102): formats SR at 0x01 to 0x22 and SI at 0x28 to 0x31.
-/
namespace Sys2Proof.Machine

/-- Width of an integer type (R53, R98). -/
def intWidth (t : Nat) : Nat := 8 * 2 ^ (t % 4)
/-- A type of the `.i` kind. -/
def isI (t : Nat) : Bool := t < 4

/-- A source read as R98 reads it: signed under `.i`, unsigned under `.n` and `.b`. -/
def srcInt (t : Nat) (x : Word) : Int :=
  if isI t then toSigned (intWidth t) x.toNat else ((x.toNat % 2 ^ intWidth t : Nat) : Int)
/-- A source read as unsigned `w` bits whatever the type. -/
def srcNat (t : Nat) (x : Word) : Nat := x.toNat % 2 ^ intWidth t

/-- The exact result reduced modulo 2^w and extended to 64 bits (R98). -/
def destWord (t : Nat) (x : Int) : Word :=
  let r := wrapTo (intWidth t) x
  if isI t then sext64 (intWidth t) r else BitVec.ofNat 64 r

/-- Leading zero bits in `w` bits. -/
def clzNat (w x : Nat) : Nat := if x = 0 then w else w - 1 - Nat.log2 x
/-- Trailing zero bits in `w` bits. -/
def ctzNat (w x : Nat) : Nat := ((List.range w).takeWhile (fun i => !x.testBit i)).length
/-- Number of one bits in `w` bits. -/
def popcNat (w x : Nat) : Nat := ((List.range w).filter x.testBit).length

/-- Shift left by `n` (R99). -/
def shlNat (w x n : Nat) : Nat := if n ≥ w then 0 else x * 2 ^ n
/-- Shift right by `n`: floor of the quotient (R99). -/
def shrInt (w : Nat) (x : Int) (n : Nat) : Int := x / ((2 ^ min n w : Nat) : Int)
/-- Rotate left by `n` modulo `w`. -/
def rolNat (w x n : Nat) : Nat := (x * 2 ^ (n % w) + x / 2 ^ (w - n % w)) % 2 ^ w

/-- Quotient and remainder of R99. -/
def divInt (a b : Int) : Int := if b = 0 then -1 else a.tdiv b
def remInt (a b : Int) : Int := if b = 0 then a else a - b * a.tdiv b

/-- `bext` (R100): the field, sign-extended under `.i` from its own top bit. -/
def bextInt (t : Nat) (a : Word) (pos len : Nat) : Int :=
  let w := intWidth t
  if pos ≥ w || len = 0 then 0
  else
    let n := min len (w - pos)
    let f := a.toNat / 2 ^ pos % 2 ^ n
    if isI t then toSigned n f else (f : Int)

/-- `bins` (R100). -/
def binsNat (t : Nat) (old a : Word) (pos len : Nat) : Nat :=
  let w := intWidth t
  let o := old.toNat % 2 ^ w
  if pos ≥ w || len = 0 then o
  else
    let n := min len (w - pos)
    o - (o / 2 ^ pos % 2 ^ n) * 2 ^ pos + (a.toNat % 2 ^ n) * 2 ^ pos

/-- The scalars an SR word names. -/
def srRegs (f : SR) : List Nat := [f.d.toNat, f.a.toNat, f.b.toNat, f.c.toNat]

/-- An SR word that writes `s[D]` with a result of R98 from its three sources. -/
def runArith (i : Instr) (f : SR) (s : State) (op : (t : Nat) → (a b c : Word) → Int) : Result :=
  runJob i f.g (srRegs f) [f.pd.toNat] s fun j =>
    j.ws f.d.toNat (destWord f.ty.toNat (op f.ty.toNat (j.rs f.a.toNat) (j.rs f.b.toNat) (j.rs f.c.toNat)))

/-- An SR word that writes `p[PD]` by comparing its two sources. -/
def runCompare (i : Instr) (f : SR) (s : State) (op : Int → Int → Bool) : Result :=
  runJob i f.g (srRegs f) [f.pd.toNat] s fun j =>
    j.wp f.pd.toNat (op (srcInt f.ty.toNat (j.rs f.a.toNat)) (srcInt f.ty.toNat (j.rs f.b.toNat)))

/-- An SR word that writes `p[PD]` from the predicates A and B name (R101). -/
def runPred (i : Instr) (f : SR) (s : State) (op : Bool → Bool → Bool) : Result :=
  runJob i f.g [] [f.pd.toNat, f.a.toNat, f.b.toNat] s fun j => j.wp f.pd.toNat (op (j.rp f.a.toNat) (j.rp f.b.toNat))

/-- The operands as signed or unsigned numbers by the type. -/
def int2 (op : Int → Int → Int) (t : Nat) (a b _c : Word) : Int := op (srcInt t a) (srcInt t b)
/-- The operands as unsigned numbers. -/
def nat2 (op : Nat → Nat → Nat) (t : Nat) (a b _c : Word) : Int := (op (srcNat t a) (srcNat t b) : Nat)
/-- One operand and the width. -/
def nat1 (op : Nat → Nat → Nat) (t : Nat) (a _b _c : Word) : Int := (op (intWidth t) (srcNat t a) : Nat)

def execAdd (f : SR) (s : State) : Result := runArith (.add f) f s (int2 (· + ·))
def execSub (f : SR) (s : State) : Result := runArith (.sub f) f s (int2 (· - ·))
def execMul (f : SR) (s : State) : Result := runArith (.mul f) f s (int2 (· * ·))
def execMulh (f : SR) (s : State) : Result :=
  runArith (.mulh f) f s fun t a b _ => srcInt t a * srcInt t b / ((2 ^ intWidth t : Nat) : Int)
def execMadd (f : SR) (s : State) : Result :=
  runArith (.madd f) f s fun t a b c => srcInt t a * srcInt t b + srcInt t c
def execDiv (f : SR) (s : State) : Result := runArith (.div f) f s (int2 divInt)
def execRem (f : SR) (s : State) : Result := runArith (.rem f) f s (int2 remInt)
def execNeg (f : SR) (s : State) : Result := runArith (.neg f) f s fun t a _ _ => -srcInt t a
def execAbs (f : SR) (s : State) : Result := runArith (.abs f) f s fun t a _ _ => ((srcInt t a).natAbs : Int)
def execMin (f : SR) (s : State) : Result := runArith (.min f) f s (int2 min)
def execMax (f : SR) (s : State) : Result := runArith (.max f) f s (int2 max)
def execAnd (f : SR) (s : State) : Result := runArith (.and f) f s (nat2 (· &&& ·))
def execOr (f : SR) (s : State) : Result := runArith (.or f) f s (nat2 (· ||| ·))
def execXor (f : SR) (s : State) : Result := runArith (.xor f) f s (nat2 (· ^^^ ·))
def execNot (f : SR) (s : State) : Result := runArith (.not f) f s (nat1 fun w x => 2 ^ w - 1 - x)
def execShl (f : SR) (s : State) : Result :=
  runArith (.shl f) f s fun t a b _ => (shlNat (intWidth t) (srcNat t a) b.toNat : Nat)
def execShr (f : SR) (s : State) : Result :=
  runArith (.shr f) f s fun t a b _ => shrInt (intWidth t) (srcInt t a) b.toNat
def execRol (f : SR) (s : State) : Result :=
  runArith (.rol f) f s fun t a b _ => (rolNat (intWidth t) (srcNat t a) b.toNat : Nat)
def execRor (f : SR) (s : State) : Result :=
  runArith (.ror f) f s fun t a b _ =>
    (rolNat (intWidth t) (srcNat t a) (intWidth t - b.toNat % intWidth t) : Nat)
def execClz (f : SR) (s : State) : Result := runArith (.clz f) f s (nat1 clzNat)
def execCtz (f : SR) (s : State) : Result := runArith (.ctz f) f s (nat1 ctzNat)
def execPopc (f : SR) (s : State) : Result := runArith (.popc f) f s (nat1 popcNat)
def execBext (f : SR) (s : State) : Result := runArith (.bext f) f s fun t a b c => bextInt t a b.toNat c.toNat
/-- `bins` also reads `s[D]` (R99). -/
def execBins (f : SR) (s : State) : Result :=
  runJob (.bins f) f.g (srRegs f) [] s fun j =>
    j.ws f.d.toNat (destWord f.ty.toNat (binsNat f.ty.toNat (j.rs f.d.toNat) (j.rs f.a.toNat) (j.rs f.b.toNat).toNat
      (j.rs f.c.toNat).toNat : Nat))
def execSel (f : SR) (s : State) : Result :=
  runJob (.sel f) f.g (srRegs f) [f.pd.toNat] s fun j =>
    j.ws f.d.toNat (destWord f.ty.toNat (srcNat f.ty.toNat (if j.rp f.pd.toNat then j.rs f.a.toNat else j.rs f.b.toNat) : Nat))
def execCmpeq (f : SR) (s : State) : Result := runCompare (.cmpeq f) f s fun a b => a = b
def execCmpne (f : SR) (s : State) : Result := runCompare (.cmpne f) f s fun a b => a ≠ b
def execCmplt (f : SR) (s : State) : Result := runCompare (.cmplt f) f s fun a b => a < b
def execCmple (f : SR) (s : State) : Result := runCompare (.cmple f) f s fun a b => a ≤ b
def execPand (f : SR) (s : State) : Result := runPred (.pand f) f s (· && ·)
def execPor (f : SR) (s : State) : Result := runPred (.por f) f s (· || ·)
def execPxor (f : SR) (s : State) : Result := runPred (.pxor f) f s (· != ·)
def execPnot (f : SR) (s : State) : Result := runPred (.pnot f) f s fun a _ => !a
/-- `mkva` traps with cause 0x03 where the die or the offset is out of range, and then writes nothing (R101). -/
def execMkva (f : SR) (s : State) : Result :=
  runJob? (.mkva f) f.g (srRegs f) [] s fun j =>
    let a := (j.rs f.a.toNat).toNat
    let b := (j.rs f.b.toNat).toNat
    if a > 7 || b ≥ 2 ^ 49 then .error (wordTrap 0x03 0 (.mkva f))
    else .ok (j.ws f.d.toNat (BitVec.ofNat 64 (a * 2 ^ 49 + b)))

/-- The immediate of R102: IMM sign-extended to 64 bits. -/
def immWord (f : SI) : Word := f.imm.signExtend 64

/-- An SI word that writes `s[D]` with a result of R98 from `s[A]` and the immediate. -/
def runImm (i : Instr) (f : SI) (s : State) (op : (t : Nat) → (a b c : Word) → Int) : Result :=
  runJob i f.g [f.d.toNat, f.a.toNat] [] s fun j =>
    j.ws f.d.toNat (destWord f.ty.toNat (op f.ty.toNat (j.rs f.a.toNat) (immWord f) 0))

/-- An SI word that writes `p[PD]` by comparing `s[A]` with the immediate. -/
def runImmCompare (i : Instr) (f : SI) (s : State) (op : Int → Int → Bool) : Result :=
  runJob i f.g [f.a.toNat] [f.pd.toNat] s fun j =>
    j.wp f.pd.toNat (op (srcInt f.ty.toNat (j.rs f.a.toNat)) (srcInt f.ty.toNat (immWord f)))

/-- `li`: the immediate sign-extended under `.i64`, zero-extended otherwise (R102). -/
def execLi (f : SI) (s : State) : Result :=
  runJob (.li f) f.g [f.d.toNat] [] s fun j =>
    j.ws f.d.toNat (if isI f.ty.toNat then (immWord f) else f.imm.setWidth 64)
/-- `lih`: bits 63:48 from IMM, bits 47:0 kept (R102). -/
def execLih (f : SI) (s : State) : Result :=
  runJob (.lih f) f.g [f.d.toNat] [] s fun j =>
    j.ws f.d.toNat (BitVec.ofNat 64 ((j.rs f.d.toNat).toNat % 2 ^ 48 + f.imm.toNat % 2 ^ 16 * 2 ^ 48))
def execAddi (f : SI) (s : State) : Result := runImm (.addi f) f s (int2 (· + ·))
def execAndi (f : SI) (s : State) : Result := runImm (.andi f) f s (nat2 (· &&& ·))
def execOri (f : SI) (s : State) : Result := runImm (.ori f) f s (nat2 (· ||| ·))
def execXori (f : SI) (s : State) : Result := runImm (.xori f) f s (nat2 (· ^^^ ·))
def execShli (f : SI) (s : State) : Result :=
  runImm (.shli f) f s fun t a _ _ => (shlNat (intWidth t) (srcNat t a) f.imm.toNat : Nat)
def execShri (f : SI) (s : State) : Result :=
  runImm (.shri f) f s fun t a _ _ => shrInt (intWidth t) (srcInt t a) f.imm.toNat
def execCmpeqi (f : SI) (s : State) : Result := runImmCompare (.cmpeqi f) f s fun a b => a = b
def execCmplti (f : SI) (s : State) : Result := runImmCompare (.cmplti f) f s fun a b => a < b

end Sys2Proof.Machine
end

