-- ==== Sys2Proof/Machine/Control.lean ====
section
/-!
DEFINITION. Sections, branches, hardware loops, rendezvous and `spawn` (R40 to R52, R103 to R109, R344 to R358).
-/
namespace Sys2Proof.Machine

/-- `nop` (R60): the word only issues and retires. -/
def execNop (e : Engine) (g : Guard) (s : State) : Result :=
  runWord (.nop e g) g [] [] s fun _ _ _ => .done s 0

/-- A word whose opcode is unassigned traps with cause 0x01, whatever its guard (R52). -/
def execUnassignedOpcode (e : Engine) (w : IWord) (s : State) : Result :=
  runWord (.unassignedOpcode e w) ⟨0, 0⟩ [] [] s fun _ _ _ => .trap (wordTrap 0x01 0 (.unassignedOpcode e w)) s

/-! Rendezvous (R108) -/

/-- `rdv` issues when every earlier word of its stream has retired and its accesses have performed (R279), and the stream waits. -/
def execRdv (e : Engine) (g : Guard) (s : State) : Result :=
  runWord (.rdv e g) g [] [] s fun n sel j =>
    if (j.stream sel).drained && !(sel.engine = .s && s.unfenced n sel 0xFFFF) then
      .stay (s.setJob n (j.updStream sel fun st => { st with rdvWait := true }))
    else .wait

/-- A stream has arrived at its rendezvous, or counts as arrived. -/
def Stream.arrived (st : Stream) : Bool := st.rdvWait || st.ended

/-- A waiting stream leaves its `rdv`, which retires. -/
def Job.leaveRdv (j : Job) (sel : Sel) : Job :=
  if (j.stream sel).rdvWait then (j.updStream sel fun st => { st with rdvWait := false, rdvs := st.rdvs + 1 }).advance sel 0
  else j

/-- The streams that meet: the job's four, or the handler's two (DESIGN CHOICE: R108 names the job's four, and R456 makes the handler's
streams a set of their own for section waits alone; log entry 94). -/
def rdvSet (handler : Bool) : List Sel := if handler then [.hs, .hm] else [.s, .v, .m, .c]

/-- When every stream has arrived, the waiting ones leave together; while the handler runs, the job's S stream stands at none (R186).
Input: `core`; `flag` for the handler's set. -/
def execRdvRelease (s : State) : Result :=
  runEvent s fun x => s.updJob x.core fun j =>
    let met := (rdvSet x.flag).all fun sel => (j.stream sel).arrived
    if j.preempt.isNone && !j.frozen && (x.flag || !j.hmode || j.streams.s.ended) && met then (rdvSet x.flag).foldl Job.leaveRdv j
    else j

/-! Branches (R103, R104) -/

/-- Take a branch to `t`: the checks of R103 in order, then the link and the new head. -/
def branchTo (i : Instr) (s : State) (n : Nat) (sel : Sel) (j : Job) (t : Nat) (link : Nat) : Act :=
  let st := j.stream sel
  if t % 4 ≠ 0 then .trap (trap 0x06 t 0) s
  else
    match s.fetch j t 8 with
    | .stall a => .stall a .fetch
    | .trap c _ x => .trap (trap c t x) s
    | .ok bs =>
      let s := s.fetchLines j t 8
      let h := leNat bs
      let cur := (st.header.getD 0).toNat
      if headerIllegal h then .trap (wordTrap 0x01 t i) s
      else if hL h || hL cur then .trap (wordTrap 0x03 t i) s
      else .jump (s.setJob n (j.ws link (BitVec.ofNat 64 (nextHeader st.hdr cur)))) t

def execBr (f : SI) (s : State) : Result :=
  runWord (.br f) f.g [] [] s fun n sel j =>
    branchTo (.br f) s n sel j (BitVec.ofNat 64 (j.stream sel).hdr + immWord f).toNat 0
def execBrx (f : SI) (s : State) : Result :=
  runWord (.brx f) f.g [f.a.toNat] [] s fun n sel j => branchTo (.brx f) s n sel j (j.rs f.a.toNat + immWord f).toNat 0
/-- `call` writes the header of the next section to `s[D]`. -/
def execCall (f : SI) (s : State) : Result :=
  runWord (.call f) f.g [f.d.toNat] [] s fun n sel j =>
    branchTo (.call f) s n sel j (BitVec.ofNat 64 (j.stream sel).hdr + immWord f).toNat f.d.toNat
def execRet (f : SI) (s : State) : Result :=
  runWord (.ret f) f.g [f.a.toNat] [] s fun n sel j => branchTo (.ret f) s n sel j (j.rs f.a.toNat).toNat 0

/-! Loop words (R107) -/

/-- An `lpent` has to wait: the level is active, or a pipelined level is and this one is pipelined (R107, R346). -/
def Job.lpentHeld (j : Job) (n : Nat) : Bool :=
  (j.level n).active || ((j.loop n).pipe && allLevels.any fun k => (j.loop k).pipe && (j.level k).active)

/-- Make an arming of level `n` with trip count `t` (R106, R107, R347). -/
def Job.arm (j : Job) (n t : Nat) : Job :=
  let gg := j.share (j.loop n).kind
  let p0 := firstPass (j.rl n) gg.1 gg.2
  let some_ := p0 < t && (j.loop n).owner.isSome
  let j1 := j.updLevel n fun x =>
    { x with trip := t, made := x.made + 1, active := some_, p0 := p0, gangGo := 1, begun := .all false, fin := .all 0 }
  j1.wl n (if some_ then p0 else 0)

/-- An `lpent` of any form, its trip count read from the job. -/
def runLpent (i : Instr) (f : SI) (regs : List Nat) (s : State) (t : Job → Nat) : Result :=
  runWord i f.g regs [] s fun n _ j =>
    if j.lpentHeld f.pd.toNat then .wait else .done (s.setJob n (j.arm f.pd.toNat (t j))) 0

def execLpentReg (f : SI) (s : State) : Result :=
  runLpent (.lpentReg f) f [f.a.toNat] s fun j => (j.rs f.a.toNat).toNat % 2 ^ 32
def execLpentImm (f : SI) (s : State) : Result := runLpent (.lpentImm f) f [] s fun _ => f.imm.toNat % 2 ^ 32
def execLpentTable (f : SI) (s : State) : Result := runLpent (.lpentTable f) f [] s fun j => (j.loop f.pd.toNat).trip

/-- `lpbrk`: the S stream's current pass is the last. -/
def execLpbrk (f : SI) (s : State) : Result :=
  runJob? (.lpbrk f) f.g [] [] s fun j =>
    let n := f.pd.toNat
    if (j.loop n).kind ≠ 0 || (j.level n).mode.get .s ≠ .running then .error (wordTrap 0x03 0 (.lpbrk f))
    else .ok (j.updLevel n fun x => { x with trip := (j.rl n + 1) % 2 ^ 32 })

def execLget (f : SI) (s : State) : Result :=
  runJob (.lget f) f.g [f.d.toNat] [] s fun j => j.ws f.d.toNat (BitVec.ofNat 64 (j.rl f.pd.toNat))

def execLset (f : SI) (s : State) : Result :=
  runJob? (.lset f) f.g [f.a.toNat] [] s fun j =>
    let n := f.pd.toNat
    if (j.level n).active then .error (wordTrap 0x03 0 (.lset f)) else .ok (j.wl n ((j.rs f.a.toNat).toNat % 2 ^ 32))

/-! Section headers (R40 to R48, R106, R344 to R353) -/

/-- What becomes of a stream at a header. -/
inductive Gate where
  | pass (j : Job)
  /-- the stream takes a step without passing the header -/
  | move (j : Job)
  | wait
  | trap (t : Trap)

/-- The engines a header's wait fields name, in order (R43). -/
def waitOrder : Engine → List Engine
  | .s => [.v, .m, .c]
  | .v => [.s, .m, .c]
  | .m => [.s, .v, .c]
  | .c => [.s, .v, .m]

/-- The stream a wait names: the job's, or the handler's own S and M (R456). -/
def Job.waitStream (j : Job) (sel : Sel) (e : Engine) : Option Stream :=
  if sel.isHandler then
    match e with
    | .s => some j.hs
    | .m => some j.hm
    | _ => none
  else some (j.stream (.ofEngine e))

/-- One wait field (R47, R48): satisfied, pending, or never to be satisfied. -/
def waitGate (n w : Nat) : Option Stream → Option Bool
  | none => some true
  | some x =>
    if w = 0xFFF || x.entry = 0 then some true
    else
      let gap := place n w - place n x.rthru
      if gap ≤ 0 then some true else if gap > 2048 || x.ended then none else some false

/-- All three waits of the header `h`: the first that can never be satisfied traps. -/
def Job.waits (j : Job) (sel : Sel) (h : Nat) : Option Bool :=
  (List.range 3).foldl (fun acc i =>
    match acc, waitGate (hSect h) (hWait h i) (j.waitStream sel ((waitOrder sel.engine).getD i .s)) with
    | none, _ => none
    | _, none => none
    | some a, some b => some (a && b)) (some true)

/-- S has begun pass `p` of level `n`, or holds no body of it, or has finished it (R106). -/
def Job.sAhead (j : Job) (n p : Nat) : Bool :=
  let x := j.level n
  !(j.loop n).body.get .s || x.finished .s ||
    (x.taken.get .s = x.made && x.begun.get .s &&
      (if x.mode.get .s = .running then x.pass.get .s else x.pass.get .s - (j.share (j.loop n).kind).1) ≥ p)

/-- The stream at a body's header takes its next arming (R106, R348): an arming with no passes here is skipped. -/
def Job.takeArming (j : Job) (e : Engine) (n hdr : Nat) : Gate :=
  let x := j.level n
  let own := (j.loop n).owner = some e
  if x.taken.get e ≥ x.made then .wait
  else
    let live := x.active && x.taken.get e + 1 = x.made
    let j1 := j.updLevel n fun x => { x with taken := x.taken.set e (x.taken.get e + 1), pass := x.pass.set e x.p0 }
    if !live then .move (j1.updLevel n fun x => { x with mode := x.mode.set e .skip })
    else if x.p0 ≥ j.passLimit n then .move (j1.finishArming n e .skip)
    else if own && !x.noStep && j.bindsHeld n e then .wait
    else
      let j2 := if own && !x.noStep then j1.stepBinds n x.p0 else j1
      let j3 := j2.updLevel n fun x => { x with mode := x.mode.set e .next, noStep := x.noStep && !own }
      .move (j3.updStream (.ofEngine e) fun st => { st with firsts := Sparse.set 0 st.firsts n hdr })

/-- The stream begins the pass it stands before: the counter, and LOOPSAVE.VALID (R106, R353). -/
def Job.beginPass (j : Job) (e : Engine) (n : Nat) : Job :=
  let j1 := j.updLevel n fun x => { x with mode := x.mode.set e .running, begun := x.begun.set e true }
  let j2 := if (j.loop n).owner = some e then j1.wl n ((j.level n).pass.get e) else j1
  if bits j.loopsave.toNat 34 32 = n then { j2 with loopsave := j2.loopsave &&& 0x7FFFFFFFFFFFFFFF } else j2

/-- What the loop levels make of a job's stream at an L header (R106, R346 to R349, R455). -/
def Job.loopGate (j : Job) (e : Engine) (hdr h : Nat) : Gate :=
  match j.bodyLevel e (hSect h) with
  | none => .trap (headerTrap 0x03 hdr h (some h))
  | some n =>
    let x := j.level n
    match x.mode.get e with
    | .out => j.takeArming e n hdr
    | .skip =>
      let j1 := j.updStream (.ofEngine e) fun st => { st with hdr := nextHeader hdr h }
      if hSect h = ((j.loop n).spans.get e).last then
        .move ((j1.updLevel n fun x => { x with mode := x.mode.set e .out }).markGone e (hSect h))
      else .move j1
    | .running => .pass j
    | .next =>
      let p := x.pass.get e
      if p ≥ j.passLimit n then .move (j.finishArming n e .skip)
      else if e ≠ .s && !j.sAhead n p then .wait
      else if (j.loop n).lock && !j.child && x.gangGo ≤ x.fin.get e then .wait
      else .pass (j.beginPass e n)

/-- A stream that a pre-emption takes at a D section holds at its next one, or where it has left the level (R350). -/
def Job.dHold (j : Job) (e : Engine) (h : Nat) : Option Job :=
  match j.preempt with
  | none => none
  | some p =>
    if p.plan.get e = .dSection && (hD h || !(j.withinSection e p.level h && (j.level p.level).active)) then
      some { j with preempt := some { p with gone := p.gone.set e true } }
    else none

/-- A stream passes its header; one restored behind the section's last word closes the section at once (R197). -/
def Stream.enter (st : Stream) (h : Nat) : Stream :=
  let st1 := { st with header := some (BitVec.ofNat 64 h), word := max 1 st.word }
  if st1.word > hLength h then st1.close none else st1

/-- A stream at its header, which reads `h`: encoding, loops, then waits. -/
def Job.headerGate (j : Job) (sel : Sel) (h : Nat) : Gate :=
  let st := j.stream sel
  if headerIllegal h then .trap (headerTrap 0x01 st.hdr h (some h))
  else
    match (if sel.isHandler then none else j.dHold sel.engine h) with
    | some j1 => .move j1
    | none =>
      let loops :=
        if !hL h then .pass j
        else if sel.isHandler then .trap (headerTrap 0x03 st.hdr h (some h))
        else if st.word > 1 then .pass j
        else j.loopGate sel.engine st.hdr h
      match loops with
      | .pass j1 =>
        match j.waits sel h with
        | none => .trap (headerTrap 0x01 st.hdr h (some h))
        | some false => .wait
        | some true =>
          .pass ((j1.updStream sel (·.enter h)).settle sel)
      | g => g

/-- The gate of a stream at its header: a wait on the S stream of its set also waits for the accesses of that stream's no-return words,
which have retired and not performed (R278). -/
def State.gate (s : State) (n : Nat) (j : Job) (sel : Sel) (h : Nat) : Gate :=
  let src : Sel := if sel.isHandler then .hs else .s
  let onS := (List.range 3).any fun i => (waitOrder sel.engine).getD i .s = .s && hWait h i ≠ 0xFFF
  match j.headerGate sel h with
  | .pass j1 => if onS && s.unfenced n src 0xFFFF then .wait else .pass j1
  | g => g

/-- The head section of the stream whose turn it is: its header is fetched, checked and evaluated, and when every wait is
satisfied its first word may issue (R40 to R48). -/
def execSectionIssue (s : State) : Result :=
  match s.turn with
  | .stream n sel =>
    match s.job? n with
    | none => .next s
    | some j =>
      let st := j.stream sel
      if !j.mayIssue sel || st.header.isSome then .next s
      else if st.hdr % 4 ≠ 0 then .next (s.takeTrap n sel (headerTrap 0x06 st.hdr 0 none))
      else
        match s.fetch j st.hdr 8 with
        | .stall a => .next (s.stalled n sel.engine a .fetch)
        | .trap c a x => .next (s.takeTrap n sel (headerTrap c a x none))
        | .ok bs =>
          match s.gate n j sel (leNat bs) with
          | .pass j1 => .next (((s.fetchLines j st.hdr 8).setJob n j1).unstalled n sel.engine)
          | .move j1 => .next ((s.fetchLines j st.hdr 8).setJob n j1)
          | .wait => .next s
          | .trap t => .next (s.takeTrap n sel t)
  | _ => .next s

/-! Gangs (R29, R349) -/

/-- A member of the gang of arming `a` of a level has finished its pass `k`, or has no pass after it (R349). -/
def Job.finishedPass (j : Job) (n a k : Nat) : Bool :=
  let x := j.level n
  decide (j.gangArming n ≠ some a) || x.p0 + k * (j.share (j.loop n).kind).1 ≥ x.trip ||
    allEngines.all fun e => !(j.loop n).body.get e || x.fin.get e ≥ k || x.finished e

/-- The members of a gang begin their next pass once every member has finished the pass before. Input: `ctx`, `die`,
`index` the level. -/
def execGangPassStart (s : State) : Result :=
  runEvent s fun x =>
    let gang := s.gangCores x.ctx x.die
    gang.foldl (fun t n =>
      match s.job? n with
      | none => t
      | some j =>
        let l := j.level x.index
        if (j.gangArming x.index).isSome && gang.all (fun m => match s.job? m with
            | some k => k.finishedPass x.index l.made l.gangGo
            | none => true) then
          t.updJob n (·.updLevel x.index fun l => { l with gangGo := l.gangGo + 1 })
        else t) s

/-- A stalled access still meets the page state that stalled it. -/
def State.stillStalls (s : State) (j : Job) (x : Stall) : Bool := s.pageStalls j x.kind x.va

/-- The freeze lifts on every member once no member's stall remains. Input: `ctx`, `die`. -/
def execGangFreezeLift (s : State) : Result :=
  runEvent s fun x =>
    let gang := (s.gangCores x.ctx x.die).filter fun n => (s.job? n).any (·.frozen)
    let held := gang.any fun n => match s.job? n with
      | some j => allEngines.any fun e => match j.stalls.get e with
        | some y => s.stillStalls j y
        | none => false
      | none => false
    if held then s else gang.foldl (fun t n => t.updJob n fun j => { j with frozen := false, stalls := .all none }) s

/-! `spawn` (R356, R357) -/

/-- The child queue's header: HEAD and TAIL. -/
def State.childQueue (s : State) (j : Job) : Access (Nat × Nat) :=
  match s.jobLoad j (s.blkBits j.ctx 0x30 51 0) 8 with
  | .ok (bs, _) => .ok (leNat (bs.take 4), leNat (bs.drop 4))
  | .stall a => .stall a
  | .trap c a x => .trap c a x

/-- A child record in memory (R357). -/
def ChildRecord.bytes (r : ChildRecord) : List Byte :=
  leBytes 8 (r.set % 256 + r.gidx % 128 * 256) ++ leBytes 8 r.ordinal ++ leBytes 8 r.arg1.toNat ++ leBytes 8 r.arg2.toNat
    ++ leBytes 8 r.seed.toNat ++ List.replicate 24 0

/-- The seed of a child (R77). -/
def Job.childRecord (j : Job) (f : SX) : ChildRecord :=
  ⟨j.ctx, f.idx.toNat, j.gidx, j.ordinal + 1, j.rs f.a.toNat, j.rs f.b.toNat,
    BitVec.ofNat 64 (childSeed j.srseed.toNat (j.ordinal + 1))⟩

/-- Place a record in the home die's pool (R28). -/
def State.poolAdd (s : State) (r : ChildRecord) : State :=
  s.updDie (homeDie r.ctx) fun d => { d with pool := d.pool ++ [r] }

/-- Where `spawn` puts its record: the pool, the child queue, or nowhere (R356). -/
def spawnPlace (f : SX) (s : State) (n : Nat) (j : Job) (caplog : Nat) (q : Nat × Nat) : Act :=
  let r := j.childRecord f
  let used := (s.die (homeDie j.ctx)).pool.length
  let inq := (q.2 + 2 ^ 32 - q.1) % 2 ^ 32
  let lim := if j.child then 64 else 56
  let base := s.blkBits j.ctx 0x30 51 0
  let ok (t : State) (v : Nat) : Act :=
    .done (t.updJob n fun j => { j.ws f.d.toNat (BitVec.ofNat 64 v) with ordinal := j.ordinal + 1 }) 0
  if caplog ≠ 0 && inq > 2 ^ caplog then .trap (trap 0x13 base 0x01) s
  else if used < lim && (caplog = 0 || inq = 0) then ok (s.poolAdd r) r.ordinal
  else if caplog ≠ 0 && inq < 2 ^ caplog then
    match s.jobStore j (base + 64 + 64 * (q.2 % 2 ^ caplog)) r.bytes with
    | .stall a => .stall a .write
    | .trap c a x => .trap (trap c a x) s
    | .ok s1 =>
      match s1.jobStore j (base + 4) (leBytes 4 (q.2 + 1)) with
      | .stall a => .stall a .write
      | .trap c a x => .trap (trap c a x) s
      | .ok s2 => ok s2 (r.ordinal + 2 ^ 63)
  else .trap (trap 0x18 0 used) s

/-- `spawn` is a release of all classes (R284): it waits for the stream's accesses that have not performed. -/
def execSpawn (f : SX) (s : State) : Result :=
  runWord (.spawn f) f.g [f.d.toNat, f.a.toNat, f.b.toNat] [] s fun n sel j =>
    let nsets := s.blkBits j.ctx 0x18 59 52
    let caplog := s.blkBits j.ctx 0x30 59 52
    if f.idx.toNat < 2 || f.idx.toNat ≥ nsets then .trap (wordTrap 0x03 0 (.spawn f)) s
    else if !(s.die (homeDie j.ctx)).alive || s.unfenced n sel 0xFFFF then .wait
    else if caplog = 0 then spawnPlace f s n j 0 (0, 0)
    else
      match s.childQueue j with
      | .stall a => .stall a .read
      | .trap c a x => .trap (trap c a x) s
      | .ok q => spawnPlace f s n j caplog q

end Sys2Proof.Machine
end

