-- ==== Sys2Proof/Machine/Memory.lean ====
section
/-!
DEFINITION. `ld`, `st`, `prf`, `clean` and `fence` (R232 to R237, R277), and the events of translation and page states
(R226, R227, R264, R317).
-/
namespace Sys2Proof.Machine

/-- The scalars an SM word names. -/
def smRegs (f : SM) : List Nat := [f.d.toNat, f.a.toNat, f.b.toNat, f.c.toNat, f.e.toNat, f.f.toNat]

/-- The virtual address of R232. -/
def smAddress (f : SM) (j : Job) : Nat :=
  (j.rs f.a.toNat + j.rs f.b.toNat * BitVec.ofNat 64 (2 ^ f.scale.toNat) + f.disp.signExtend 64).toNat

/-- ESTAT of the S engine: the access had been sent to a remote home (R185). -/
def remoteEstat (n va : Nat) : Nat := b2n (va < 2 ^ 52 && bits va 51 49 ≠ n / 16)

/-- The checks every sized S access makes first (R233): the address bits, then the alignment. -/
def addressTrap (k : AccessKind) (va size : Nat) : Option Trap :=
  if va ≥ 2 ^ 52 then some (trap 0x07 va (accessAux k false 0))
  else if va % size ≠ 0 then some (trap 0x06 va 0)
  else none

/-- The value `ld` writes: extended by the type (R233). -/
def loadValue (t : Nat) (bs : List Byte) : Word := if isI t then sext64 (intWidth t) (leNat bs) else BitVec.ofNat 64 (leNat bs)

/-- An untrusted read of a private register page is the one trapping load that writes its destination, with zero (R199). -/
def untrustedRead (j : Job) (cause aux : Nat) : Bool := cause = 0x09 && bit aux 2 && !j.conf

/-- `ld`, once no earlier access of its class is left to perform (R271). -/
def execLd (f : SM) (s : State) : Result :=
  runWord (.ld f) f.g (smRegs f) [] s fun n sel j =>
    let va := smAddress f j
    let size := intWidth f.ty.toNat / 8
    match addressTrap .read va size with
    | some t => .trap t s
    | none => if s.behind n sel f.cls.toNat none then .wait else
      match s.jobLoad j va size with
      | .ok (bs, s1) => .done (s1.updJob n (·.ws f.d.toNat (loadValue f.ty.toNat bs))) 0
      | .stall a => .stall a .read
      | .trap c a x =>
        .trap { trap c a x with estat := remoteEstat n va } (if untrustedRead j c x then s.updJob n (·.ws f.d.toNat 0) else s)

/-- `st` retires when its home has accepted it; the model performs the write then (log entry 4), once no earlier access of its class,
which a `.rel` releases, is left to perform (R271, R274). -/
def execSt (f : SM) (s : State) : Result :=
  runWord (.st f) f.g (smRegs f) [] s fun n sel j =>
    let va := smAddress f j
    let size := intWidth f.ty.toNat / 8
    let bs := leBytes size (j.rs f.d.toNat).toNat
    match addressTrap .write va size with
    | some t => .trap t s
    | none => if s.behind n sel f.cls.toNat none then .wait else
      match s.jobStore j va bs with
      | .ok s1 => .done (s1.updJob n (·.observe va bs)) 0
      | .stall a => .stall a .write
      | .trap c a x => .trap (trap c a x) s

/-- `prf` fills the translation of its own die's page and brings the line of an HBM or host-tier page into its slice; it
never traps on the address and never stalls (R235). -/
def State.prefetch (s : State) (n : Nat) (j : Job) (va : Nat) : State :=
  if va ≥ 2 ^ 52 then s
  else
    let s1 := if bits va 51 49 = n / 16 then s.fill n j.ctx j.wid va else s
    match s.reach n j.ctx j.wid j.conf .read va with
    | .at pa => if isVault pa then s1 else s1.fillLine pa j.ctx
    | _ => s1

def execPrf (f : SM) (s : State) : Result :=
  runWord (.prf f) f.g (smRegs f) [] s fun n _ j => .done (s.prefetch n j (smAddress f j)) 0

/-- The line of `pa` leaves its slice, unless an atomic or a routine holds it (R236). -/
def State.releaseLine (s : State) (pa : Nat) : State :=
  if (s.slice (paDie pa) (sliceOf (pa / 64))).holds (pa / 64) then s else s.dropLine pa

/-- `clean` writes the line back; with `.inv` the line then leaves the slice, once no hold keeps it (R236). It waits for a line that is
held (R285) and for the earlier accesses of its class (R271, R287). -/
def execClean (f : SM) (s : State) : Result :=
  runWord (.clean f) f.g (smRegs f) [] s fun n sel j =>
    let va := smAddress f j
    let inv := f.nr = 1
    match s.span n j.ctx j.wid j.conf .read va 1 with
    | .at ((pa, _) :: _) =>
      if (s.slice (paDie pa) (sliceOf (pa / 64))).holds (pa / 64) || s.behind n sel f.cls.toNat none then .wait
      else .done (if inv then (s.cleanLine pa).releaseLine pa else s.cleanLine pa) 0
    | .at [] => .done s 0
    | .register _ => .done s 0
    | .stall a => .stall a .read
    | .trap c a x => .trap (trap c a x) s

/-- `fence` (R277): an earlier access has performed in the step that accepted it (log entry 4), but for an admitted no-return request,
which is a read and a write and has to run first. A mask of zero traps with cause 0x03. -/
def execFence (f : SX) (s : State) : Result :=
  runWord (.fence f) f.g [] [] s fun n sel _ =>
    if f.imm.toNat % 2 ^ 16 = 0 then .trap (wordTrap 0x03 0 (.fence f)) s
    else if s.unfenced n sel (f.imm.toNat % 2 ^ 16) then .wait
    else .done s 0

/-! Events -/

/-- A TLB fill completes for an access of a core's job. Input: `core`, `va`. -/
def execTranslationFill (s : State) : Result :=
  runEvent s fun x =>
    match s.job? x.core with
    | some j => if x.va < 2 ^ 52 then
        (if bits x.va 51 49 = x.core / 16 then s.fill x.core j.ctx j.wid x.va else s.fillMemory j.ctx j.wid x.va)
      else s
    | none => s

/-- A core acknowledges the oldest round that waits for it. Input: `core`. -/
def execInvalidationAck (s : State) : Result :=
  runEvent s fun x =>
    let d := x.core / 16
    let c := x.core % 16
    let mine := (s.die d).work.filterMap fun w => match w with
      | .round a v z p e => if p.contains c || p.isEmpty then some (a, v, z, p, e) else none
      | _ => none
    match mine with
    | (a, v, z, p, e) :: _ => s.ackRound d c a v z e p
    | [] => s

/-- A stalled access waits for a page in ARRIVING, and has for the arrival bound (R264). -/
def State.arrivalOver (s : State) (n : Nat) (j : Job) (y : Stall) : Bool :=
  match s.leafOf n j.ctx y.va with
  | none => false
  | some l => ownState (s.ownerAt (l.pa + y.va % 2 ^ l.size)) = ownArriving && s.cycle (n / 16) ≥ y.since + s.hub.arrivalBound

/-- The word a stream stands at, where it has been fetched. -/
def Job.atWord (j : Job) (sel : Sel) : Option Instr :=
  match (j.stream sel).fetched with
  | some w => (decode sel.engine w.toNat).toOption
  | none => none

/-- The S stream holds for the reply of an `hcall`: the stall kept for it is that of the report the call writes (R426). -/
def Job.awaitsReply (j : Job) : Bool :=
  match j.swait with
  | .hcall _ _ _ _ => true
  | _ => false

/-- The stream stands at an `hcall`: what it waits for is its record in the trap area (R195). -/
def Job.atHcall (j : Job) (sel : Sel) : Bool :=
  match j.atWord sel with
  | some (.hcall _) => sel.engine = .s && j.swait = .none
  | _ => false

/-- The record of an `hcall` cannot be written (R188): NEST, and the micro-context is faulted with cause 0x16. -/
def State.hcallFails (s : State) (n : Nat) (j : Job) : State := (s.setJob n { j with nest := true }).faultCtx j.ctx 0x16

/-- ESTAT of a trap of the word an S stream stands at (R185): an `ld`, an atomic or `lathe` that had been sent to a remote home. -/
def Job.sentRemote (j : Job) (sel : Sel) (n va : Nat) : Nat :=
  match j.atWord sel with
  | some (.ld _) => if sel.engine = .s then remoteEstat n va else 0
  | some i => if sel.engine = .s && (sliceFields i).isSome then remoteEstat n va else 0
  | none => 0

/-- An access that has stalled on an ARRIVING page for the arrival bound traps with cause 0x0A (R264); the record of an `hcall` ends it as
R188 lays down. Input: `core`, `sel`. -/
def execArrivalBoundExpiry (s : State) : Result :=
  runEvent s fun x =>
    match s.job? x.core with
    | none => s
    | some j =>
      match j.stalls.get x.sel.engine with
      | none => s
      | some y =>
        match s.leafOf x.core j.ctx y.va with
        | none => s
        | some l =>
          if !s.arrivalOver x.core j y || j.areaPending || (x.sel.engine = .s && j.awaitsReply) then s
          else if j.atHcall x.sel then (s.hcallFails x.core j).unstalled x.core .s
          else
            let t := { trap 0x0A y.va (ownSeg (s.ownerAt (l.pa + y.va % 2 ^ l.size))) with estat := j.sentRemote x.sel x.core y.va }
            (s.engineTrap x.core x.sel y.kind t).unstalled x.core x.sel.engine

end Sys2Proof.Machine
end

