-- ==== Sys2Proof/Machine/Atomic.lean ====
section
/-!
DEFINITION. Atomics and `lathe` (R288 to R295, R306, R307): the request a core sends, its admission, the fill of the held
line, the run of a built-in atomic and the reply.
-/
namespace Sys2Proof.Machine

/-- The virtual address of an atomic or `lathe` (R293, R307): base and displacement. -/
def atomicAddress (f : SM) (j : Job) : Nat := (j.rs f.a.toNat + f.disp.signExtend 64).toNat

/-- A write that a register page refuses, or answers, traps with cause 0x08 (R295). -/
def State.atomicCause (s : State) (n : Nat) (j : Job) (cause addr aux : Nat) : Nat :=
  match s.leafOf n j.ctx addr with
  | some l =>
    let pa := l.pa + addr % 2 ^ l.size
    if cause = 0x09 && bit aux 2 && s.worldMay pa (s.ownerAt pa) j.wid then 0x08 else cause
  | none => cause

/-- Send a request to the slice of its line (R288): the word waits there. -/
def State.sendRequest (s : State) (n : Nat) (sel : Sel) (j : Job) (i : Instr) (f : SM) (va pa : Nat) : State :=
  let r : SliceRequest :=
    { core := n, handler := sel.isHandler, instr := i, va := va, pa := pa,
      ctx := j.ctx, wid := j.wid, args := [j.rs f.b.toNat, j.rs f.c.toNat, j.rs f.e.toNat, j.rs f.f.toNat],
      entry := Sparse.get 0 j.rmap f.rout.toNat, code := none }
  let d := paDie pa
  let k := sliceOf (pa / 64)
  (s.updSlice d k fun x => { x with input := x.input ++ [r] }).setJob n
    (({ j with swait := .slice d k }.setPendS f.d.toNat true).count 0x0B 1)

/-- Issue an atomic or `lathe` whose operand has `size` bytes: the checks of a write, then the request (R293, R307), once no earlier
access of its class is left to perform on another line (R271). -/
def runAtomic (i : Instr) (f : SM) (size : Nat) (s : State) : Result :=
  runWord i f.g (smRegs f) [] s fun n sel j =>
    let va := atomicAddress f j
    match addressTrap .write va size with
    | some t => .trap t s
    | none =>
      let sent (t : Trap) : Trap := { t with estat := remoteEstat n va }
      match s.span n j.ctx j.wid j.conf .write va size with
      | .stall a => .stall a .write
      | .trap c a x => .trap (sent (trap (s.atomicCause n j c a x) a x)) s
      | .register ps => .trap (sent (trap 0x08 va (accessAux .write true (ownState (s.ownerAt (registerPa ps)))))) s
      | .at ((pa, _) :: _) =>
        if s.behind n sel f.cls.toNat (some (pa / 64)) then .wait else .stay ((s.sendRequest n sel j i f va pa).unstalled n .s)
      | .at [] => .wait

def execAtadd (f : SM) (s : State) : Result := runAtomic (.atadd f) f (intWidth f.ty.toNat / 8) s
def execAtand (f : SM) (s : State) : Result := runAtomic (.atand f) f (intWidth f.ty.toNat / 8) s
def execAtor (f : SM) (s : State) : Result := runAtomic (.ator f) f (intWidth f.ty.toNat / 8) s
def execAtxor (f : SM) (s : State) : Result := runAtomic (.atxor f) f (intWidth f.ty.toNat / 8) s
def execAtmin (f : SM) (s : State) : Result := runAtomic (.atmin f) f (intWidth f.ty.toNat / 8) s
def execAtmax (f : SM) (s : State) : Result := runAtomic (.atmax f) f (intWidth f.ty.toNat / 8) s
def execAtswp (f : SM) (s : State) : Result := runAtomic (.atswp f) f (intWidth f.ty.toNat / 8) s
def execAtcas (f : SM) (s : State) : Result := runAtomic (.atcas f) f (intWidth f.ty.toNat / 8) s
/-- `atfadd.bf16` acts on 2 bytes (R294). -/
def execAtfadd (f : SM) (s : State) : Result := runAtomic (.atfadd f) f (if f.ty.toNat = 0x0E then 2 else 4) s
def execAtfmax (f : SM) (s : State) : Result := runAtomic (.atfmax f) f 4 s
def execAtfmin (f : SM) (s : State) : Result := runAtomic (.atfmin f) f 4 s
def execLathe (f : SM) (s : State) : Result := runAtomic (.lathe f) f 64 s

/-! At the slice -/

/-- The stream of the word that sent a request. -/
def SliceRequest.sel (r : SliceRequest) : Sel := if r.handler then .hs else .s

/-- The core still waits for a request at this slice. -/
def State.waitsAt (s : State) (d i : Nat) (r : SliceRequest) : Option Job :=
  match s.job? r.core with
  | some j => if j.swait = .slice d i then some j else none
  | none => none

/-- The word retires: `s[D]` takes the value, where the form returns one (R293, R307). -/
def State.reply (s : State) (d i : Nat) (r : SliceRequest) (v : Option Word) : State :=
  match s.waitsAt d i r with
  | none => s
  | some j =>
    let j1 := j.leaveSlice (atomicDest r.instr)
    let j2 := match v with
      | some w => j1.ws (atomicDest r.instr) w
      | none => j1
    (s.setJob r.core (j2.advance r.sel 0)).deliverHeld r.core

/-- The word traps; `s[D]` is not written. -/
def State.replyTrap (s : State) (d i : Nat) (r : SliceRequest) (t : Trap) : State :=
  match s.waitsAt d i r with
  | none => s
  | some j => ((s.setJob r.core (j.leaveSlice (atomicDest r.instr))).takeTrap r.core r.sel t).deliverHeld r.core

/-- The code of a `lathe` request at its admission: the slot's, where the entry is good (R303, R307). -/
def State.admittedCode (s : State) (r : SliceRequest) : Option (List (BitVec 32)) :=
  let e := r.entry.toNat
  let slot := Sparse.get .idle s.routines (bits e 15 8)
  if bit e 63 && bit e 62 && bits e 31 16 = slot.gen then some slot.code else none

/-- The oldest waiting request of a slice is admitted, where its line has a queue with a place or a queue is free; a `.nr` form
retires (R288, R293). A slice in reset admits, fills and runs nothing (R428). Input: `die`, `slice`. -/
def execSliceAdmission (s : State) : Result :=
  runEvent s fun x =>
    let y := s.slice x.die x.slice
    match y.input with
    | [] => s
    | r :: rest =>
      let r1 := { r with code := s.admittedCode r }
      let line := r.pa / 64
      let q := y.queues.find? (·.line = line)
      let room := match q with
        | some q => q.reqs.length < 8
        | none => y.queues.length < 8
      if !room || s.down 0x02 (32 * x.die + x.slice) then s
      else
        let queues := match q with
          | some _ => y.queues.map fun q => if q.line = line then { q with reqs := q.reqs ++ [r1] } else q
          | none => y.queues ++ [⟨line, false, [r1]⟩]
        let s1 := s.setSlice x.die x.slice { y with input := rest, queues := queues }
        if r.nr then s1.reply x.die x.slice r none else s1

/-- The held line is in the slice, for the micro-context whose request came first (R217, R288, R289); one that is resident becomes the
most recently used (R218). Input: `die`, `slice`, `line`. -/
def execSliceLineFill (s : State) : Result :=
  runEvent s fun x =>
    let y := s.slice x.die x.slice
    match y.queues.find? (fun q => q.line = x.line && !q.filled) with
    | some ⟨_, _, r :: _⟩ => if s.down 0x02 (32 * x.die + x.slice) then s else
      (s.fillLine (64 * x.line) r.ctx).updSlice x.die x.slice fun y =>
        { y with queues := y.queues.map fun q => if q.line = x.line then { q with filled := true } else q }
    | _ => s

/-- The head request of a filled queue leaves it; a queue with none left closes (R288). -/
def State.popRequest (s : State) (d i line : Nat) : State :=
  s.updSlice d i fun y =>
    { y with queues := y.queues.flatMap fun q =>
        if q.line = line then (if q.reqs.length ≤ 1 then [] else [{ q with reqs := q.reqs.drop 1 }]) else [q] }

/-- The request that runs next on a line: the head of its queue once the line is filled. -/
def Slice.headRequest (y : Slice) (line : Nat) : Option SliceRequest :=
  match y.queues.find? (fun q => q.line = line && q.filled) with
  | some q => q.reqs.head?
  | none => none

/-- Write bytes within a held line. -/
def State.commitBytes (s : State) (pa : Nat) (bs : List Byte) : State :=
  ((s.leaveEngine [(pa, bs.length)]).dirtyLine pa).writePa pa bs

/-- The float sum of R294: RNE, canonical NaN, no flag. -/
def sliceAddF (bf : Bool) (a b : Nat) : Nat :=
  let F := if bf then Fmt.bf16 else Fmt.f32
  (addVal F .rne false 0 (F.decode a) (F.decode b)).1

/-- The float maximum or minimum of R294. -/
def sliceMinMaxF (wantMax : Bool) (a b : Nat) : Nat := (minMaxVal .f32 wantMax a b).1

/-- The new value of a built-in atomic, from the old one and its operands (R292); none where `atcas` fails. -/
def atomicNew (i : Instr) (t old b c : Nat) : Option Nat :=
  let w := intWidth t
  let less : Bool := if isI t then toSigned w old < toSigned w b else old < b
  match i with
  | .atadd _ => some ((old + b) % 2 ^ w)
  | .atand _ => some (old &&& b)
  | .ator _ => some (old ||| b)
  | .atxor _ => some (old ^^^ b)
  | .atmin _ => some (if less then old else b)
  | .atmax _ => some (if less then b else old)
  | .atswp _ => some b
  | .atcas _ => if old = c then some b else none
  | .atfadd _ => some (sliceAddF (t = 0x0E) old b)
  | .atfmax _ => some (sliceMinMaxF true old b)
  | .atfmin _ => some (sliceMinMaxF false old b)
  | _ => none

/-- Bytes of a built-in atomic's operand. -/
def atomicSize (t : Nat) : Nat := if t = 0x0E then 2 else if t = 0x0D then 4 else intWidth t / 8

/-- The old value in `s[D]`: extended under `.i`, raw otherwise (R293). -/
def atomicOld (t old : Nat) : Word := if isI t then sext64 (intWidth t) old else BitVec.ofNat 64 old

/-- Run a built-in atomic whole: read, commit, reply (R293). -/
def State.runBuiltin (s : State) (d i : Nat) (r : SliceRequest) (f : SM) : State :=
  let t := f.ty.toNat
  let n := atomicSize t
  let old := s.natPa r.pa n
  let b := (r.args.getD 0 0).toNat % 2 ^ (8 * n)
  let c := (r.args.getD 1 0).toNat % 2 ^ (8 * n)
  let s1 := match atomicNew r.instr t old b c with
    | some v => s.commitBytes r.pa (leBytes n v)
    | none => s.leaveEngine [(r.pa, n)]
  let s2 := s1.popRequest d i (r.pa / 64)
  if r.nr then s2 else s2.reply d i r (some (atomicOld t old))

/-- The slice runs the built-in atomic at the head of a line's queue. Input: `die`, `slice`, `line`. -/
def execBuiltinAtomicRun (s : State) : Result :=
  runEvent s fun x =>
    match (s.slice x.die x.slice).headRequest x.line with
    | none => s
    | some r => if s.down 0x02 (32 * x.die + x.slice) then s else
      match r.instr, sliceFields r.instr with
      | .lathe _, _ => s
      | _, some f => s.runBuiltin x.die x.slice r f
      | _, none => s

end Sys2Proof.Machine
end

