-- ==== Sys2Proof/Machine/Lanes.lean ====
section
/-!
DEFINITION. What the V instructions compute on the lanes of a 4,096-bit pattern (R112, R119 to R140): pure functions from
source patterns to a result pattern and the flags raised.
-/
namespace Sys2Proof

/-- Element width of a type code (R53); the MX types count their elements. -/
def tyWidth (t : Nat) : Nat :=
  match t with
  | 0 => 8 | 1 => 16 | 2 => 32 | 3 => 64 | 4 => 8 | 5 => 16 | 6 => 32 | 7 => 64 | 8 => 8 | 9 => 16 | 10 => 32 | 11 => 64
  | 12 => 64 | 13 => 32 | 14 => 16 | 15 => 16 | 16 => 8 | 17 => 8 | 18 => 6 | 19 => 6 | 20 => 4 | 21 => 8 | 22 => 6
  | 23 => 4 | _ => 8

/-- The float format of a type code; for an MX type, of its elements (R71). -/
def tyFmt (t : Nat) : Option Fmt :=
  match t with
  | 12 => some .f64 | 13 => some .f32 | 14 => some .bf16 | 15 => some .f16 | 16 => some .e4m3 | 17 => some .e5m2
  | 18 => some .e3m2 | 19 => some .e2m3 | 20 => some .e2m1 | 21 => some .e4m3 | 22 => some .e3m2 | 23 => some .e2m1
  | _ => none

def tySignedInt (t : Nat) : Bool := t < 4
def tyIsInt (t : Nat) : Bool := t < 12

/-- An element's integer value: signed under `.i` types, unsigned under the others. -/
def intOf (t x : Nat) : Int := if tySignedInt t then toSigned (tyWidth t) x else ((x % 2 ^ tyWidth t : Nat) : Int)

/-- Lanes per register: N of R112. -/
def laneCount (t : Nat) : Nat := 4096 / tyWidth t

/-- Element `e` of width `w`. -/
def lane (w v e : Nat) : Nat := (v >>> (w * e)) % 2 ^ w

def lanes (w n v : Nat) : List Nat := (List.range n).map (lane w v)

def packLanes (w : Nat) (xs : List Nat) : Nat := packBits (xs.map (fun x => (w, x)))

/-- The same value in every lane. -/
def broadcast (w n x : Nat) : Nat := packLanes w (List.replicate n x)

/-- A conversion between any two element types (R72 to R74). -/
def convertElem (st dt : Nat) (m : Rnd) (sat : Bool) (draw x : Nat) : Rounded :=
  if st = dt then (x % 2 ^ tyWidth dt, 0)
  else
    match tyFmt st, tyFmt dt with
    | some S, some D => cvtFF S D m sat draw x
    | some S, none => cvtFI S (tyWidth dt) (tySignedInt dt) m sat draw x
    | none, some D => cvtIF D m sat draw (intOf st x)
    | none, none => (cvtII (tyWidth dt) (tySignedInt dt) sat (intOf st x), 0)

/-- The value an operand code 49 gives each element: CTL sign-extended, then narrowed to the type (R119). -/
def ctlElem (t ctl : Nat) : Nat :=
  match tyFmt t with
  | some F => (roundExact F .rne false 0 (exactInt (toSigned 28 ctl))).1
  | none => wrapTo (tyWidth t) (toSigned 28 ctl)

/-- Merge results under a mask: `f e` is the result of an enabled lane; a masked-off lane keeps the old element, or is
zero where the destination is a bobbin (R120). -/
def mapLanes (w n mask old : Nat) (isReg : Bool) (f : Nat → Rounded) : Nat × Nat :=
  let rs := (List.range n).map fun e =>
    if mask.testBit e then f e else (if isReg then lane w old e else 0, 0)
  (packLanes w (rs.map Prod.fst), rs.foldl (fun a r => a ||| r.2) 0)

/-- An integer result: reduced modulo 2^w, or clamped (R126). -/
def laneInt (t : Nat) (sat : Bool) (x : Int) : Rounded :=
  (wrapTo (tyWidth t) (if sat then clampInt (tyWidth t) (tySignedInt t) x else x), 0)

/-- The inputs of one element. -/
structure Elem where
  t    : Nat
  m    : Rnd
  sat  : Bool
  draw : Nat
  e    : Nat
  a    : Nat
  b    : Nat
  c    : Nat
deriving DecidableEq, Repr

namespace Elem
def ia (x : Elem) : Int := intOf x.t x.a
def ib (x : Elem) : Int := intOf x.t x.b
def w (x : Elem) : Nat := tyWidth x.t

/-- A float result, or the integer one where the type is an integer type. -/
def floatOr (x : Elem) (i : Rounded) (f : Fmt → FVal → FVal → FVal → Rounded) : Rounded :=
  match tyFmt x.t with
  | some F => f F (F.decode x.a) (F.decode x.b) (F.decode x.c)
  | none => i

def add (x : Elem) : Rounded := x.floatOr (laneInt x.t x.sat (x.ia + x.ib)) fun F a b _ => addVal F x.m x.sat x.draw a b
def sub (x : Elem) : Rounded :=
  x.floatOr (laneInt x.t x.sat (x.ia - x.ib)) fun F a b _ => addVal F x.m x.sat x.draw a b.negate
def mul (x : Elem) : Rounded := x.floatOr (laneInt x.t x.sat (x.ia * x.ib)) fun F a b _ => mulVal F x.m x.sat x.draw a b
def fma (x : Elem) : Rounded := x.floatOr (0, 0) fun F a b c => fmaVal F x.m x.sat x.draw a b c
def fms (x : Elem) : Rounded := x.floatOr (0, 0) fun F a b c => fmaVal F x.m x.sat x.draw a b c.negate
def fnma (x : Elem) : Rounded := x.floatOr (0, 0) fun F a b c => fmaVal F x.m x.sat x.draw a.negate b c
def divide (x : Elem) : Rounded := x.floatOr (0, 0) fun F a b _ => divVal F x.m x.sat x.draw a b
def fn1 (fn : Fn1) (x : Elem) : Rounded := x.floatOr (0, 0) fun F a _ _ => fn1Val F x.m x.sat x.draw fn a
def minMax (wantMax : Bool) (x : Elem) : Rounded :=
  match tyFmt x.t with
  | some F => minMaxVal F wantMax x.a x.b
  | none => laneInt x.t false (if wantMax then max x.ia x.ib else min x.ia x.ib)
def absolute (x : Elem) : Rounded :=
  match tyFmt x.t with
  | some F => (x.a % F.signBit, 0)
  | none => laneInt x.t x.sat (x.ia.natAbs : Int)
def negate (x : Elem) : Rounded :=
  match tyFmt x.t with
  | some F => (x.a ^^^ F.signBit, 0)
  | none => laneInt x.t x.sat (-x.ia)
def and (x : Elem) : Rounded := (x.a &&& x.b, 0)
def or (x : Elem) : Rounded := (x.a ||| x.b, 0)
def xor (x : Elem) : Rounded := (x.a ^^^ x.b, 0)
def not (x : Elem) : Rounded := (2 ^ x.w - 1 - x.a, 0)
def shl (x : Elem) : Rounded := (if x.b ≥ x.w then 0 else x.a * 2 ^ x.b % 2 ^ x.w, 0)
def shr (x : Elem) : Rounded := laneInt x.t false (x.ia / ((2 ^ min x.b x.w : Nat) : Int))
def mulh (x : Elem) : Rounded := laneInt x.t false (x.ia * x.ib / ((2 ^ x.w : Nat) : Int))
def clz (x : Elem) : Rounded := (if x.a = 0 then x.w else x.w - 1 - Nat.log2 x.a, 0)
def popc (x : Elem) : Rounded := (((List.range x.w).filter x.a.testBit).length, 0)
def mov (x : Elem) : Rounded := (x.a, 0)
def iota (x : Elem) : Rounded := laneInt x.t false (x.ia + x.e)
def classify (x : Elem) : Rounded := x.floatOr (0, 0) fun F _ _ _ => (2 ^ classOf F x.a, 0)
end Elem

/-- The comparisons of R128. -/
inductive VCmp where
  | eq | ne | lt | le | un
deriving DecidableEq, Repr

/-- One comparison: its bit and its flags. -/
def cmpElem (k : VCmp) (x : Elem) : Bool × Nat :=
  match tyFmt x.t with
  | some F =>
    let a := F.decode x.a
    let b := F.decode x.b
    let nan := a.isNan || b.isNan
    let inv := match k with
      | .lt => nan
      | .le => nan
      | _ => a.isSnan || b.isSnan
    let c := cmpVal a b
    let r := match k with
      | .eq => !nan && c = 0
      | .ne => nan || c ≠ 0
      | .lt => !nan && c < 0
      | .le => !nan && c ≤ 0
      | .un => nan
    (r, if inv then flInvalid else 0)
  | none =>
    (match k with
      | .eq => x.ia = x.ib
      | .ne => x.ia ≠ x.ib
      | .lt => x.ia < x.ib
      | .le => x.ia ≤ x.ib
      | .un => false, 0)

/-- The lanes of a mask whose bit satisfies `f`. -/
def maskOf (n : Nat) (f : Nat → Bool) : Nat := packLanes 1 ((List.range n).map fun e => b2n (f e))

/-- An element as the result of an engine: the bits of a NaN source do not pass on, and a signalling one is invalid (R69). -/
def asResult (t x : Nat) : Rounded :=
  match tyFmt t with
  | some F => if (F.decode x).isNan then nanOut F (F.decode x).isSnan else (x, 0)
  | none => (x, 0)

/-! ### Trees and scans (R83, R84) -/

/-- One level of the pairwise tree, with the flags its nodes raise. -/
def treeLevel (op : Nat → Nat → Rounded) : List Nat → List Nat × Nat
  | a :: b :: r =>
    let x := op a b
    let y := treeLevel op r
    (x.1 :: y.1, x.2 ||| y.2)
  | xs => (xs, 0)

/-- Every level of the tree from the elements up, and the flags raised. -/
def treeLevels (op : Nat → Nat → Rounded) : Nat → List Nat → List (List Nat) × Nat
  | 0, xs => ([xs], 0)
  | n + 1, xs =>
    let l := treeLevel op xs
    let r := treeLevels op n l.1
    (xs :: r.1, l.2 ||| r.2)

/-- The root of the tree over 2^k elements. -/
def treeReduce (op : Nat → Nat → Rounded) (k : Nat) (xs : List Nat) : Rounded :=
  let r := treeLevels op k xs
  ((r.1.getLastD []).headD 0, r.2)

/-- Combine the nodes of R84 for the first `j` elements: bit `h` of `j` from the top down, starting at element `i`. -/
def scanElem (op : Nat → Nat → Rounded) (lv : List (List Nat)) (j : Nat) : Nat → Nat → Option Nat → Nat → Rounded
  | 0, _, acc, fl => (acc.getD 0, fl)
  | h + 1, i, acc, fl =>
    if j.testBit h then
      let node := (lv.getD h []).getD (i / 2 ^ h) 0
      match acc with
      | none => scanElem op lv j h (i + 2 ^ h) (some node) fl
      | some a => let r := op a node; scanElem op lv j h (i + 2 ^ h) (some r.1) (fl ||| r.2)
    else scanElem op lv j h i acc fl

/-- The inclusive or exclusive scan of 2^k elements of type `t`. DESIGN CHOICE (log entry 98): a flag counts from every combination
the scan makes, those for masked-off lanes and for the sum an exclusive scan drops among them. -/
def scanAll (t : Nat) (op : Nat → Nat → Rounded) (k : Nat) (ex : Bool) (ident : Nat) (xs : List Nat) : List Nat × Nat :=
  let tree := treeLevels op k xs
  let rs := (List.range xs.length).map fun j => scanElem op tree.1 (j + 1) (k + 1) 0 none 0
  let vals := rs.map fun r => (asResult t r.1).1
  (if ex then ident :: vals.dropLast else vals, rs.foldl (fun a r => a ||| r.2) tree.2)

/-- Identity of a sum: −0 for floats, 0 for integers (R83). -/
def sumIdent (t : Nat) : Nat :=
  match tyFmt t with
  | some F => F.signBit
  | none => 0

/-- Identity of max or min (R83). -/
def minMaxIdent (t : Nat) (wantMax : Bool) : Nat :=
  match tyFmt t with
  | some F => F.withSign wantMax F.infMag
  | none => wrapTo (tyWidth t) (if wantMax then intMin (tyWidth t) (tySignedInt t) else intMax (tyWidth t) (tySignedInt t))

/-- Accumulation type of `vredsum` (R135). -/
def sumType (t : Nat) : Nat :=
  match tyFmt t with
  | some _ => 13
  | none => if tySignedInt t then 2 else 6

/-- `vredsum` (R135): element 0 of the 32-bit view, and the flags. -/
def redSum (t : Nat) (m : Rnd) (sat : Bool) (mask v : Nat) : Rounded :=
  let n := laneCount t
  let acc := sumType t
  let cs := (List.range n).map fun e =>
    if mask.testBit e then convertElem t acc .rne false 0 (lane (tyWidth t) v e) else (sumIdent acc, 0)
  let op (a b : Nat) : Rounded := Elem.add ⟨acc, m, sat, 0, 0, a, b, 0⟩
  let r := treeReduce op (Nat.log2 n) (cs.map Prod.fst)
  (r.1, cs.foldl (fun a c => a ||| c.2) r.2)

/-- The elements of a register with the identity in masked-off lanes. -/
def maskedLanes (t mask ident v : Nat) : List Nat :=
  (List.range (laneCount t)).map fun e => if mask.testBit e then lane (tyWidth t) v e else ident

/-- `vredmax` and `vredmin` (R135). -/
def redMinMax (t : Nat) (wantMax : Bool) (mask v : Nat) : Rounded :=
  let op (a b : Nat) : Rounded := Elem.minMax wantMax ⟨t, .rne, false, 0, 0, a, b, 0⟩
  treeReduce op (Nat.log2 (laneCount t)) (maskedLanes t mask (minMaxIdent t wantMax) v)

/-- `vscan` (R136): the scan's elements. -/
def scanSum (t : Nat) (m : Rnd) (sat ex : Bool) (mask v : Nat) : List Nat × Nat :=
  let op (a b : Nat) : Rounded := Elem.add ⟨t, m, sat, 0, 0, a, b, 0⟩
  scanAll t op (Nat.log2 (laneCount t)) ex (sumIdent t) (maskedLanes t mask (sumIdent t) v)

/-- `vscanmax` (R136). -/
def scanMax (t : Nat) (ex : Bool) (mask v : Nat) : List Nat × Nat :=
  let op (a b : Nat) : Rounded := Elem.minMax true ⟨t, .rne, false, 0, 0, a, b, 0⟩
  scanAll t op (Nat.log2 (laneCount t)) ex (minMaxIdent t true) (maskedLanes t mask (minMaxIdent t true) v)

/-! ### Ranking (R137, R138) -/

/-- Order of R137: −0 below +0, every NaN above +∞ and equal to the others. -/
def rankCmp (t a b : Nat) : Int :=
  match tyFmt t with
  | some F =>
    let x := F.decode a
    let y := F.decode b
    if x.isNan && y.isNan then 0
    else if x.isNan then 1
    else if y.isNan then -1
    else
      let c := cmpVal x y
      if c ≠ 0 then c
      else if x.isZero && y.isZero then (if x.isNeg = y.isNeg then 0 else if x.isNeg then -1 else 1)
      else 0
  | none => intOf t a - intOf t b

/-- Insert a (value, lane) pair behind every pair that does not rank after it. -/
def insertRank (t : Nat) (asc : Bool) (p : Nat × Nat) : List (Nat × Nat) → List (Nat × Nat)
  | [] => [p]
  | q :: r =>
    let c := rankCmp t p.1 q.1
    if (if asc then c < 0 else c > 0) then p :: q :: r else q :: insertRank t asc p r

/-- The enabled elements with their lanes, ranked; equal values by ascending lane. -/
def ranked (t : Nat) (asc : Bool) (mask v : Nat) : List (Nat × Nat) :=
  ((List.range (laneCount t)).filter mask.testBit).foldl
    (fun acc e => insertRank t asc (lane (tyWidth t) v e, e) acc) []

/-- Width of the index view of `vtopk`. -/
def topkIndexWidth (t : Nat) : Nat := if tyWidth t ≤ 16 then 16 else 32

/-- `vtopk` (R137): the value and the index registers. -/
def topk (t : Nat) (asc : Bool) (cnt mask v : Nat) : Nat × Nat :=
  let w := tyWidth t
  let iw := topkIndexWidth t
  let top := (ranked t asc mask v).take cnt
  (packLanes w (top.map Prod.fst),
   packLanes iw ((top.map Prod.snd) ++ List.replicate (4096 / iw - top.length) (2 ^ iw - 1)))

/-- `vargmax` (R138). -/
def argmax (t : Nat) (wantMin : Bool) (mask v : Nat) : Nat :=
  match ranked t wantMin mask v with
  | [] => 2 ^ 64 - 1
  | p :: _ => p.2

/-! ### Conversion (R131 to R133) -/

/-- Width that counts for lanes: a sub-byte width counts as 8. -/
def tyWidth8 (t : Nat) : Nat := max 8 (tyWidth t)

/-- Replace elements of width `w` of a register by `(index, value)` pairs. -/
def putLanes (w : Nat) (v : Nat) (ps : List (Nat × Nat)) : Nat :=
  ps.foldl (fun acc p => acc - (lane w acc p.1) * 2 ^ (w * p.1) + (p.2 % 2 ^ w) * 2 ^ (w * p.1)) v

/-- Bytes 384 upward of an FP6 register are zero on writing (R70). -/
def trimSix (t v : Nat) : Nat := if tyWidth t = 6 then v % 2 ^ 3072 else v

/-- Parts of a conversion: q of R131. -/
def cvtRatio (st dt : Nat) : Nat :=
  max (tyWidth8 st) (tyWidth8 dt) / min (tyWidth8 st) (tyWidth8 dt)

def cvtLanes (st dt : Nat) : Nat := 4096 / max (tyWidth8 st) (tyWidth8 dt)

/-- `vcvt` (R131): the destination register and the flags. DESIGN CHOICE (log entry 99): elements 512 to 1,023 of a destination of
four-bit elements, which an equal-width conversion has no source for, stay in a register and are zero in a bobbin. -/
def cvtAll (st dt : Nat) (m : Rnd) (sat : Bool) (part mask old : Nat) (isReg : Bool) (draw : Nat → Nat) (v : Nat) :
    Nat × Nat :=
  let n := cvtLanes st dt
  let widening := tyWidth8 dt > tyWidth8 st
  let narrowing := tyWidth8 dt < tyWidth8 st
  let srcAt (e : Nat) : Nat := if widening then part * n + e else e
  let dstAt (e : Nat) : Nat := if narrowing then part * n + e else e
  let rs := ((List.range n).filter mask.testBit).map fun e =>
    (dstAt e, convertElem st dt m sat (draw e) (lane (tyWidth st) v (srcAt e)))
  let base := if isReg then old else 0
  (trimSix dt (putLanes (tyWidth dt) base (rs.map fun r => (r.1, r.2.1))), rs.foldl (fun a r => a ||| r.2.2) 0)

def mxEmax (t : Nat) : Nat := if t = 0x15 then 8 else if t = 0x16 then 4 else 2

/-- One block of `vmxq`: the scale byte, the 32 elements and the flags (R132). -/
def mxBlock (st mt : Nat) (m : Rnd) (draw : Nat → Nat) (xs : List Nat) : Nat × List Nat × Nat :=
  match tyFmt st, tyFmt mt with
  | some S, some D =>
    let vs := xs.map S.decode
    let finite := vs.all fun v => match v with
      | .fin _ _ _ => true
      | _ => false
    if !finite then (0xFF, List.replicate 32 0, flInvalid)
    else
      let tops := vs.filterMap fun v => match v with
        | .fin _ mant e => if mant = 0 then none else some ((Nat.log2 mant : Int) + e)
        | _ => none
      let x : Int := match tops with
        | [] => 0
        | h :: r => max 0 (min 254 (r.foldl max h - mxEmax mt + 127))
      let qs := (List.range 32).map fun i =>
        match vs.getD i (.fin false 0 0) with
        | .fin n mant e => roundExact D m true (draw i) (exactOf n mant (e + 127 - x))
        | _ => (0, 0)
      (x.toNat, qs.map Prod.fst, qs.foldl (fun a q => a ||| q.2) 0)
  | _, _ => (0, [], 0)

/-- `vmxq` (R132): the new VD, the new VB and the flags; `same` when VD and VB name one register. -/
def mxQuantise (st mt : Nat) (m : Rnd) (part : Nat) (draw : Nat → Nat) (a oldD oldB : Nat) (same : Bool) :
    Nat × Nat × Nat :=
  let n := laneCount st
  let nb := n / 32
  let w := tyWidth mt
  (List.range nb).foldl (fun (acc : Nat × Nat × Nat) g =>
    let xs := (List.range 32).map fun i => lane (tyWidth st) a (32 * g + i)
    let r := mxBlock st mt m (fun i => draw (32 * g + i)) xs
    let vb := putLanes 8 acc.2.1 [(part * nb + g, r.1)]
    let vd0 := if same then vb else acc.1
    let vd := trimSix mt (putLanes w vd0 (r.2.1.zipIdx.map fun p => (part * n + 32 * g + p.2, p.1)))
    (vd, if same then vd else vb, acc.2.2 ||| r.2.2)) (oldD, oldB, 0)

/-- `vmxd` (R133). -/
def mxDequantise (mt dt : Nat) (m : Rnd) (sat : Bool) (part : Nat) (draw : Nat → Nat) (a b : Nat) : Nat × Nat :=
  match tyFmt mt, tyFmt dt with
  | some S, some D =>
    let n := laneCount dt
    let nb := n / 32
    let rs := (List.range n).map fun e =>
      let x := lane 8 b (part * nb + e / 32)
      if x = 0xFF then nanOut D true
      else
        match S.decode (lane (tyWidth mt) a (part * n + e)) with
        | .nan s => nanOut D s
        | .inf neg => infOut D neg
        | .fin neg mant ex => roundExact D m sat (draw e) (exactOf neg mant (ex + x - 127))
    (packLanes (tyWidth dt) (rs.map Prod.fst), rs.foldl (fun acc r => acc ||| r.2) 0)
  | _, _ => (0, 0)

/-! ### The permute slot (R140) and `vrng` (R139) -/

def permElem (w n a b c e : Nat) : Nat :=
  let i := lane w b e % (2 * n)
  if i < n then lane w a i else lane w c (i - n)

def rotElem (w n a b e : Nat) : Nat := lane w a ((e + lane w b 0) % n)

def zipElem (w n a b h e : Nat) : Nat :=
  let i := e / 2 + (if h = 1 then n / 2 else 0)
  if e % 2 = 0 then lane w a i else lane w b i

def unzipElem (w n a b o e : Nat) : Nat :=
  if e < n / 2 then lane w a (2 * e + o) else lane w b (2 * (e - n / 2) + o)

def trnElem (w a b o e : Nat) : Nat :=
  if e % 2 = 0 then lane w a (2 * (e / 2) + o) else lane w b (2 * (e / 2) + o)

/-- `vcompress`: the enabled elements in lane order from element 0, the rest zero; and their count. -/
def compress (w n mask a : Nat) : Nat × Nat :=
  let es := (List.range n).filter mask.testBit
  (packLanes w (es.map (lane w a)), es.length)

def expandElem (w mask a e : Nat) : Nat := lane w a ((List.range e).filter mask.testBit).length

def revElem (w n a e : Nat) : Nat := lane w a (n - 1 - e)

/-- `vrng`: lane `e` for a key and a 128-bit position; `.f32` as the exact pattern of the 24-bit fraction. -/
def rngElem (t key pos e : Nat) : Nat :=
  let x := philoxWord key ((pos + e / 4) % 2 ^ 128) (e % 4)
  if t = 6 then x else (roundExact .f32 .rne false 0 (exactOf false (x / 2 ^ 8) (-24))).1

end Sys2Proof
end

