-- ==== Sys2Proof/Machine/Grid.lean ====
section
/-!
DEFINITION. Tiles as grids and lines (R146 to R149), accumulator views (R150), and what the M instructions compute on
them (R81, R82, R163 to R173): pure functions on tile and accumulator patterns.
-/
namespace Sys2Proof

/-- Rows H of the grid of element width `w` (R147). -/
def gridRows (w : Nat) : Nat := if w = 64 then 64 else 128

/-- Columns C of the grid of element width `w` (R147). -/
def gridCols (w : Nat) : Nat :=
  match w with
  | 4 => 256
  | 6 => 128
  | 8 => 128
  | 16 => 64
  | _ => 32

/-- Bits from one grid row to the next: one tile row, or two for 64-bit elements (R148). -/
def gridRowBits (w : Nat) : Nat := if w = 64 then 2048 else 1024

/-- First bit of element `(y, x)` in its tile (R148). -/
def gridBit (w y x : Nat) : Nat := gridRowBits w * y + w * x

def gridElem (w tile y x : Nat) : Nat := (tile >>> gridBit w y x) % 2 ^ w

/-- Directions of a tile operand (R56). -/
inductive Dir where
  | row | col | dia | adi
deriving DecidableEq, Repr

def Dir.ofCode : Nat → Dir
  | 0 => .row
  | 1 => .col
  | 2 => .dia
  | _ => .adi

/-- How many lines a direction has (R149). -/
def lineCount (w : Nat) (d : Dir) : Nat := if d = .row then gridRows w else gridCols w

/-- How many elements a line has (R149). -/
def lineLength (w : Nat) (d : Dir) : Nat := if d = .row then gridCols w else gridRows w

/-- Element `e` of line `i` (R149). -/
def linePos (w : Nat) (d : Dir) (i e : Nat) : Nat × Nat :=
  let c := gridCols w
  match d with
  | .row => (i, e)
  | .col => (e, i)
  | .dia => (e, (e + i) % c)
  | .adi => (e, (i + c - e % c) % c)

def lineElem (w tile : Nat) (d : Dir) (i e : Nat) : Nat :=
  let p := linePos w d i e
  gridElem w tile p.1 p.2

/-- A tile whose element `(y, x)` is `f y x`, or its old value where `f` names none; bytes 96 to 127 of the rows of a
6-bit grid become zero (R148). -/
def tileFrom (w old : Nat) (f : Nat → Nat → Option Nat) : Nat :=
  packLanes (gridRowBits w) ((List.range (gridRows w)).map fun y =>
    packLanes w ((List.range (gridCols w)).map fun x => (f y x).getD (gridElem w old y x)))

/-- Lines a vector register holds: L of R143. -/
def linesPerVector (w : Nat) (d : Dir) : Nat := 4096 / (lineLength w d * w)

/-- `tld`: the register filled from line `i` on (R143). -/
def tileLoad (w tile : Nat) (d : Dir) (i : Nat) : Nat :=
  let n := lineLength w d
  packLanes w ((List.range (4096 / w)).map fun e => lineElem w tile d (i + e / n) (e % n))

/-- `tst`: the tile with the enabled elements of the register stored along lines `i` on (R143). -/
def tileStore (w tile : Nat) (d : Dir) (i mask v : Nat) : Nat :=
  let n := lineLength w d
  ((List.range (4096 / w)).filter mask.testBit).foldl (fun t e =>
    let p := linePos w d (i + e / n) (e % n)
    let b := gridBit w p.1 p.2
    t - ((t >>> b) % 2 ^ w) * 2 ^ b + lane w v e * 2 ^ b) tile

/-! ### Accumulators -/

/-- The type code of the accumulator view an element type picks (R150): FP32, FP64 or INT32. -/
def viewType (t : Nat) : Nat := if t = 12 then 12 else if tyIsInt t then 2 else 13

/-- Side of the accumulator grid in a view. -/
def viewSide (v : Nat) : Nat := if v = 12 then 64 else 128

def accElem (v acc i j : Nat) : Nat := lane (tyWidth v) acc (viewSide v * i + j)

/-- An accumulator whose element `(i, j)` is `f i j`, and the flags raised. -/
def accMap (v : Nat) (f : Nat → Nat → Rounded) : Nat × Nat :=
  let a := viewSide v
  let rs := (List.range (a * a)).map fun n => f (n / a) (n % a)
  (packLanes (tyWidth v) (rs.map Prod.fst), rs.foldl (fun x r => x ||| r.2) 0)

/-- One K-group of R81: the accumulator element, the group's pairs of values and the block scales. -/
def groupStep (acc : Nat) (sa sb : Nat) (ps : List (FVal × FVal)) : Rounded :=
  let a := Fmt.f32.decode acc
  let badPair (p : FVal × FVal) : Bool := p.1.isNan || p.2.isNan || match p.1, p.2 with
    | .inf _, .fin _ m _ => m = 0
    | .fin _ m _, .inf _ => m = 0
    | _, _ => false
  let infs : List Bool := ps.filterMap fun p => match p.1, p.2 with
    | .inf x, y => some (x != y.isNeg)
    | x, .inf y => some (x.isNeg != y)
    | _, _ => none
  let infs' : List Bool := match a with
    | .inf n => n :: infs
    | _ => infs
  let bothSigns := infs'.contains true && infs'.contains false
  if sa = 0xFF || sb = 0xFF || ps.any badPair || bothSigns then (Fmt.f32.nan, flInvalid)
  else if a.isNan then nanOut .f32 a.isSnan
  else
    match infs' with
    | n :: _ => infOut .f32 n
    | [] =>
      let e0 : Int := (sa : Int) + sb - 254
      let terms : List (Bool × Nat × Int) := (match a with
        | .fin n m e => [(n, m, e)]
        | _ => []) ++ ps.filterMap fun p => match p.1, p.2 with
          | .fin n1 m1 e1, .fin n2 m2 e2 => some (n1 != n2, m1 * m2, e1 + e2 + e0)
          | _, _ => none
      let emin := terms.foldl (fun x t => min x t.2.2) 0
      let s : Int := terms.foldl (fun x t => x + fint t.1 (t.2.1 * 2 ^ (t.2.2 - emin).toNat)) 0
      let allNegZero := terms.all fun t => t.1 && t.2.1 = 0
      if s = 0 then (if allNegZero then Fmt.f32.signBit else 0, 0)
      else roundExact .f32 .rne false 0 ⟨s < 0, s.natAbs, emin, false⟩

/-- Element width in a K-tile: code 0x08 is INT4 in `mma` (R163). -/
def mmaWidth (t : Nat) : Nat := if t = 8 then 4 else tyWidth t

/-- K-group size G of R81. -/
def kGroup (t : Nat) : Nat := if t = 12 then 1 else if t = 14 || t = 15 then 16 else 32

/-- K limit of one type (R163). -/
def kLimit (t : Nat) : Nat :=
  if t = 12 then 1024 else if t = 14 || t = 15 then 2048 else if mmaWidth t = 4 then 8192 else 4096

/-- An integer operand of `mma`. -/
def mmaInt (t x : Nat) : Int := if t = 8 then toSigned 4 x else intOf t x

/-- The element `(i, j)` after a multiply-accumulate from `acc`: `ea k` and `eb k` are the operand patterns, `sa g` and
`sb g` the block scales (R81, R82). -/
def mmaElem (ta tb k acc : Nat) (ea eb sa sb : Nat → Nat) : Rounded :=
  match tyFmt ta, tyFmt tb with
  | some A, some B =>
    if ta = 12 then
      (List.range k).foldl (fun (r : Rounded) n =>
        let x := fmaVal .f64 .rne false 0 (A.decode (ea n)) (B.decode (eb n)) (Fmt.f64.decode r.1)
        (x.1, r.2 ||| x.2)) (acc, 0)
    else
      let g := kGroup ta
      (List.range (ceilDiv k g)).foldl (fun (r : Rounded) q =>
        let ps := (List.range (min g (k - q * g))).map fun n => (A.decode (ea (q * g + n)), B.decode (eb (q * g + n)))
        let x := groupStep r.1 (sa q) (sb q) ps
        (x.1, r.2 ||| x.2)) (acc, 0)
  | _, _ =>
    let g := kGroup ta
    (List.range (ceilDiv k g)).foldl (fun (r : Rounded) q =>
      let s := (List.range (min g (k - q * g))).foldl
        (fun (z : Int) n => z + mmaInt ta (ea (q * g + n)) * mmaInt tb (eb (q * g + n))) (toSigned 32 r.1)
      let c := clampInt 32 true s
      (wrapTo 32 c, r.2 ||| (if c = s then 0 else flOverflow))) (acc, 0)

/-- The accumulator view of an `mma` type. -/
def mmaView (t : Nat) : Nat := if t = 12 then 12 else if t = 0 || t = 4 || t = 8 then 2 else 13

/-- `mma`: `ea u k` and `eb u k` give A's row and B's column operands, `sa u g` and `sb u g` the scales (R164, R165). -/
def mmaAll (ta tb k acc : Nat) (z : Bool) (ea eb sa sb : Nat → Nat → Nat) : Nat × Nat :=
  let v := mmaView ta
  accMap v fun i j => mmaElem ta tb k (if z then 0 else accElem v acc i j) (ea i) (eb j) (sa i) (sb j)

/-- `mscale` (R168). -/
def scaleAll (t : Nat) (m : Rnd) (sat : Bool) (draw : Nat → Nat) (acc imm : Nat) : Nat × Nat :=
  let v := viewType t
  match tyFmt v with
  | some F => accMap v fun i j =>
      mulVal F m sat (draw (viewSide v * i + j)) (F.decode (accElem v acc i j)) (Fmt.f32.decode imm)
  | none => (acc, 0)

/-- `mbias` (R169): `ln e` is element `e` of the line. -/
def biasAll (t : Nat) (m : Rnd) (sat byRow : Bool) (draw : Nat → Nat) (acc : Nat) (ln : Nat → Nat) : Nat × Nat :=
  let v := viewType t
  accMap v fun i j =>
    let x := ln (if byRow then i else j)
    match tyFmt v, tyFmt t with
    | some F, some S => addVal F m sat (draw (viewSide v * i + j)) (F.decode (accElem v acc i j)) (S.decode x)
    | _, _ =>
      let s := toSigned 32 (accElem v acc i j) + toSigned 32 x
      let c := clampInt 32 true s
      (wrapTo 32 c, if c = s then 0 else flOverflow)

/-- The converted elements of `mst`, row-major, and the flags (R170). -/
def storeElems (t : Nat) (m : Rnd) (sat : Bool) (draw : Nat → Nat) (acc : Nat) : List Nat × Nat :=
  let v := viewType t
  let a := viewSide v
  let rs := (List.range (a * a)).map fun n => convertElem v t m sat (draw n) (lane (tyWidth v) acc n)
  (rs.map Prod.fst, rs.foldl (fun x r => x ||| r.2) 0)

/-- Tiles the tile forms of `mst` and `mld` span (R170). -/
def spanTiles (t : Nat) : Nat := ceilDiv (viewSide (viewType t)) (gridCols (tyWidth t))

/-- Where element `(i, j)` lies in the tile form: its tile counted from TILE, its row and its column (R170). -/
def spanPos (t : Nat) (byRow : Bool) (i j : Nat) : Nat × Nat × Nat :=
  let c := gridCols (tyWidth t)
  if byRow then (j / c, i, j % c) else (i / c, j, i % c)

/-- Tile `q` of the tile form of `mst`, from the converted elements (R170). -/
def storeTile (t : Nat) (byRow : Bool) (es : List Nat) (q old : Nat) : Nat :=
  let w := tyWidth t
  let c := gridCols w
  let a := viewSide (viewType t)
  let arr := es.toArray
  tileFrom w old fun y x =>
    let n := q * c + x
    if y < a && n < a then some (arr.getD (if byRow then a * y + n else a * n + y) 0) else none

/-- The accumulator of `mld` from element patterns (R171). -/
def loadAcc (t : Nat) (src : Nat → Nat → Nat) : Nat × Nat :=
  let v := viewType t
  accMap v fun i j => convertElem t v .rne false 0 (src i j)

/-- `mcopy` (R172): 32-bit or 64-bit elements, transposed or not. -/
def copyAcc (w : Nat) (tr : Bool) (acc : Nat) : Nat :=
  if tr then
    let a := if w = 64 then 64 else 128
    packLanes w ((List.range (a * a)).map fun n => lane w acc (a * (n % a) + n / a))
  else acc

end Sys2Proof
end

