-- ==== Sys2Proof/Machine/Record.lean ====
section
/-!
DEFINITION. The copy engine's records, endpoints and walks (R238 to R244, R256): pure functions.
-/
namespace Sys2Proof.Machine

/-- The `n` bytes at offset `o` of a record, little-endian. -/
def recNat (r : List Byte) (o n : Nat) : Nat := leNat ((r.drop o).take n)
def recKind (r : List Byte) : Nat := recNat r 1 1
def recDim (r : List Byte) : Nat := bits (recNat r 0 1) 2 0
def recDrain (r : List Byte) : Bool := bit (recNat r 0 1) 3
def recType (r : List Byte) : Nat := bits (recNat r 2 1) 4 0

/-- Field `k` of dimension slot `d` (R240). -/
def recSlot (r : List Byte) (d k : Nat) : Nat := recNat r (8 + 24 * d + 8 * k) 8

/-- The sum of R239 holds. -/
def recSum (r : List Byte) : Bool :=
  let total := (List.range 32).foldl (fun a i => if i = 1 then a else a + recNat r (4 * i) 4) 0
  recNat r 4 4 = 2 ^ 32 - 1 - total % 2 ^ 32

/-- The self-check of a record (R239); `pattern` where slot 4 holds BASE (R256). -/
def recOk (pattern : Bool) (r : List Byte) : Bool :=
  let h := recNat r 0 8
  let nd := recDim r
  let kind := recKind r
  recSum r && bits h 31 21 = 0 && bits h 7 4 = 0 && 1 ≤ nd && nd ≤ 5 && (pattern || !bit h 3) &&
  (if kind = 0x52 then
      !pattern && recType r < 0x15 && bits (recNat r 0x08 8) 63 52 = 0 && bits (recNat r 0x10 8) 63 40 = 0 &&
      (List.range 5).all (fun d => recNat r (0x1C + 8 * d) 4 = 0 && (d < nd || recNat r (0x18 + 8 * d) 4 = 0)) &&
      recNat r 0x70 16 = 0
    else
      (kind = 0x51 || kind = 0x53) && bits h 20 16 = 0 &&
      (List.range 5).all fun d =>
        if pattern && d = 4 then recSlot r 4 1 = 0 && recSlot r 4 2 = 0
        else if d < nd then recSlot r d 0 < 2 ^ 32
        else recSlot r d 0 = 0 && recSlot r d 1 = 0 && recSlot r d 2 = 0)

/-- Extents of a walk, dimension 0 first. -/
def recExts (r : List Byte) : List Nat := (List.range (recDim r)).map fun d => recSlot r d 0

/-! Endpoints (R238) -/

inductive EndKind where
  | va | pad | tile
  /-- virtual addresses behind a tensor handle, reached through the tensor store (R15) -/
  | tensor
  /-- virtual addresses of this device that `fput` names by a fabric address (R260) -/
  | fabric
  /-- an address of another device (R260) -/
  | remote
deriving DecidableEq, Repr

/-- An endpoint: its kind, its byte address within its space, and the last tile it leases. -/
structure Endpoint where
  kind : EndKind
  base : Nat
  last : Nat
deriving DecidableEq, Repr

def padBytes : Nat := 3145728
def tileBytes : Nat := 16384

/-- The endpoint a scalar holds; none for any other form. -/
def Endpoint.ofNat (x : Nat) : Option Endpoint :=
  match bits x 63 60 with
  | 0 => if bits x 59 52 = 0 then some ⟨.va, bits x 51 0, 0⟩ else none
  | 8 => if bits x 59 22 = 0 && bits x 21 0 < padBytes then some ⟨.pad, bits x 21 0, 0⟩ else none
  | 4 => if bits x 59 28 = 0 && bits x 23 18 = 0 then some ⟨.tile, bits x 17 0, bits x 27 24⟩ else none
  | _ => none

/-- The tiles an endpoint leases. -/
def Endpoint.tiles (p : Endpoint) : List Nat :=
  match p.kind with
  | .tile => (List.range 16).filter fun t => p.base / tileBytes ≤ t && t ≤ p.last
  | _ => []

/-! Walks (R240) -/

/-- One side of a walk: its endpoint, its strides, its element width; dimension 0 is packed for a sub-byte width. -/
structure Side where
  at_     : Endpoint
  strides : List Int
  width   : Nat
deriving DecidableEq, Repr

def Side.packed (s : Side) : Bool := s.width < 8

/-- Signed stride fields of a record. -/
def recStrides (r : List Byte) (k : Nat) : List Int := (List.range (recDim r)).map fun d => toSigned 64 (recSlot r d k)

/-- The coordinates of element `k` of the walk order, dimension 0 first. -/
def walkCoords : List Nat → Nat → List Nat
  | [], _ => []
  | e :: r, k => k % e :: walkCoords r (k / e)

/-- Elements of a walk. -/
def walkCount (exts : List Nat) : Nat := exts.foldl (· * ·) 1

/-- The bit distance of a coordinate from the side's base. -/
def Side.offset (s : Side) (cs : List Nat) : Int :=
  ((cs.zip s.strides).zipIdx.map fun p =>
    if p.2 = 0 && s.packed then ((p.1.1 * s.width : Nat) : Int) else 8 * (p.1.1 : Int) * p.1.2).foldl (· + ·) 0

/-- First bit of element `k` of a walk in the side's space. -/
def Side.bitAt (s : Side) (exts : List Nat) (k : Nat) : Nat := (8 * (s.at_.base : Int) + s.offset (walkCoords exts k)).toNat

/-- The least and the greatest byte a walk touches on a side (R242). -/
def Side.hull (s : Side) (exts : List Nat) : Int × Int :=
  let r := ((exts.zip s.strides).zipIdx).foldl (fun (a : Int × Int) p =>
    if p.2 = 0 && s.packed then a
    else
      let x := ((p.1.1 : Int) - 1) * p.1.2
      (a.1 + min 0 x, a.2 + max 0 x)) ((s.at_.base : Int), (s.at_.base : Int))
  let n := if s.packed then ceilDiv (exts.headD 1 * s.width) 8 else s.width / 8
  (r.1, r.2 + n - 1)

/-- A side's base and strides are multiples of its element's bytes (R242). -/
def Side.aligned (s : Side) : Bool :=
  s.packed || (s.at_.base % (s.width / 8) = 0 && s.strides.all fun x => x % ((s.width / 8 : Nat) : Int) = 0)

/-- A hull lies within its endpoint's space (R242). -/
def Side.fits (s : Side) (h : Int × Int) : Bool :=
  match s.at_.kind with
  | .va => 0 ≤ h.1 && h.2 < 2 ^ 52
  | .tensor => 0 ≤ h.1 && h.2 < 2 ^ 52
  | .fabric => 0 ≤ h.1 && h.2 < 2 ^ 52
  | .remote => 0 ≤ h.1 && h.2 < 2 ^ 52
  | .pad => 0 ≤ h.1 && h.2 < padBytes
  | .tile => ((s.at_.base / tileBytes * tileBytes : Nat) : Int) ≤ h.1 && h.2 < (((s.at_.last + 1) * tileBytes : Nat) : Int)

/-- The rules of R240 on extents and sub-byte types. -/
def walkLegal (exts : List Nat) (sides : List Side) : Bool :=
  exts.all (fun e => 1 ≤ e && e < 2 ^ 32) && sides.all fun s =>
    !s.packed || (s.strides.headD 0 = 0 && exts.headD 0 % (if s.width = 4 then 2 else 4) = 0)

/-- The space an endpoint's addresses are of: handles and this device's fabric addresses name virtual addresses (R243, R260). -/
def EndKind.space : EndKind → EndKind
  | .tensor => .va
  | .fabric => .va
  | k => k

/-- Two sides of one kind have hulls that intersect (R242). -/
def hullsMeet (a b : Side) (x y : Int × Int) : Bool := a.at_.kind.space = b.at_.kind.space && x.1 ≤ y.2 && y.1 ≤ x.2

/-! Shape and window records (R243, R244) -/

/-- Bytes a tensor occupies. -/
def shapeBytes (width : Nat) (r : List Byte) : Nat :=
  ceilDiv (width * walkCount ((List.range (recDim r)).map fun d => recNat r (0x18 + 8 * d) 8)) 8

/-- A shape record that passes its self-check and names a whole tensor of its segment. -/
def shapeLegal (width : Nat) (r : List Byte) : Bool :=
  recNat r 0x08 8 % 131072 = 0 && shapeBytes width r ≤ recNat r 0x10 8 &&
    (List.range (recDim r)).all fun d => 1 ≤ recNat r (0x18 + 8 * d) 8

/-- Stride of dimension `d` of a dense tensor in bits. -/
def tensorStride (width : Nat) (shape : List Byte) (d : Nat) : Nat :=
  width * walkCount ((List.range d).map fun e => recNat shape (0x18 + 8 * e) 8)

/-- A window lies within its tensor and splits no byte (R244); a stride of the tensor side is a whole number of bytes. -/
def windowLegal (width : Nat) (shape win : List Byte) : Bool :=
  recDim win = recDim shape &&
    (List.range (recDim win)).all (fun d => recSlot win d 1 + recSlot win d 0 ≤ recNat shape (0x18 + 8 * d) 8) &&
    recSlot win 0 1 * width % 8 = 0 && (List.range (recDim win)).all fun d => d = 0 || tensorStride width shape d % 8 = 0

/-- The tensor side of a window: its base address and its strides in bytes (R244). -/
def tensorBase (width : Nat) (shape win : List Byte) : Nat :=
  recNat shape 0x08 8 +
    ((List.range (recDim win)).foldl (fun a d => a + recSlot win d 1 * tensorStride width shape d) 0) / 8
def tensorStrides (width : Nat) (shape win : List Byte) : List Int :=
  (List.range (recDim win)).map fun d => if d = 0 && width < 8 then 0 else ((tensorStride width shape d / 8 : Nat) : Int)

/-- The equivalent stride-and-extent record (R244); `tensorIsSource` says on which side the tensor lies. -/
def equivalentRecord (width : Nat) (shape win : List Byte) (tensorIsSource : Bool) : List Byte :=
  let slots := (List.range (recDim win)).flatMap fun d =>
    let t := wrapTo 64 ((tensorStrides width shape win).getD d 0)
    let m := recSlot win d 2
    leBytes 8 (recSlot win d 0) ++ (if tensorIsSource then leBytes 8 t ++ leBytes 8 m else leBytes 8 m ++ leBytes 8 t)
  let body := slots ++ List.replicate (120 - slots.length) 0#8
  let head := 0x5100 + recDim win
  let r0 := leBytes 8 head ++ body
  let total := (List.range 32).foldl (fun a i => if i = 1 then a else a + recNat r0 (4 * i) 4) 0
  leBytes 4 head ++ leBytes 4 (2 ^ 32 - 1 - total % 2 ^ 32) ++ body

end Sys2Proof.Machine
end

