-- ==== Sys2Proof/Machine/Operands.lean ====
section
/-!
DEFINITION. Every operand form of the V, M and C words: vector codes (R55, R119), bobbins (R115 to R118), masks (R113), the
scratchpad (R141, R209), tile operands (R56, R149), leases (R158, R159), rings (R152 to R155) and bindings (R257, R258).
-/
namespace Sys2Proof.Machine

/-! Registers and masks (R112, R113) -/

def Job.rv (j : Job) (r : Nat) : Nat := (Sparse.get (0 : VReg) j.v r).toNat
def Job.wv (j : Job) (r x : Nat) : Job := { j with v := Sparse.set (0 : VReg) j.v r (BitVec.ofNat 4096 x) }
def Job.rk (j : Job) (r : Nat) : Nat := (Sparse.get (0 : KReg) j.k r).toNat
def Job.wk (j : Job) (r x : Nat) : Job := { j with k := Sparse.set (0 : KReg) j.k r (BitVec.ofNat 512 x) }

/-- The mask a word's M and K fields name: every lane where M is 0 (R120). -/
def Job.maskOf (j : Job) (m k : Nat) : Nat := if m = 1 then j.rk k else 2 ^ 512 - 1

/-! Rings and bindings. A ring has target code 0 to 7, a bobbin 8 to 15 (R54). -/

def Job.bobbin (j : Job) (b : Nat) : Bobbin := Sparse.get .idle j.b b
def Job.setBobbin (j : Job) (b : Nat) (x : Bobbin) : Job := { j with b := Sparse.set .idle j.b b x }
def Job.ring (j : Job) (r : Nat) : Ring := Sparse.get .idle j.rings r
def Job.setRing (j : Job) (r : Nat) (x : Ring) : Job := { j with rings := Sparse.set .idle j.rings r x }
def Job.binding (j : Job) (t : Nat) : Binding := Sparse.get .none j.binds t
def Job.setBinding (j : Job) (t : Nat) (x : Binding) : Job := { j with binds := Sparse.set .none j.binds t x }

def Job.targetBound (j : Job) (t : Nat) : Bool := if t < 8 then (j.ring t).bound else (j.bobbin (t - 8)).bound
def Job.targetExh (j : Job) (t : Nat) : Bool := if t < 8 then (j.ring t).exh else (j.bobbin (t - 8)).exh
def Job.targetCount (j : Job) (t : Nat) : Nat := if t < 8 then (j.ring t).count else (j.bobbin (t - 8)).entries.length
def Job.setExh (j : Job) (t : Nat) : Job :=
  if t < 8 then j.setRing t { j.ring t with exh := true } else j.setBobbin (t - 8) { j.bobbin (t - 8) with exh := true }
def Job.clearBound (j : Job) (t : Nat) : Job :=
  if t < 8 then j.setRing t { j.ring t with bound := false } else j.setBobbin (t - 8) { j.bobbin (t - 8) with bound := false }

/-- SIZE of a ring and the bytes of an entry (R153). -/
def Ring.size (r : Ring) : Nat := r.sizem1 + 1
def Ring.entryBytes (r : Ring) : Nat := (r.eszm1 + 1 + r.scl) * tileBytes
/-- First scratchpad byte of entry `x` (R153). -/
def Ring.entryAt (r : Ring) (x : Nat) : Nat := r.base * tileBytes + x % r.size * r.entryBytes
/-- Pop `n` entries (R154). -/
def Ring.pop (r : Ring) (n : Nat) : Ring := { r with head := (r.head + n) % r.size, count := r.count - n }
/-- Push the entry at TAIL. -/
def Ring.push (r : Ring) : Ring := { r with count := r.count + 1, tail := (r.tail + 1) % r.size }

/-- Entries of a pattern: the extent of its outermost dimension (R256). -/
def Binding.entries (b : Binding) : Nat := if b.pat then (recExts b.recd).getLastD 0 else 0
/-- Bytes a pattern moves for one entry (log entry 108 where its record is lost). -/
def Binding.entryBytes (b : Binding) (width : Nat) : Nat :=
  if b.recd = [] && b.pat then Config.lostEntryBytes b.recoff else ceilDiv (walkCount (recExts b.recd).dropLast * width) 8

/-- A ring's pattern moves bytes (R256). -/
def Binding.width (t : Nat) (b : Binding) : Nat := if t < 8 then 8 else tyWidth b.ty

/-- A binding that `unbind` or a fault has stopped ends once its target holds no entry: BOUND clears and its token is written
(R257, R258). -/
def Job.endBinding (j : Job) (t : Nat) : Job :=
  let b := j.binding t
  if j.targetBound t && b.stop && j.targetCount t = 0 then
    ((j.clearBound t).setBinding t .none).token b.tok (statusWord (b.fault ≠ 0) b.fault (b.done * b.entryBytes (b.width t)))
  else j

/-! Bobbins as operands (R116 to R118) -/

/-- The bobbins among operand codes, each once. -/
def bobbinsOf (codes : List Nat) : List Nat :=
  (List.range 8).filter fun b => codes.contains (32 + b)

/-- Whether a word's bobbins let it issue. -/
inductive BobbinGate where
  | ready | wait
  /-- a breach of R117 at a bobbin -/
  | breach (b : Nat)
deriving DecidableEq, Repr

/-- The cases of R117 and the issue test of R116. -/
def Job.bobbinGate (j : Job) (srcs dsts : List Nat) : BobbinGate :=
  let badSrc (b : Nat) : Bool := !(j.bobbin b).bound || (j.bobbin b).drain || ((j.bobbin b).entries.isEmpty && (j.bobbin b).exh)
  let badDst (b : Nat) : Bool := !(j.bobbin b).bound || !(j.bobbin b).drain || (j.bobbin b).exh
  match srcs.find? badSrc, dsts.find? badDst with
  | some b, _ => .breach b
  | none, some b => .breach b
  | none, none =>
    if srcs.any (fun b => (j.bobbin b).entries.isEmpty) || dsts.any (fun b => (j.bobbin b).entries.length ≥ 8) then .wait
    else .ready

/-- Pop the head entry of a bobbin. -/
def Job.popBobbin (j : Job) (b : Nat) : Job :=
  let x := j.bobbin b
  (j.setBobbin b { x with entries := x.entries.drop 1 }).endBinding (8 + b)

/-- Push an entry; a drain pattern that has accepted its last entry sets EXH (R115). -/
def Job.pushBobbin (j : Job) (b x : Nat) : Job :=
  let y := j.bobbin b
  let es := y.entries ++ [BitVec.ofNat 4096 x]
  let bd := j.binding (8 + b)
  j.setBobbin b { y with entries := es, exh := y.exh || (y.drain && bd.done + es.length ≥ bd.entries) }

/-- The pattern a vector operand code reads (R55, R119): a register, the head entry of a bobbin, a scalar's low bits or CTL in
every element of type `t`. -/
def Job.vsource (j : Job) (t sreg ctl code : Nat) : Nat :=
  if code < 32 then j.rv code
  else if code < 40 then ((j.bobbin (code - 32)).entries.headD 0).toNat
  else if code = 48 then broadcast (tyWidth t) (laneCount t) ((j.rs sreg).toNat % 2 ^ tyWidth t)
  else broadcast (tyWidth t) (laneCount t) (ctlElem t ctl)

/-- Write a vector destination: a register, or a push. -/
def Job.vdest (j : Job) (code x : Nat) : Job := if code < 32 then j.wv code x else j.pushBobbin (code - 32) x

/-! The scratchpad (R141, R209) -/

def Job.padNat (j : Job) (o n : Nat) : Nat := regionNat j.pad o n
def Job.padRead (j : Job) (o n : Nat) : List Byte := leBytes n (j.padNat o n)
def Job.padWrite (j : Job) (o : Nat) (bs : List Byte) : Job := { j with pad := Sparse.blit 0#8 j.pad o bs }

/-- A run of scratchpad bytes touches a granule not yet exchanged (R202). -/
def State.padStalls (s : State) (n o len : Nat) : Bool :=
  len ≠ 0 && (s.core n).exchange.any fun g => o / 4096 ≤ g && g ≤ (o + len - 1) / 4096

/-- The same for a run of scratchpad bytes that lies within 0 to 3,145,727. -/
def padFits (o len : Nat) : Bool := o + len ≤ padBytes

/-! Tiles and accumulators (R56, R146 to R150) -/

def Job.tile (j : Job) (t : Nat) : Nat := (Sparse.get (0 : Tile) j.tiles t).toNat
def Job.setTile (j : Job) (t x : Nat) : Job := { j with tiles := Sparse.set (0 : Tile) j.tiles t (BitVec.ofNat 131072 x) }
def Job.acc (j : Job) (a : Nat) : Nat := (Sparse.get (0 : Acc) j.accs a).toNat
def Job.setAcc (j : Job) (a x : Nat) : Job := { j with accs := Sparse.set (0 : Acc) j.accs a (BitVec.ofNat 524288 x) }

/-- The fields of a tile operand (R56). -/
def topTile (t : BitVec 15) : Nat := bits t.toNat 14 11
def topDir (t : BitVec 15) : Dir := .ofCode (bits t.toNat 10 9)
def topIk (t : BitVec 15) : Bool := bit t.toNat 8
/-- The scalar a tile operand reads, if any. -/
def topRegs (t : BitVec 15) : List Nat := if topIk t then [bits t.toNat 5 0] else []
/-- INDEX of a tile operand: an immediate, or a scalar's value. -/
def Job.topIndex (j : Job) (t : BitVec 15) : Nat := if topIk t then (j.rs (bits t.toNat 5 0)).toNat else bits t.toNat 7 0

/-! Leases (R158, R159) -/

/-- The tiles an M word leases (R158). -/
def leasedTiles : Instr → List Nat
  | .mmt f => [topTile f.ta, topTile f.tb]
  | .mbias f => [topTile f.top]
  | .mstTile f => (List.range (spanTiles f.ty.toNat)).map (topTile f.top + ·)
  | .mldTile f => (List.range (spanTiles f.ty.toNat)).map (topTile f.top + ·)
  | _ => []

/-- The tiles a C word leases, from `s[SA]` and `s[SD]` (R238, R247). -/
def copyTiles (i : Instr) (sa sd : Nat) : List Nat :=
  let t (x : Nat) : List Nat := match Endpoint.ofNat x with
    | some p => p.tiles
    | none => []
  match i with
  | .cp _ => t sa ++ t sd
  | .cpr _ => t sa
  | .cpt _ => t sd
  | .cptw _ => t sa
  | .cpfill _ => t sd
  | .fget _ => t sd
  | .fput _ => t sa
  | .cgsum _ => t sd
  | .fsum _ => t sa ++ t sd
  | _ => []

/-- Tiles leased to M: those of every issued command that is no queued image (R161). -/
def Job.mTiles (j : Job) : List Nat := (j.mqueue.filter fun c => !c.queued).flatMap fun c => leasedTiles c.instr
/-- Tiles leased to C. -/
def Job.cTiles (j : Job) : List Nat :=
  match j.ccmd with
  | some c => if c.held then [] else copyTiles c.instr c.sa.toNat c.sd.toNat
  | none => []

/-- A V tile move on a leased tile traps (R144, R159); `TRAPAUX` names the tile. -/
def Job.tileLeased (j : Job) (t : Nat) : Bool := j.mTiles.contains t || j.cTiles.contains t

end Sys2Proof.Machine
end

