-- ==== Sys2Proof/Machine/Matrix.lean ====
section
/-!
DEFINITION. The M words and their commands: issue, start, retirement (R154 to R161), what each computes (R162 to R173), the
matrix save image (R174 to R176), and the events that start and retire commands.
-/
namespace Sys2Proof.Machine

/-! Issue (R156) -/

/-- The scalars an M word reads at issue, in order (R93, R174). -/
def mScalars : Instr → List Nat
  | .mmt f => topRegs f.ta ++ topRegs f.tb
  | .mbias f => topRegs f.top
  | .mstTile f => topRegs f.top
  | .mldTile f => topRegs f.top
  | .mstScratchpad f => [f.sbase.toNat]
  | .mldScratchpad f => [f.sbase.toNat]
  | .msave f => [f.sbase.toNat]
  | .mrestore f => [f.sbase.toNat]
  | _ => []

/-- INDEX of a tile operand of a command: an immediate, or the scalar `x` read at issue. -/
def topValue (t : BitVec 15) (x : Word) : Nat := if topIk t then x.toNat else bits t.toNat 7 0

/-- The address of the scratchpad form and of a matrix save image: `s[SBASE]` + sext(IMM), modulo 2^64 (R170, R174). -/
def maAddress (f : MA) (first : Word) : Nat := (first + f.imm.signExtend 64).toNat

/-- Side of the accumulator view of a type, and the bytes of the packed array of `mst` and `mld` (R170). -/
def viewOf (t : Nat) : Nat := viewSide (viewType t)
def packedBytes (t : Nat) : Nat := viewOf t * viewOf t * tyWidth t / 8

/-- A tile operand's index lies in the range of its direction (R56, R149). -/
def topInRange (t : BitVec 15) (x : Word) (w : Nat) : Bool := topValue t x < lineCount w (topDir t)

/-- The tile form of `mst` and `mld` (R170): DIR row or column, INDEX 0 with IK 0, the tiles within the file. -/
def tileFormOk (f : MA) : Bool :=
  let d := topDir f.top
  (d = .row || d = .col) && f.top.toNat % 512 = 0 && topTile f.top + spanTiles f.ty.toNat ≤ 16

/-- The operand checks an M word makes at issue. DESIGN CHOICE (log entry 102): of an offset that is both misaligned and out of range
the alignment is tested first. -/
def mIssueTrap (i : Instr) (first second : Word) : Option Trap :=
  let bad (b : Bool) : Option Trap := if b then some (wordTrap 0x03 0 i) else none
  match i with
  | .mma f => bad (f.km1.toNat + 1 > min (kLimit f.aty.toNat) (kLimit f.bty.toNat))
  | .mmt f =>
    let k := f.km1.toNat + 1
    let x := topValue f.ta first
    let y := topValue f.tb (if topIk f.ta then second else first)
    bad (k > 32 || topDir f.ta = .row || topDir f.tb = .row || x + k > 32 || y + k > 32)
  | .mbias f =>
    let w := tyWidth f.ty.toNat
    bad (!topInRange f.top first w || lineLength w (topDir f.top) < viewOf f.ty.toNat)
  | .mstTile f => bad (!tileFormOk f)
  | .mldTile f => bad (!tileFormOk f)
  | .mstScratchpad f =>
    let o := maAddress f first
    if o % 16 ≠ 0 then some (Machine.trap 0x06 o 0) else if padFits o (packedBytes f.ty.toNat) then none else some (wordTrap 0x03 o i)
  | .mldScratchpad f =>
    let o := maAddress f first
    if o % 16 ≠ 0 then some (Machine.trap 0x06 o 0) else if padFits o (packedBytes f.ty.toNat) then none else some (wordTrap 0x03 o i)
  | .mskip f => bad (f.imm.toNat % 16 ≥ 8 || f.imm.toNat ≥ 512)
  | .msave f => if maAddress f first % 4096 ≠ 0 then some (trap 0x06 (maAddress f first) 0) else none
  | .mrestore f => if maAddress f first % 4096 ≠ 0 then some (trap 0x06 (maAddress f first) 0) else none
  | _ => none

/-- Where the handler M stream stands once a word of it has issued (R177). -/
def msavedAfter (sel : Sel) (i : Instr) (m : MSaveState) : MSaveState :=
  match sel, i with
  | .hm, .msave _ => .saved
  | .hm, .mrestore _ => .restored
  | _, _ => m

/-- A queued image may issue again: its stream is not stopped by a trap (R160, R161, R176). -/
def Job.imageIssues (j : Job) (c : MCommand) : Bool := c.queued && (c.handler || !j.streams.m.trapped)

/-- Issue an M word: a place of four in the queue, no queued image before it, its operand checks, no lease of C (R156, R159, R161).
DESIGN CHOICE (log entry 103): a handler's `msave` needs a place too, so it waits while four are queued. -/
def runM (i : Instr) (g : Guard) (s : State) : Result :=
  runWord i g (mScalars i) [] s fun n sel j =>
    let st := j.stream sel
    let vals := (mScalars i).map j.rs
    let first := vals.getD 0 0
    let second := vals.getD 1 0
    if j.mqueue.length ≥ 4 || j.mqueue.any j.imageIssues then .wait
    else
      match mIssueTrap i first second with
      | some t => .trap t s
      | none =>
        if (leasedTiles i).any j.cTiles.contains then .wait
        else
          let c : MCommand := { instr := i, first := first, second := second, started := false, parts := 0,
                                sect := hSect (st.header.getD 0).toNat, word := st.word, handler := sel.isHandler, queued := false,
                                image := false }
          .done (s.setJob n { j with mqueue := j.mqueue ++ [c], msaved := msavedAfter sel i j.msaved }) 1

def execMma (f : MM) (s : State) : Result := runM (.mma f) f.g s
def execMmt (f : MM) (s : State) : Result := runM (.mmt f) f.g s
def execMzero (f : MA) (s : State) : Result := runM (.mzero f) f.g s
def execMscale (f : MA) (s : State) : Result := runM (.mscale f) f.g s
def execMbias (f : MA) (s : State) : Result := runM (.mbias f) f.g s
def execMstTile (f : MA) (s : State) : Result := runM (.mstTile f) f.g s
def execMstScratchpad (f : MA) (s : State) : Result := runM (.mstScratchpad f) f.g s
def execMldTile (f : MA) (s : State) : Result := runM (.mldTile f) f.g s
def execMldScratchpad (f : MA) (s : State) : Result := runM (.mldScratchpad f) f.g s
def execMcopy (f : MA) (s : State) : Result := runM (.mcopy f) f.g s
def execMskip (f : MA) (s : State) : Result := runM (.mskip f) f.g s
def execMsave (f : MA) (s : State) : Result := runM (.msave f) f.g s
def execMrestore (f : MA) (s : State) : Result := runM (.mrestore f) f.g s

/-! What a command reads and writes (R156, R158) -/

/-- The rings a command pops, each with the entries it takes (R154, R173). -/
def mPops : Instr → List (Nat × Nat)
  | .mma f => [(f.warp.toNat, 1), (4 + f.weft.toNat, 1)]
  | .mskip f => [(f.imm.toNat % 16, f.imm.toNat / 16 % 32 + 1)]
  | _ => []

/-- Accumulators and tiles a command writes; a tile is 8 plus its number. -/
def mWrites (i : Instr) : List Nat :=
  match i with
  | .mstTile _ => (leasedTiles i).map (8 + ·)
  | .mstScratchpad _ => []
  | .mskip _ => []
  | .msave _ => []
  | .mrestore _ => List.range 8
  | .mcopy f => [f.acc.toNat]
  | i => leasedAccs i

/-- Accumulators and tiles a command reads. -/
def mReads (i : Instr) : List Nat :=
  match i with
  | .mstTile f => [f.acc.toNat]
  | .mldScratchpad _ => []
  | .mldTile _ => (leasedTiles i).map (8 + ·)
  | .mzero _ => []
  | .mrestore _ => []
  | i => leasedAccs i ++ (leasedTiles i).map (8 + ·)

def isMac : Instr → Bool
  | .mma _ => true
  | .mmt _ => true
  | _ => false

def isMsave : Instr → Bool
  | .msave _ => true
  | _ => false

/-- An earlier command of the queue holds a later one back from starting (R156). -/
def mBlocks (earlier later : MCommand) : Bool :=
  (mWrites earlier.instr).any (fun x => (mReads later.instr ++ mWrites later.instr).contains x)
    || (mReads earlier.instr).any (fun x => (mWrites later.instr).contains x)

/-- Whether a command may start, or traps as it comes to start. -/
inductive MStart where
  | go | wait
  | trap (t : Trap)
deriving DecidableEq, Repr

/-- The checks of R164 on a ring as an operand of `mma`. -/
def ringServes (r : Ring) (t k : Nat) : Bool :=
  ceilDiv k (gridCols (mmaWidth t)) ≤ r.eszm1 + 1 && (!(21 ≤ t) || ceilDiv (ceilDiv k 32) 128 ≤ r.scl) &&
    (!r.trans || mmaWidth t = 8)

/-- The conditions of R154, R155, R164 and R173 on a command's rings, with the entries earlier commands will pop. DESIGN CHOICE (log
entry 102): of several the trap of the warp ring comes first, and of one ring an unbound ring before the checks of R164 and R173, and
those before an exhausted ring. -/
def ringsStart (j : Job) (c : MCommand) (earlier : List MCommand) : MStart :=
  let one (p : Nat × Nat) : MStart :=
    let r := j.ring p.1
    let before := ((earlier.flatMap fun e => mPops e.instr).filter (·.1 = p.1)).foldl (fun a q => a + q.2) 0
    let serves := match c.instr with
      | .mma f => ringServes r (if p.1 < 4 then f.aty.toNat else f.bty.toNat) (f.km1.toNat + 1)
      | _ => p.2 ≤ r.size
    if !r.bound then .trap (trap 0x10 0 p.1)
    else if !serves then .trap (wordTrap 0x03 0 c.instr)
    else if before + p.2 ≤ r.count then .go
    else if r.exh then .trap (trap 0x10 0 p.1)
    else .wait
  (mPops c.instr).foldl (fun a p => match a, one p with
    | .trap t, _ => .trap t
    | _, .trap t => .trap t
    | .wait, _ => .wait
    | .go, x => x) .go

/-- The command of the queue that may start next: the first unstarted one, or a handler's `msave` past the job's unstarted
commands (R175, R177). -/
def Job.nextStart (j : Job) : Option Nat :=
  if j.mqueue.any (fun c => isMsave c.instr && c.started) then none
  else
  match j.mqueue.findIdx? (fun c => c.handler && isMsave c.instr && !c.started) with
  | some k => if (j.mqueue.take k).all (fun c => !c.handler) then some k else j.mqueue.findIdx? (fun c => !c.started)
  | none => j.mqueue.findIdx? (fun c => !c.started)

/-- Whether the command at place `k` may start (R156). -/
def Job.mayStart (j : Job) (k : Nat) : MStart :=
  match j.mqueue[k]? with
  | none => .wait
  | some c =>
    let earlier := j.mqueue.take k
    if isMsave c.instr then (if earlier.any (·.started) || (!c.handler && !earlier.isEmpty) then .wait else .go)
    else
      match ringsStart j c earlier with
      | .trap t => .trap t
      | .wait => .wait
      | .go =>
        let prev := match earlier.getLast? with
          | some p => p.started && isMac p.instr
          | none => true
        if prev && !earlier.any (mBlocks · c) then .go else .wait

/-- A pre-emption or a gang freeze keeps commands from starting (R161), but within a drained level or up to a D section. -/
def Job.mStarts (j : Job) : Bool :=
  !j.frozen && match j.preempt with
    | none => true
    | some p => !p.cut && !p.saving && !p.gone.m && p.plan.m ≠ Plan.none

/-- The next command to start starts, or traps once every earlier one has retired (R155, R156, R160). -/
def State.mStart (s : State) (n : Nat) (j : Job) : State :=
  match j.nextStart with
  | none => s
  | some k =>
    match j.mqueue[k]? with
    | none => s
    | some c =>
      if c.queued then s
      else
        match j.mayStart k with
        | .go => s.setJob n { j with mqueue := j.mqueue.set k { c with started := true } }
        | .wait => s
        | .trap t => if k = 0 then s.mTrap n k t else s

/-- The first queued image issues again: its checks are those of its word, and its leases wait for C's (R159, R161, R176). -/
def State.mIssueImage (s : State) (n : Nat) (j : Job) (k : Nat) (c : MCommand) : State :=
  match mIssueTrap c.instr c.first c.second with
  | some t => if k = 0 then s.mTrap n k t else s.mStart n j
  | none =>
    if (leasedTiles c.instr).any j.cTiles.contains then s.mStart n j
    else s.setJob n { j with mqueue := j.mqueue.set k { c with queued := false } }

/-- The first queued image issues again, in order; where there is none, or it waits, the first unstarted command starts (R156, R161).
Input: `core`. -/
def execMatrixCommandStart (s : State) : Result :=
  runEvent s fun x =>
    match s.job? x.core with
    | none => s
    | some j =>
      if !j.mStarts then s
      else
        match j.mqueue.findIdx? j.imageIssues with
        | none => s.mStart x.core j
        | some k =>
          match j.mqueue[k]? with
          | none => s
          | some c => s.mIssueImage x.core j k c

/-! What a command computes -/

/-- What a command leaves at its retirement (R160). -/
structure MOut where
  accs  : List (Nat × Nat) := []
  tiles : List (Nat × Nat) := []
  pad   : Option (Nat × List Byte) := none
  flags : Nat := 0
  draws : Nat := 0

/-- The elements of a view replace the low part of an accumulator; the rest stays (R150). -/
def Job.mergeAcc (j : Job) (a v new : Nat) : Nat × Nat :=
  let n := viewSide v * viewSide v * tyWidth v
  (a, new + j.acc a / 2 ^ n * 2 ^ n)

/-- The data or scale tile `q` of the head entry of a ring, as one number (R153). -/
def Job.ringTile (j : Job) (r : Ring) (q : Nat) : Nat := j.padNat (r.entryAt r.head + q * tileBytes) tileBytes

/-- Element `(u, k)` of an operand of `mma` in the head entry of a ring (R164). -/
def ringElem (t : Nat) (trans : Bool) (tiles : Array Nat) (u k : Nat) : Nat :=
  let w := mmaWidth t
  let c := gridCols w
  if trans then gridElem w (tiles.getD (k / c) 0) (k % c) u else gridElem w (tiles.getD (k / c) 0) u (k % c)

/-- The scale of group `g` of row or column `u`: 127 but for the MX types (R164). -/
def ringScale (t : Nat) (scales : Array Nat) (u g : Nat) : Nat :=
  if 21 ≤ t then (scales.getD (g / 128) 0) / 2 ^ (8 * (128 * u + g % 128)) % 256 else 127

def maMode (f : MA) : Rnd := (Rnd.ofCode f.rnd.toNat).getD .rne

/-- What a command computes from the job's state (R162 to R173). -/
def Job.mCompute (j : Job) (c : MCommand) : MOut :=
  let draw (f : MA) (e : Nat) : Nat := if maMode f = .sr then j.draw .m e else 0
  let side2 (t : Nat) : Nat := viewOf t * viewOf t
  match c.instr with
  | .mma f =>
    let ta := f.aty.toNat
    let tb := f.bty.toNat
    let k := f.km1.toNat + 1
    let ra := j.ring f.warp.toNat
    let rb := j.ring (4 + f.weft.toNat)
    let data (r : Ring) : Array Nat := ((List.range (r.eszm1 + 1)).map (j.ringTile r)).toArray
    let scales (r : Ring) : Array Nat := ((List.range r.scl).map fun q => j.ringTile r (r.eszm1 + 1 + q)).toArray
    let da := data ra
    let db := data rb
    let sa := scales ra
    let sb := scales rb
    let r := mmaAll ta tb k (j.acc f.acc.toNat) (f.z = 1) (ringElem ta ra.trans da) (ringElem tb rb.trans db) (ringScale ta sa)
      (ringScale tb sb)
    { accs := [j.mergeAcc f.acc.toNat (mmaView ta) r.1], flags := r.2 }
  | .mmt f =>
    let x := topValue f.ta c.first
    let y := topValue f.tb (if topIk f.ta then c.second else c.first)
    let a := j.tile (topTile f.ta)
    let b := j.tile (topTile f.tb)
    let r := mmaAll 12 12 (f.km1.toNat + 1) (j.acc f.acc.toNat) (f.z = 1) (fun i k => lineElem 64 a (topDir f.ta) (x + k) i)
      (fun i k => lineElem 64 b (topDir f.tb) (y + k) i) (fun _ _ => 127) (fun _ _ => 127)
    { accs := [j.mergeAcc f.acc.toNat 12 r.1], flags := r.2 }
  | .mzero f => { accs := [(f.acc.toNat, 0)] }
  | .mscale f =>
    let t := f.ty.toNat
    let r := scaleAll t (maMode f) (f.sat = 1) (draw f) (j.acc f.acc.toNat) f.imm.toNat
    { accs := [j.mergeAcc f.acc.toNat (viewType t) r.1], flags := r.2, draws := side2 t }
  | .mbias f =>
    let t := f.ty.toNat
    let tile := j.tile (topTile f.top)
    let r := biasAll t (maMode f) (f.sat = 1) (f.imm.getLsbD 0) (draw f) (j.acc f.acc.toNat)
      (lineElem (tyWidth t) tile (topDir f.top) (topValue f.top c.first))
    { accs := [j.mergeAcc f.acc.toNat (viewType t) r.1], flags := r.2, draws := side2 t }
  | .mstTile f =>
    let t := f.ty.toNat
    let r := storeElems t (maMode f) (f.sat = 1) (draw f) (j.acc f.acc.toNat)
    { tiles := (List.range (spanTiles t)).map fun q =>
        (topTile f.top + q, storeTile t (topDir f.top = .row) r.1 q (j.tile (topTile f.top + q))),
      flags := r.2, draws := side2 t }
  | .mstScratchpad f =>
    let t := f.ty.toNat
    let r := storeElems t (maMode f) (f.sat = 1) (draw f) (j.acc f.acc.toNat)
    { pad := some (maAddress f c.first, leBytes (packedBytes t) (packLanes (tyWidth t) r.1)), flags := r.2, draws := side2 t }
  | .mldTile f =>
    let t := f.ty.toNat
    let w := tyWidth t
    let tiles := ((List.range (spanTiles t)).map fun q => j.tile (topTile f.top + q)).toArray
    let r := loadAcc t fun i k =>
      let p := spanPos t (topDir f.top = .row) i k
      gridElem w (tiles.getD p.1 0) p.2.1 p.2.2
    { accs := [j.mergeAcc f.acc.toNat (viewType t) r.1], flags := r.2 }
  | .mldScratchpad f =>
    let t := f.ty.toNat
    let x := j.padNat (maAddress f c.first) (packedBytes t)
    let r := loadAcc t fun i k => lane (tyWidth t) x (viewOf t * i + k)
    { accs := [j.mergeAcc f.acc.toNat (viewType t) r.1], flags := r.2 }
  | .mcopy f =>
    let w := tyWidth f.ty.toNat
    if f.imm.getLsbD 0 then
      { accs := [j.mergeAcc f.acc.toNat (if w = 64 then 12 else 13) (copyAcc w true (j.acc f.acc2.toNat))] }
    else { accs := [(f.acc.toNat, j.acc f.acc2.toNat)] }
  | _ => {}

/-- The scratchpad runs a command touches. -/
def Job.mPadRuns (j : Job) (i : Instr) (first : Word) : List (Nat × Nat) :=
  match i with
  | .mma f => [(j.ring f.warp.toNat), j.ring (4 + f.weft.toNat)].map fun r => (r.entryAt r.head, r.entryBytes)
  | .mstScratchpad f => [(maAddress f first, packedBytes f.ty.toNat)]
  | .mldScratchpad f => [(maAddress f first, packedBytes f.ty.toNat)]
  | _ => []

/-- Remove the command at place `k`: it has retired. -/
def Job.mDone (j : Job) (k : Nat) : Job :=
  match j.mqueue[k]? with
  | none => j
  | some c => { j with mqueue := j.mqueue.eraseIdx k }.commandDone (if c.handler then .hm else .m)

/-- Retire a command that computes: its writes together, its pops, its flags and its draws (R76, R160). DESIGN CHOICE (log entry 100):
a word with `.sr` counts its draws under a type that rounds nothing too. -/
def State.mRetire (s : State) (n k : Nat) (j : Job) (c : MCommand) : State :=
  if (j.mPadRuns c.instr c.first).any fun p => s.padStalls n p.1 p.2 then s
  else
    let o := j.mCompute c
    let j1 := j.raise .m o.flags
    if j.fpTraps .m o.flags then (s.setJob n j1).mTrap n k (trap 0x11 0 o.flags)
    else
      let j2 := o.accs.foldl (fun j p => j.setAcc p.1 p.2) j1
      let j3 := o.tiles.foldl (fun j p => j.setTile p.1 p.2) j2
      let j4 := match o.pad with
        | some (a, bs) => j3.padWrite a bs
        | none => j3
      let j5 := (mPops c.instr).foldl (fun j p => (j.setRing p.1 ((j.ring p.1).pop p.2)).endBinding p.1) j4
      let sr : Bool := match c.instr with
        | .mscale f | .mbias f | .mstTile f | .mstScratchpad f => maMode f = .sr
        | _ => false
      s.setJob n ((if sr then j5.drawn .m o.draws else j5).mDone k)

/-! The matrix save image (R174 to R176) -/

def imageBytes : Nat := 525312

/-- A ring register (R152). -/
def Ring.word (r : Ring) : Nat :=
  packBits [(9, 0), (6, r.count), (5, r.tail), (5, r.head), (5, r.sizem1), (8, r.base), (5, r.eszm1), (2, r.scl), (1, b2n r.bound),
    (1, b2n r.trans), (1, b2n r.exh), (16, 0)]

/-- One queued image (R174). -/
def MCommand.bytes (c : MCommand) : List Byte :=
  leBytes 12 c.instr.bits ++ leBytes 4 0 ++ leBytes 8 c.first.toNat ++ leBytes 8 c.second.toNat

/-- The count word of the matrix save image. -/
def Job.mCountWord (j : Job) (q : Nat) : Nat := q % 8 + bits j.fpstat.toNat 12 8 * 256

/-- The matrix save image of a job with queued images `q`. -/
def Job.matrixImage (j : Job) (q : List MCommand) : List Byte :=
  let images := (q.take 4).flatMap MCommand.bytes
  (List.range 8).flatMap (fun a => leBytes 65536 (j.acc a)) ++ (List.range 8).flatMap (fun r => leBytes 8 (j.ring r).word)
    ++ leBytes 8 j.srcntm.toNat ++ leBytes 8 (j.mCountWord q.length) ++ leBytes 16 0
    ++ images ++ List.replicate (128 - images.length) 0#8 ++ List.replicate 800 0#8

/-- A queued image is an M word of format MM or MA other than `msave` or `mrestore` (R176). -/
def imageWordOk : Instr → Bool
  | .mma _ | .mmt _ | .mzero _ | .mscale _ | .mbias _ | .mstTile _ | .mstScratchpad _ | .mldTile _ | .mldScratchpad _ | .mcopy _
  | .mskip _ => true
  | _ => false

/-- The queued command an image of 32 bytes holds; none where it is no such word. -/
def imageCommand (bs : List Byte) : Option MCommand :=
  match decode .m (recNat bs 0 12) with
  | .ok i =>
    if imageWordOk i && recNat bs 12 4 = 0 then
      some { instr := i, first := BitVec.ofNat 64 (recNat bs 16 8), second := BitVec.ofNat 64 (recNat bs 24 8), started := false,
             parts := 0, sect := 0, word := 0, handler := false, queued := true, image := true }
    else none
  | .error _ => none

/-- The queued images of a matrix save image that passes every check of R176. DESIGN CHOICE (log entry 101): the Res bits of its ring
words, which serve only for reading, are not among the bits that have to be zero. -/
def imageQueue (bs : List Byte) : Option (List MCommand) :=
  let w := recNat bs 0x80048 8
  let count := bits w 2 0
  let slot (k : Nat) : List Byte := (bs.drop (0x80060 + 32 * k)).take 32
  let zero (o n : Nat) : Bool := recNat bs o n = 0
  let clean := count ≤ 4 && bits w 7 3 = 0 && bits w 63 13 = 0 && zero 0x80050 16 && zero 0x800E0 800 &&
    (List.range 4).all (fun k => k < count || recNat (slot k) 0 32 = 0)
  if clean then
    (List.range count).foldr (fun k r => match r, imageCommand (slot k) with
      | some l, some c => some (c :: l)
      | _, _ => none) (some [])
  else none

/-- Give restored images the words the last `msave` took them from; the counts of the stream follow (R175, R176). -/
def Job.restoreQueue (j : Job) (k : Nat) (q : List MCommand) : Job :=
  let named := q.zipIdx.map fun p => match j.imaged[p.2]? with
    | some (sect, word) => { p.1 with sect := sect, word := word, image := false }
    | none => p.1
  let lost := j.imaged.length - q.length
  let extra := q.length - j.imaged.length
  let j1 := (List.range lost).foldl (fun j _ => j.commandDone .m) { j with imaged := [] }
  { j1 with mqueue := j1.mqueue.take k ++ named ++ j1.mqueue.drop k }.updStream .m fun st => { st with out := st.out + extra }

/-- One 4 KiB granule of `msave`; after the last one it retires, and the unstarted commands before it leave the queue (R175). -/
def State.mSavePart (s : State) (n k : Nat) (j : Job) (c : MCommand) (f : MA) : State :=
  let q := (j.mqueue.take k).filter fun x => !x.started
  let img := j.matrixImage q
  let sel : Sel := if c.handler then .hm else .m
  let at_ := maAddress f c.first + 4096 * c.parts
  match s.jobStore j at_ ((img.drop (4096 * c.parts)).take 4096) with
  | .stall a => s.stalled n .m a .write
  | .trap cause a x => (s.mTrap n k (trap cause a x)).unstalled n .m
  | .ok s1 =>
    (s1.updJob n fun j =>
      if 4096 * (c.parts + 1) < imageBytes then { j with mqueue := j.mqueue.set k { c with parts := c.parts + 1 } }
      else
        let left : List MCommand := (j.mqueue.take k).filter (fun x => x.started) ++ j.mqueue.drop (k + 1)
        let taken : List (Nat × Nat) := q.map fun x => (x.sect, x.word)
        { j with mqueue := left, imaged := j.imaged ++ taken }.commandDone sel).unstalled n .m

/-- `mrestore` reads and checks the whole image, then restores accumulators, `SRCNTM`, MFL and the queue (R176). -/
def State.mRestoreAll (s : State) (n k : Nat) (j : Job) (c : MCommand) (f : MA) : State :=
  let va := maAddress f c.first
  match s.jobLoad j va imageBytes with
  | .stall a => s.stalled n .m a .read
  | .trap cause a x => (s.mTrap n k (trap cause a x)).unstalled n .m
  | .ok (bs, s1) =>
    match imageQueue bs with
    | none => (s.mTrap n k (wordTrap 0x03 va c.instr)).unstalled n .m
    | some q =>
      (s1.updJob n fun j =>
        let j1 := (List.range 8).foldl (fun j a => j.setAcc a (leNat ((bs.drop (65536 * a)).take 65536))) j
        let j2 := { j1 with srcntm := BitVec.ofNat 64 (recNat bs 0x80040 8),
                            fpstat := BitVec.ofNat 64 (putBits j1.fpstat.toNat 12 8 (bits (recNat bs 0x80048 8) 12 8)) }
        (j2.mDone k).restoreQueue k q).unstalled n .m

/-- The oldest started command goes on: `msave` by a granule, any other to its retirement. Input: `core`. -/
def execMatrixCommandRetire (s : State) : Result :=
  runEvent s fun x =>
    match s.job? x.core with
    | none => s
    | some j =>
      match j.mqueue.findIdx? (·.started) with
      | none => s
      | some k =>
        match j.mqueue[k]? with
        | none => s
        | some c =>
          match c.instr with
          | .msave f => s.mSavePart x.core k j c f
          | .mrestore f => s.mRestoreAll x.core k j c f
          | _ => s.mRetire x.core k j c

end Sys2Proof.Machine
end

