-- ==== Sys2Proof/Machine/Sync.lean ====
section
/-!
DEFINITION. Phasers, semaphores and `calchk` (R398 to R407, R411 to R414), `rdcnt` and `rdcyc` (R416).
-/
namespace Sys2Proof.Machine

/-! The synchronisation engine -/

/-- Resident objects of an engine (R399). -/
def residentMax : Nat := 16384

/-- The failed signaller a phaser is marked with (R407): group index and core of the latest fault of one that is registered. -/
def State.failedPeer (s : State) (p : Phaser) : Option (Nat × Nat) := (s.extra p.ctx).failed.reverse.find? fun f => p.sig.testBit f.1

/-- Mark a phaser whose failed signaller is registered. -/
def State.markFailed (s : State) (p : Phaser) : Phaser :=
  match s.failedPeer p with
  | some f => { p with failed := true, fidx := f.1 }
  | none => p

def State.putPhaser (s : State) (pa : Nat) (p : Phaser) : State := s.writePa pa p.bytes

/-- `ahead(x, y)` of R404: phase `x` is later than phase `y`. -/
def phaseAhead (x y : Nat) : Bool :=
  let d := (x + 2 ^ 32 - y % 2 ^ 32) % 2 ^ 32
  1 ≤ d && d ≤ 2 ^ 31

/-- A waiting word traps instead of completing. -/
def State.grantTrap (s : State) (w : Waiter) (t : Trap) : State :=
  match s.job? w.core with
  | none => s
  | some j =>
    match w.sel with
    | .c => s.cTrap w.core t
    | sel => (s.setJob w.core { j with swait := .none }).takeTrap w.core sel t

/-- The micro-context of a waiter's job, and its group index. -/
def State.waiterCtx (s : State) (w : Waiter) : Nat := ((s.job? w.core).map (·.ctx)).getD 0
def State.waiterGidx (s : State) (w : Waiter) : Nat := ((s.job? w.core).map (·.gidx)).getD 0

/-- Core of the failed signaller a phaser names; free where no fault of this machine marked it. -/
def State.failedCore (s : State) (p : Phaser) : Nat :=
  match (s.extra p.ctx).failed.reverse.find? (·.1 = p.fidx) with
  | some f => f.2
  | none => Config.freeNat s.tick 1 % 128

def capturesAt (s : State) (pa : Nat) : List (Nat × Nat × Monitor) := Sparse.get [] (s.die (paDie pa)).captures pa
def State.setCaptures (s : State) (pa : Nat) (cs : List (Nat × Nat × Monitor)) : State :=
  s.updDie (paDie pa) fun d => { d with captures := Sparse.set [] d.captures pa cs }

/-- The monitors of a mask. -/
def monitorsOf (mask : Nat) : List Nat := (List.range 8).filter mask.testBit

/-- The captures of monitor `m`, by ascending group index (R412). -/
def capturesOf (cs : List (Nat × Nat × Monitor)) (m : Nat) : List Monitor :=
  (List.range 128).flatMap fun g => (cs.filter fun c => c.1 = g && c.2.1 = m).map (·.2.2)

/-- Capture a job's monitors of CALARM at its signal (R411, R413). -/
def State.capture (s : State) (pa g : Nat) (n mask : Nat) : State :=
  match s.job? n with
  | none => s
  | some j => s.setCaptures pa ((capturesAt s pa).filter (fun c => c.1 ≠ g) ++ (monitorsOf mask).map fun m => (g, m, j.mon m))

/-- Release one waiter at a phase end: the checks' results go to its monitors, and a drift traps it (R413). -/
def State.releaseAtEnd (s : State) (rs : List (Nat × CheckResult)) (phase : Nat) (w : Waiter) : State :=
  let s1 := s.updJob w.core fun j => rs.foldl (fun j r => j.setMon r.1 ((j.mon r.1).store r.2)) j
  match rs.find? (·.2.drift) with
  | some r => s1.grantTrap w (trap 0x0D 0 r.1)
  | none => s1.grant w (some (BitVec.ofNat 64 phase))

/-- End the phase where every signaller has arrived (R405): checks, PHASE and ARRMASK, and the release of the waiters whose
phase has now ended. -/
def State.endPhase (s : State) (pa : Nat) (p : Phaser) : State :=
  if p.sig = 0 || p.sig &&& p.arr ≠ p.sig then s.putPhaser pa p
  else
    let cs := capturesAt s pa
    let rs := (monitorsOf p.calarm).map fun m => (m, calCheck (capturesOf cs m))
    let q := { p with phase := (p.phase + 1) % 2 ^ 32, arr := 0 }
    let ws := s.waitersAt pa
    let out (w : Waiter) : Bool := w.kind = .phase && phaseAhead q.phase w.amount
    let s1 := ((s.putPhaser pa q).setCaptures pa []).setWaiters pa (ws.filter fun w => !out w)
    (ws.filter out).foldl (fun s w => s.releaseAtEnd rs q.phase w) s1

/-- A signal of phase `t` by the job on core `n` (R404): a repeated or past signal changes nothing. -/
def State.signal (s : State) (pa : Nat) (p : Phaser) (n g t : Nat) : State :=
  if p.phase = t && !p.arr.testBit g then (s.capture pa g n p.calarm).endPhase pa { p with arr := p.arr ||| 2 ^ g } else s

/-- What the first waiter that need not wait any longer does. -/
inductive Settle where
  | trap (w : Waiter) (t : Trap)
  | signal (w : Waiter) (p : Phaser)
  | finish (w : Waiter) (v : Nat)
  | units
  | none

/-- Find it (R403, R404, R407): against a record that is not the waiter's kind of object, its word traps (R400, R401). -/
def State.nextSettled (s : State) (pa : Nat) : Settle :=
  let ws := s.waitersAt pa
  match s.record pa with
  | .sem c =>
    match ws.find? (·.kind ≠ .units), ws with
    | some w, _ => .trap w (trap 0x03 w.va w.aux)
    | none, w :: _ => if w.amount ≤ c then .units else .none
    | none, [] => .none
  | .phaser p =>
    match ws.find? (fun w => w.kind = .units || s.waiterCtx w ≠ p.ctx) with
    | some w => .trap w (trap 0x03 w.va w.aux)
    | none =>
      match ws, p.failed with
      | w :: _, true => .trap w (trap 0x0E w.va (s.failedCore p))
      | _, _ =>
        match ws.find? (fun w => if w.kind = .phase then phaseAhead p.phase w.amount else !phaseAhead w.amount p.phase) with
        | some w => if w.kind = .phase then .finish w p.phase else .signal w p
        | none => .none
  | _ =>
    match ws with
    | w :: _ => .trap w (trap 0x03 w.va w.aux)
    | [] => .none

/-- Serve the waiters of an object against its record, until each of the rest has to wait. -/
def State.settleObject : Nat → State → Nat → State
  | 0, s, _ => s
  | k + 1, s, pa =>
    let ws := s.waitersAt pa
    match s.nextSettled pa with
    | .none => s
    | .units => State.grantUnits ws.length s pa
    | .trap w t => State.settleObject k ((s.setWaiters pa (ws.erase w)).grantTrap w t) pa
    | .finish w v => State.settleObject k ((s.setWaiters pa (ws.erase w)).grant w (some (BitVec.ofNat 64 v))) pa
    | .signal w p =>
      let g := s.waiterGidx w
      if w.kind = .signalThenWait then
        let s1 := s.setWaiters pa (ws.map fun x => if x = w then { w with kind := .phase } else x)
        State.settleObject k (s1.signal pa p w.core g w.amount) pa
      else
        let s1 := (s.setWaiters pa (ws.erase w)).signal pa p w.core g w.amount
        let v := match s1.record pa with
          | .phaser q => q.phase
          | _ => p.phase
        State.settleObject k (s1.grant w (some (BitVec.ofNat 64 v))) pa

/-- Every waiter is served at most twice: once to signal, once to leave. -/
def State.settle (s : State) (pa : Nat) : State := State.settleObject (2 * (s.waitersAt pa).length) s pa

/-- The record an engine has loaded (R400, R405, R407): a phaser of a failed signaller is marked, one whose signallers have all arrived
ends its phase, and the waiters are evaluated against what it holds. -/
def State.evaluate (s : State) (pa : Nat) : State :=
  match s.record pa with
  | .phaser p =>
    if (s.failedPeer p).isSome then
      let s1 := (s.putPhaser pa (s.markFailed p)).settle pa
      s1.endPhase pa (s.markFailed p)
    else (s.endPhase pa p).settle pa
  | _ => s.settle pa

/-- A synchronisation word reaches an object (R399, R400): one that is not resident is loaded and evaluated; the least recently used
one without waiters makes room. -/
def State.syncLoad (s : State) (pa : Nat) : State :=
  let d := s.die (paDie pa)
  let touch (r : List Byte) (s : State) : State := s.updDie (paDie pa) fun d =>
    let rest := d.objects.filter (·.1 ≠ pa)
    let kept := if rest.length < residentMax then rest
      else match rest.find? (fun o => (Sparse.get [] d.waiters o.1).isEmpty) with
        | some o => rest.erase o
        | none => rest
    { d with objects := kept ++ [(pa, r)] }
  match d.objects.find? (·.1 = pa) with
  | some o => touch o.2 s
  | none => (touch (s.readPa pa 64) s).evaluate pa

/-- Where a word's object lies (R398): the checks of a write to its record. -/
def State.objectAt (s : State) (n : Nat) (j : Job) (va : Nat) : Access Nat :=
  match addressTrap .write va 64 with
  | some t => .trap t.cause t.addr t.aux
  | none =>
    match s.span n j.ctx j.wid j.conf .write va 64 with
    | .at ((pa, _) :: _) => .ok pa
    | .at [] => .trap 0x07 va (accessAux .write false 0)
    | .stall a => .stall a
    | .register ps => .trap 0x08 va (accessAux .write true (ownState (s.ownerAt (registerPa ps))))
    | .trap c a x => .trap c a x

/-- Run a synchronisation word on its object: the address checks, then the load, then the word (R398 to R401), once no earlier access of
its class is left to perform: a signal is a release (R271, R283). -/
def runSync (i : Instr) (f : SX) (s : State) (body : State → Nat → Sel → Job → (va pa : Nat) → Act) : Result :=
  runWord i f.g [f.d.toNat, f.a.toNat, f.b.toNat] [] s fun n sel j =>
    let va := (j.rs f.a.toNat).toNat
    match s.objectAt n j va with
    | .stall a => .stall a .write
    | .trap c a x => .trap (trap c a x) s
    | .ok pa => if s.down 0x05 (paDie pa) || s.heldLine [(pa, 64)] || s.behind n sel f.cls.toNat none then .wait else
      let s1 := s.syncLoad pa
      match s1.job? n with
      | some j1 => if j1.mayIssue sel then body s1 n sel j1 va pa else .stay s1
      | none => .stay s1

/-- The word joins its object's queue and holds there, unless it can complete at once. -/
def State.enqueue (s : State) (pa : Nat) (w : Waiter) : State :=
  ((s.updJob w.core fun j => if w.sel = .c then j else { j with swait := .object pa }).setWaiters pa
    (s.waitersAt pa ++ [w])).settle pa

/-! Semaphores (R403) -/

/-- `n` of a semaphore word: `s[B]` or IMM. -/
def semAmount (f : SX) (j : Job) : Nat := if f.b.toNat = 0 then f.imm.toNat else (j.rs f.b.toNat).toNat

/-- `sems`: add `n` units, then the waiters take theirs; none where the record is no semaphore or the sum is too great. -/
def State.semAdd (s : State) (pa n : Nat) : Option State :=
  let c := match s.record pa with
    | .sem c => some c
    | .blank => some 0
    | _ => none
  match c with
  | some c => if c + n < 2 ^ 32 then some ((s.writePa pa (semBytes (c + n))).settle pa) else none
  | none => none

/-- `semw`: join the queue of a semaphore, which a blank record becomes. -/
def State.semTake (s : State) (pa : Nat) (w : Waiter) : Option State :=
  match s.record pa with
  | .sem _ => some (s.enqueue pa w)
  | .blank => some ((s.writePa pa (semBytes 0)).enqueue pa w)
  | _ => none

def runSemw (i : Instr) (f : SX) (s : State) : Result :=
  runSync i f s fun s n sel j va pa =>
    let k := semAmount f j
    if k = 0 || k ≥ 2 ^ 32 then .trap (wordTrap 0x03 va i) s
    else
      match s.semTake pa ⟨n, sel, .units, k, 0, va, i.bits / 2 ^ 32⟩ with
      | some s1 => .stay s1
      | none => .trap (wordTrap 0x03 va i) s

def runSems (i : Instr) (f : SX) (s : State) : Result :=
  runSync i f s fun s _ _ j va pa =>
    let k := semAmount f j
    if k = 0 || k ≥ 2 ^ 32 then .trap (wordTrap 0x03 va i) s
    else
      match s.semAdd pa k with
      | some s1 => .done s1 0
      | none => .trap (wordTrap 0x03 va i) s

def execSemwReg (f : SX) (s : State) : Result := runSemw (.semwReg f) f s
def execSemwImm (f : SX) (s : State) : Result := runSemw (.semwImm f) f s
def execSemsReg (f : SX) (s : State) : Result := runSems (.semsReg f) f s
def execSemsImm (f : SX) (s : State) : Result := runSems (.semsImm f) f s

/-! Phasers (R404) -/

/-- Run a phaser word: the record must be a phaser of the job's micro-context; `phreg` makes a blank one. -/
def runPhaser (i : Instr) (f : SX) (s : State) (body : State → Nat → Sel → Job → (va pa : Nat) → Phaser → Act) : Result :=
  runSync i f s fun s n sel j va pa =>
    let p := match s.record pa, i with
      | .phaser p, _ => some p
      | .blank, .phreg _ => some ⟨0, j.ctx, 0, false, 0, 0, 0, 0⟩
      | _, _ => none
    match p with
    | some p => if p.ctx = j.ctx then body s n sel j va pa p else .trap (wordTrap 0x03 va i) s
    | none => .trap (wordTrap 0x03 va i) s

def phMode (f : SX) : Nat := f.imm.toNat % 4
def phArm (f : SX) : Nat := f.imm.toNat / 256 % 256

def execPhreg (f : SX) (s : State) : Result :=
  runPhaser (.phreg f) f s fun s n _ j va pa p =>
    let sg := bit (phMode f) 0
    let wt := bit (phMode f) 1
    if phMode f = 0 || (sg && p.sig.testBit j.gidx) || (wt && p.wait.testBit j.gidx) then .trap (wordTrap 0x03 va (.phreg f)) s
    else
      let q := { p with sig := if sg then p.sig ||| 2 ^ j.gidx else p.sig, wait := if wt then p.wait ||| 2 ^ j.gidx else p.wait,
                        calarm := p.calarm ||| phArm f }
      .done ((s.putPhaser pa q).updJob n (·.ws f.d.toNat (BitVec.ofNat 64 q.phase))) 0

/-- Clear bit `g` of a mask. -/
def clearBit (m g : Nat) : Nat := if m.testBit g then m - 2 ^ g else m

/-- `phdrop`: the captures of a dropped signaller go with it; the phase may end. -/
def execPhdrop (f : SX) (s : State) : Result :=
  runPhaser (.phdrop f) f s fun s _ _ j va pa p =>
    let sg := bit (phMode f) 0
    let wt := bit (phMode f) 1
    let g := j.gidx
    if phMode f = 0 || (sg && !p.sig.testBit g) || (wt && !p.wait.testBit g) then .trap (wordTrap 0x03 va (.phdrop f)) s
    else
      let q := { p with sig := if sg then clearBit p.sig g else p.sig, arr := if sg then clearBit p.arr g else p.arr,
                        wait := if wt then clearBit p.wait g else p.wait, calarm := p.calarm &&& (255 - phArm f) }
      let s1 := if sg then s.setCaptures pa ((capturesAt s pa).filter (·.1 ≠ g)) else s
      .done ((s1.endPhase pa q).settle pa) 0

/-- A signalling or waiting word: FAILED, then its role, then its place in the queue. -/
def runPhase (i : Instr) (f : SX) (kind : WaitKind) (role : Phaser → Nat → Bool) (s : State) : Result :=
  runPhaser i f s fun s n sel j va pa p =>
    if kind = .signalThenWait && !role p j.gidx then .trap (wordTrap 0x03 va i) s
    else if p.failed then .trap (trap 0x0E va (s.failedCore p)) s
    else if !role p j.gidx then .trap (wordTrap 0x03 va i) s
    else .stay (s.enqueue pa ⟨n, sel, kind, (j.rs f.b.toNat).toNat % 2 ^ 32, f.d.toNat, va, i.bits / 2 ^ 32⟩)

def execPhsig (f : SX) (s : State) : Result := runPhase (.phsig f) f .signal (fun p g => p.sig.testBit g) s
def execPhwait (f : SX) (s : State) : Result := runPhase (.phwait f) f .phase (fun p g => p.wait.testBit g) s
def execPhsw (f : SX) (s : State) : Result :=
  runPhase (.phsw f) f .signalThenWait (fun p g => p.sig.testBit g && p.wait.testBit g) s

/-! `calchk` (R414) and the counters (R416) -/

/-- The jobs of a micro-context's group. -/
def State.groupJobs (s : State) (ctx : Nat) : List Job := (s.coresOf ctx).filterMap s.job?

/-- A copy command whose writes monitors count (R410). -/
def countedCopy : Instr → Bool
  | .cp _ | .cpr _ | .cpt _ | .cptw _ | .cpfill _ | .fget _ | .cgsum _ | .fsum _ => true
  | _ => false

/-- `calchk` waits for the copy command in flight whose writes the monitors count; every S store has performed. -/
def execCalchk (f : SX) (s : State) : Result :=
  runWord (.calchk f) f.g [f.d.toNat] [] s fun n _ j =>
    let mask := f.imm.toNat % 256
    let ms := monitorsOf mask
    if mask = 0 || ms.any (fun m => !(j.mon m).en) then .trap (wordTrap 0x03 0 (.calchk f)) s
    else if j.ccmd.any fun c => countedCopy c.instr then .wait
    else
      let js := s.groupJobs j.ctx
      let cs := js.flatMap fun k => ms.map fun m => (k.gidx, m, k.mon m)
      let rs := ms.map fun m => (m, calCheck (capturesOf cs m))
      let s1 := s.updJob n fun j => rs.foldl (fun j r => j.setMon r.1 ((j.mon r.1).store r.2)) j
      match rs.find? (·.2.drift) with
      | some r => .trap (trap 0x0D 0 r.1) s1
      | none => .done (s1.updJob n (·.ws f.d.toNat (BitVec.ofNat 64 mask))) 0

/-- The counter an index of `rdcnt` names (R416); none for an index that is not listed. -/
def State.counter (s : State) (d ctx idx : Nat) : Option Nat :=
  let occ (i : Nat) : Nat := (s.slice d i).occupancy ctx
  match idx with
  | 0 => some (if bit (s.blk ctx 0) 56 then s.blkBits ctx 0x68 31 0 else 0)
  | 1 => some (s.blkBits ctx 0x68 47 32)
  | 2 => some (s.blk ctx 0x140)
  | 3 => some (s.blk ctx 0x70)
  | 0x40 => some (((List.range 32).map occ).sum)
  | _ => if 0x20 ≤ idx && idx < 0x40 then some (occ (idx - 0x20)) else none

def execRdcnt (f : SX) (s : State) : Result :=
  runWord (.rdcnt f) f.g [f.d.toNat] [] s fun n _ j =>
    if f.idx.toNat < 4 && !(s.die (homeDie j.ctx)).alive then .wait
    else match s.counter (n / 16) j.ctx f.idx.toNat with
    | some v => .done (s.updJob n (·.ws f.d.toNat (BitVec.ofNat 64 v))) 0
    | none => .trap (wordTrap 0x01 0 (.rdcnt f)) s

def execRdcyc (f : SX) (s : State) : Result :=
  runWord (.rdcyc f) f.g [f.d.toNat] [] s fun n _ _ =>
    .done (s.updJob n (·.ws f.d.toNat (BitVec.ofNat 64 (s.cycle (n / 16))))) 0

end Sys2Proof.Machine
end

