-- ==== Sys2Proof/Machine/Copy.lean ====
section
/-!
DEFINITION. The C words and their commands: issue, start, granules, retirement, the fabric and cold start (R238 to R254, R260 to
R264).
-/
namespace Sys2Proof.Machine

/-! Issue (R247) -/

/-- The CC fields of a copy word. -/
def ccOf : Instr → Option CC
  | .cp f | .cpr f | .cpt f | .cptw f | .cpfill f | .csem f | .csemw f | .ringbind f | .bobbind f | .unbind f | .ringfill f
  | .fget f | .fput f | .cgsum f | .fsum f | .cprime f => some f
  | _ => none

/-- The target codes a row accepts (R251). -/
def targetOk (i : Instr) (f : CC) : Bool :=
  match i with
  | .cpr _ => f.tgt.toNat < 8
  | .ringbind _ => f.tgt.toNat < 8
  | .ringfill _ => f.tgt.toNat < 8
  | .bobbind _ => f.tgt.toNat ≥ 8
  | _ => true

/-- The scalars of a word that hold copy endpoints (R251). -/
def endpointFields (i : Instr) (sa sd : Nat) : List Nat :=
  match i with
  | .cp _ => [sa, sd]
  | .cpr _ => [sa]
  | .cpt _ => [sd]
  | .cptw _ => [sa]
  | .cpfill _ => [sd]
  | .fget _ => [sd]
  | .fput _ => [sa]
  | .cgsum _ => [sd]
  | .fsum _ => [sa, sd]
  | _ => []

/-- A tile endpoint whose LAST lies below its first tile (R238). -/
def tileEndBad (x : Nat) : Bool :=
  match Endpoint.ofNat x with
  | some p => p.kind = .tile && p.last < p.base / tileBytes
  | none => false

/-- Issue a C word: the previous command has retired, its scalars are free, no M lease covers its tiles; its token becomes
pending (R95, R247). A command that a trap stopped issues again with the scalars it read first (R248). -/
def runC (i : Instr) (f : CC) (s : State) : Result :=
  runWord i f.g [f.tok.toNat, f.sa.toNat, f.sd.toNat, f.recd.toNat, f.aux.toNat] [] s fun n _ j =>
    let st := j.streams.c
    let sect := hSect (st.header.getD 0).toNat
    let fresh : CCommand :=
      { instr := i, started := false, bytes := 0, sa := j.rs f.sa.toNat, sd := j.rs f.sd.toNat, recd := j.rs f.recd.toNat,
        aux := j.rs f.aux.toNat, record := [], sect := sect, word := st.word, held := false, members := [], flags := 0 }
    let c := match j.ccmd with
      | some c => if c.held && c.sect = sect && c.word = st.word && c.instr = i then { c with held := false } else fresh
      | none => fresh
    let busy := match j.ccmd with
      | some c => !c.held
      | none => false
    if busy then .wait
    else if !targetOk i f then .trap (wordTrap 0x03 0 i) s
    else
      match (endpointFields i c.sa.toNat c.sd.toNat).find? tileEndBad with
      | some x => .trap (wordTrap 0x03 x i) s
      | none =>
        if (copyTiles i c.sa.toNat c.sd.toNat).any j.mTiles.contains then .wait
        else .done (s.setJob n ({ j with ccmd := some c }.setPendS f.tok.toNat true)) 1

def execCp (f : CC) (s : State) : Result := runC (.cp f) f s
def execCpr (f : CC) (s : State) : Result := runC (.cpr f) f s
def execCpt (f : CC) (s : State) : Result := runC (.cpt f) f s
def execCptw (f : CC) (s : State) : Result := runC (.cptw f) f s
def execCpfill (f : CC) (s : State) : Result := runC (.cpfill f) f s
def execCsem (f : CC) (s : State) : Result := runC (.csem f) f s
def execCsemw (f : CC) (s : State) : Result := runC (.csemw f) f s
def execRingbind (f : CC) (s : State) : Result := runC (.ringbind f) f s
def execBobbind (f : CC) (s : State) : Result := runC (.bobbind f) f s
def execUnbind (f : CC) (s : State) : Result := runC (.unbind f) f s
def execRingfill (f : CC) (s : State) : Result := runC (.ringfill f) f s
def execFget (f : CC) (s : State) : Result := runC (.fget f) f s
def execFput (f : CC) (s : State) : Result := runC (.fput f) f s
def execCgsum (f : CC) (s : State) : Result := runC (.cgsum f) f s
def execFsum (f : CC) (s : State) : Result := runC (.fsum f) f s
def execCprime (f : CC) (s : State) : Result := runC (.cprime f) f s

/-! Reading and writing the three kinds of space -/

/-- What a part of a command meets. -/
inductive CAct (α : Type) where
  | ok (x : α)
  | wait
  | stall (va : Nat) (k : AccessKind)
  | trap (t : Trap)

def CAct.bind {α β : Type} (x : CAct α) (f : α → CAct β) : CAct β :=
  match x with
  | .ok a => f a
  | .wait => .wait
  | .stall va k => .stall va k
  | .trap t => .trap t

def Access.copied {α : Type} (x : Access α) (k : AccessKind) : CAct α :=
  match x with
  | .ok a => .ok a
  | .stall va => .stall va k
  | .trap c a x => .trap (Machine.trap c a x)

/-- `n` bytes of the tile file from byte `o`, as a number (R238). -/
def Job.fileNat (j : Job) (o n : Nat) : Nat :=
  let first := o / tileBytes
  let last := (o + n - 1) / tileBytes
  let x := (List.range (last + 1 - first)).foldl (fun a k => a + j.tile (first + k) * 2 ^ (8 * tileBytes * k)) 0
  x / 2 ^ (8 * (o - first * tileBytes)) % 2 ^ (8 * n)

/-- Write bytes to the tile file. -/
def Job.fileWrite (j : Job) (o : Nat) (bs : List Byte) : Job :=
  let first := o / tileBytes
  let last := (o + bs.length - 1) / tileBytes
  (List.range (last + 1 - first)).foldl (fun j k =>
    let t := first + k
    let lo := if k = 0 then o - first * tileBytes else 0
    let part := (bs.drop (if k = 0 then 0 else t * tileBytes - o)).take (tileBytes - lo)
    let old := j.tile t
    let m := 2 ^ (8 * part.length) - 1
    j.setTile t (old - old / 2 ^ (8 * lo) % (m + 1) * 2 ^ (8 * lo) + leNat part * 2 ^ (8 * lo))) j

/-- Read `n` bytes of a space for the job on core `n`. -/
def State.spaceRead (s : State) (core : Nat) (j : Job) (k : EndKind) (o n : Nat) : CAct (Nat × State) :=
  match k with
  | .pad => if s.padStalls core o n then .wait else .ok (j.padNat o n, s)
  | .tile => .ok (j.fileNat o n, s)
  | .remote => .ok (0, s)
  | .tensor => ((s.tensorLoad j o n).copied .read).bind fun r => .ok (leNat r.1, r.2)
  | _ => ((s.jobLoad j o n).copied .read).bind fun r => .ok (leNat r.1, r.2)

/-- Runs of consecutive elements of one width: first bit and number of elements, in walk order. -/
def runsOf (w : Nat) (bs : List Nat) : List (Nat × Nat) :=
  (bs.foldl (fun (acc : List (Nat × Nat)) b => match acc with
    | (s, k) :: r => if s + k * w = b then (s, k + 1) :: r else (b, 1) :: acc
    | [] => [(b, 1)]) []).reverse

/-- First byte and number of bytes of a run of bits. -/
def runBytes (w : Nat) (r : Nat × Nat) : Nat × Nat := (r.1 / 8, ceilDiv (r.1 + r.2 * w) 8 - r.1 / 8)

/-- Read elements of one side, in walk order. -/
def State.readElems (s : State) (core : Nat) (j : Job) (k : EndKind) (w : Nat) (bs : List Nat) : CAct (List Nat × State) :=
  (runsOf w bs).foldl (fun (acc : CAct (List Nat × State)) r =>
    acc.bind fun (xs, s) =>
      let b := runBytes w r
      (s.spaceRead core j k b.1 b.2).bind fun (x, s1) =>
        .ok (xs ++ (List.range r.2).map fun e => x / 2 ^ (r.1 % 8 + e * w) % 2 ^ w, s1)) (.ok ([], s))

/-- The bytes a run of elements leaves, the bits it does not cover from what the space holds. -/
def mixRun (w : Nat) (r : Nat × Nat) (old : Nat) (xs : List Nat) : List Byte :=
  let b := runBytes w r
  let lo := r.1 % 8
  let m := 2 ^ (r.2 * w) - 1
  leBytes b.2 (old - old / 2 ^ lo % (m + 1) * 2 ^ lo + packLanes w xs * 2 ^ lo)

/-- What a run of a write covers: the space can take it. -/
def State.writeMeets (s : State) (core : Nat) (j : Job) (k : EndKind) (o n : Nat) : CAct Unit :=
  match k with
  | .pad => if s.padStalls core o n then .wait else .ok ()
  | .tile => .ok ()
  | .remote => .ok ()
  | _ =>
    match s.span core j.ctx j.wid j.conf .write o n with
    | .at ps => if s.heldLine ps then .wait else .ok ()
    | .register _ => .ok ()
    | .stall a => .stall a .write
    | .trap c a x => .trap (trap c a x)

/-- The bytes a space holds where a run covers them in part. -/
def State.spaceOld (s : State) (core : Nat) (j : Job) (k : EndKind) (o n : Nat) : Nat :=
  match k with
  | .pad => j.padNat o n
  | .tile => j.fileNat o n
  | .remote => 0
  | _ =>
    match s.span core j.ctx j.wid j.conf .write o n with
    | .at ps => leNat (s.readPieces ps)
    | _ => 0

/-- Write bytes to a space; a write to a virtual address, through a handle too, is observed by the job's monitors, but that of an
`fput` (R410). -/
def State.spaceWrite (s : State) (core : Nat) (k : EndKind) (o : Nat) (bs : List Byte) : State :=
  match s.job? core with
  | none => s
  | some j =>
    match k with
    | .pad => s.setJob core (j.padWrite o bs)
    | .tile => s.setJob core (j.fileWrite o bs)
    | .remote => s
    | .va =>
      match s.jobStore j o bs with
      | .ok s1 => s1.updJob core (·.observe o bs)
      | _ => s
    | .tensor =>
      match s.tensorStore j o bs with
      | .ok s1 => s1.updJob core (·.observe o bs)
      | _ => s
    | .fabric =>
      match s.jobStore j o bs with
      | .ok s1 => s1
      | _ => s

/-- Write elements to one side in walk order: every check first, then every write (R248). -/
def State.writeElems (s : State) (core : Nat) (j : Job) (k : EndKind) (w : Nat) (bs xs : List Nat) : CAct State :=
  let rs := runsOf w bs
  (rs.foldl (fun (acc : CAct Unit) r => acc.bind fun _ => s.writeMeets core j k (runBytes w r).1 (runBytes w r).2) (.ok ())).bind fun _ =>
    .ok (rs.foldl (fun (a : State × List Nat) r =>
      let b := runBytes w r
      let old := if w % 8 = 0 then 0 else match a.1.job? core with
        | some j => a.1.spaceOld core j k b.1 b.2
        | none => 0
      (a.1.spaceWrite core k b.1 (mixRun w r old (a.2.take r.2)), a.2.drop r.2)) (s, xs)).1

/-! The plan of a running command -/

/-- What a running command moves: its sides, where it has both, and its element types. -/
structure CopyPlan where
  exts : List Nat
  src  : Option Side
  dst  : Option Side
  st   : Nat
  dt   : Nat
deriving DecidableEq, Repr

/-- The endpoint of a virtual address (R260, R261). -/
def vaEnd (x : Nat) : Endpoint := ⟨.va, x % 2 ^ 52, 0⟩

/-- The endpoint behind a tensor handle (R244). -/
def tensorEnd (x : Nat) : Endpoint := ⟨.tensor, x % 2 ^ 52, 0⟩

/-- The ring entry a fill writes: the one at TAIL (R253). -/
def Job.fillEnd (j : Job) (t : Nat) : Endpoint := ⟨.pad, (j.ring t).entryAt (j.ring t).tail, 0⟩

/-- The endpoint a fabric address names: on this device, or on another (R260). -/
def fabricEnd (x : Nat) : Endpoint := ⟨if bits x 61 52 = Config.deviceNumber then .fabric else .remote, x % 2 ^ 52, 0⟩

/-- The sides of a command whose record is `r`. -/
def Job.copyPlan (j : Job) (c : CCommand) (f : CC) (r : List Byte) : CopyPlan :=
  let st := f.ty.toNat
  let dt := f.dty.toNat
  let e (x : Word) : Option Endpoint := Endpoint.ofNat x.toNat
  let side (p : Option Endpoint) (k w : Nat) : Option Side := p.map fun p => ⟨p, recStrides r k, w⟩
  let src := match c.instr with
    | .cpfill _ => Option.none
    | .fget _ => some (fabricEnd c.sa.toNat)
    | .cgsum _ => some (vaEnd c.sa.toNat)
    | .cpt _ => some (tensorEnd c.sa.toNat)
    | .ringfill _ => some (tensorEnd c.sa.toNat)
    | _ => e c.sa
  let dst := match c.instr with
    | .cpr _ => some (j.fillEnd f.tgt.toNat)
    | .ringfill _ => some (j.fillEnd f.tgt.toNat)
    | .cptw _ => some (tensorEnd c.sd.toNat)
    | .fput _ => some (fabricEnd c.sd.toNat)
    | _ => e c.sd
  ⟨recExts r, side src 1 (tyWidth st), side dst 2 (tyWidth dt), st, dt⟩

def CopyPlan.count (p : CopyPlan) : Nat := walkCount p.exts
/-- Bytes of the destination (R248). -/
def CopyPlan.bytes (p : CopyPlan) : Nat := ceilDiv (p.count * tyWidth p.dt) 8
/-- Elements of granule `g`: those that begin in it. -/
def CopyPlan.granule (p : CopyPlan) (g : Nat) : List Nat :=
  let w := tyWidth p.dt
  let lo := ceilDiv (g * 32768) w
  (List.range (min p.count (ceilDiv ((g + 1) * 32768) w) - lo)).map (lo + ·)

/-! Start (R239 to R246, R253 to R256) -/

/-- Read a record of 128 bytes (R239, R241): its address and its bytes. -/
def State.readRecord (s : State) (core : Nat) (j : Job) (i : Instr) (pattern : Bool) (x : Nat) :
    CAct (Nat × List Byte × State) :=
  let bad (a : Nat) : CAct (Nat × List Byte × State) := .trap (wordTrap 0x03 a i)
  match Endpoint.ofNat x with
  | none => bad x
  | some p =>
    if p.kind = .tile || (pattern && p.kind ≠ .pad) then bad x
    else if p.base % 16 ≠ 0 then .trap (trap 0x06 p.base 0)
    else if p.kind = .pad && p.base + 128 > padBytes then bad x
    else
      (s.spaceRead core j p.kind p.base 128).bind fun (v, s1) =>
        if recOk pattern (leBytes 128 v) then .ok (p.base, leBytes 128 v, s1) else bad p.base

/-- The record a command names, of kind 0x51, or 0x53 where it takes a window. -/
def State.readKind (s : State) (core : Nat) (j : Job) (i : Instr) (kind x : Nat) : CAct (Nat × List Byte × State) :=
  (s.readRecord core j i false x).bind fun (a, r, s1) =>
    if recKind r = kind then .ok (a, r, s1) else .trap (wordTrap 0x03 a i)

/-- The shape record behind a tensor handle (R243): a whole tensor of element type `t`. -/
def State.readShape (s : State) (core : Nat) (j : Job) (i : Instr) (t x : Nat) : CAct (List Byte × State) :=
  if x ≥ 2 ^ 52 then .trap (wordTrap 0x03 x i)
  else
    (s.readKind core j i 0x52 x).bind fun (a, r, s1) =>
      if recType r = t && shapeLegal (tyWidth t) r then .ok (r, s1) else .trap (wordTrap 0x03 a i)

/-- HASH of a shape record against the hash of the shared segment its first page belongs to (R245). -/
def State.hashOk (s : State) (core : Nat) (j : Job) (shape : List Byte) : Bool :=
  let hash := (shape.drop 0x40).take 48
  let va := recNat shape 0x08 8
  if leNat hash = 0 then true
  else
    match s.leafOf core j.ctx va with
    | none => true
    | some l =>
      let pa := l.pa + va % 2 ^ l.size
      ownState (s.ownerAt pa) ≠ ownShared ||
        (s.hub.shared.find? (fun g => g.frames.contains (pa / frameBytes))).any (fun g => g.hash = hash)

/-- The trap of R245: cause 0x09 at the segment. -/
def hashTrap (shape : List Byte) (write : Bool) : Trap :=
  trap 0x09 (recNat shape 0x08 8) (accessAux (if write then .write else .read) false ownShared)

/-- The tensor-store engine of the segment's base die is in reset (R245, R428). -/
def State.storeDown (s : State) (core : Nat) (j : Job) (shape : List Byte) : Bool :=
  !s.platform.resets.isEmpty && match s.leafOf core j.ctx (recNat shape 0x08 8) with
    | some l => (paTier l.pa = 1 || paTier l.pa = 2) && s.down 0x06 (2 * paDie l.pa + paTier l.pa - 1)
    | none => false

/-- A handle and a window become the tensor side's base and the equivalent record (R244). -/
def State.readTensor (s : State) (core : Nat) (j : Job) (i : Instr) (t : Nat) (tensorIsSource : Bool) (handle recd : Nat) :
    CAct (Nat × List Byte × State) :=
  let w := tyWidth t
  (s.readShape core j i t handle).bind fun (shape, s1) =>
    (s1.readKind core j i 0x53 recd).bind fun (a, win, s2) =>
      if !windowLegal w shape win then .trap (wordTrap 0x03 a i)
      else if s2.storeDown core j shape then .wait
      else if !s2.hashOk core j shape then .trap (hashTrap shape !tensorIsSource)
      else .ok (tensorBase w shape win, equivalentRecord w shape win tensorIsSource, s2)

/-- The checks of R240 and R242 on a plan whose record lies at `a`; `room` bounds the destination of a ring fill (R253). -/
def planTrap (i : Instr) (a : Nat) (p : CopyPlan) (room : Option Nat) : Option Trap :=
  let sides := p.src.toList ++ p.dst.toList
  let hull (s : Side) : Int × Int := s.hull p.exts
  let at_ (x : Int) : Nat := wrapTo 64 x
  if !walkLegal p.exts sides then some (wordTrap 0x03 a i)
  else
    match sides.find? (!·.aligned) with
    | some x => some (trap 0x06 x.at_.base 0)
    | none =>
      match sides.find? (fun x => !x.fits (hull x)) with
      | some x => some (wordTrap 0x03 (at_ (hull x).1) i)
      | none =>
        match room, p.dst, p.src with
        | some n, some d, _ =>
          if (hull d).1 < d.at_.base || (hull d).2 ≥ ((d.at_.base + n : Nat) : Int) then some (wordTrap 0x03 (at_ (hull d).1) i)
          else match p.src with
            | some x => if hullsMeet x d (hull x) (hull d) then some (wordTrap 0x03 (at_ (hull d).1) i) else none
            | none => none
        | none, some d, some x => if hullsMeet x d (hull x) (hull d) then some (wordTrap 0x03 (at_ (hull d).1) i) else none
        | _, _, _ => none

/-- A fabric address of the form of R260. -/
def fabricForm (x : Nat) : Bool := x < 2 ^ 62

/-- What another device answers to an access (R260, R261): it performs, or it refuses with a cause of its own. -/
def State.remoteRefuses (s : State) (x : Nat) : Option Trap :=
  let c := Config.freeNat s.tick 10
  if c = 0x17 then some (trap 0x17 x 0x20)
  else if 0x07 ≤ c && c ≤ 0x0A then some (trap c x (Config.freeNat s.tick 11 % 2 ^ 64))
  else none

/-- The start of a command that walks: its record, its sides, its checks. -/
def State.startWalk (s : State) (core : Nat) (j : Job) (c : CCommand) (f : CC) : CAct (State × CCommand) :=
  let i := c.instr
  let recd := c.recd.toNat
  let finish (s : State) (a : Nat) (r : List Byte) (c : CCommand) (room : Option Nat) : CAct (State × CCommand) :=
    match planTrap i a (j.copyPlan c f r) room with
    | some t => .trap t
    | none => .ok (s, { c with record := r, started := true })
  let plain (s : State) (c : CCommand) (room : Option Nat) : CAct (State × CCommand) :=
    (s.readKind core j i 0x51 recd).bind fun (a, r, s1) => finish s1 a r c room
  let ends := endpointFields i c.sa.toNat c.sd.toNat
  let ringGate (k : Unit → CAct (State × CCommand)) : CAct (State × CCommand) :=
    let t := f.tgt.toNat
    let r := j.ring t
    if !r.bound || (j.binding t).pat || r.exh then .trap (trap 0x10 0 t)
    else if r.count = r.size then .wait
    else k ()
  match ends.find? (fun x => (Endpoint.ofNat x).isNone) with
  | some x => .trap (wordTrap 0x03 x i)
  | none =>
    match i with
    | .cpr _ => ringGate fun _ => plain s c (some (j.ring f.tgt.toNat).entryBytes)
    | .ringfill _ => ringGate fun _ =>
        (s.readTensor core j i f.ty.toNat true c.sa.toNat recd).bind fun (b, r, s1) =>
          finish s1 recd r { c with sa := BitVec.ofNat 64 b } (some (j.ring f.tgt.toNat).entryBytes)
    | .cpt _ => (s.readTensor core j i f.ty.toNat true c.sa.toNat recd).bind fun (b, r, s1) =>
        finish s1 recd r { c with sa := BitVec.ofNat 64 b } none
    | .cptw _ => (s.readTensor core j i f.dty.toNat false c.sd.toNat recd).bind fun (b, r, s1) =>
        finish s1 recd r { c with sd := BitVec.ofNat 64 b } none
    | .fget _ => if fabricForm c.sa.toNat then plain s c none else .trap (wordTrap 0x03 c.sa.toNat i)
    | .fput _ => if fabricForm c.sd.toNat then plain s c none else .trap (wordTrap 0x03 c.sd.toNat i)
    | .cgsum _ =>
      match s.groupMembers (c.aux.toNat % 1024) with
      | none => .trap (wordTrap 0x03 0 i)
      | some m => if c.sa.toNat < 2 ^ 52 then plain s { c with members := m } none else .trap (wordTrap 0x03 c.sa.toNat i)
    | .fsum _ =>
      match s.groupMembers (c.aux.toNat % 1024) with
      | none => .trap (wordTrap 0x03 0 i)
      | some m => plain s { c with members := m } none
    | _ => plain s c none

/-! Bindings (R255, R256) -/

/-- The parts of a pattern: the sides of one entry, the memory side's step from entry to entry, the entries (R256). -/
structure Pattern where
  exts    : List Nat
  mem     : Side
  entry   : Side
  step    : Int
  count   : Nat
deriving DecidableEq, Repr

/-- A pattern from its record, or from its window and the shape behind its handle, for elements of width `w`. -/
def patternOf (w : Nat) (recd shape : List Byte) : Option Pattern :=
  let r := if recKind recd = 0x53 then equivalentRecord w shape recd true else recd
  let base := if recKind recd = 0x53 then some (tensorEnd (tensorBase w shape recd)) else Endpoint.ofNat (recNat recd 0x68 8)
  base.map fun b =>
    ⟨(recExts r).dropLast, ⟨b, (recStrides r 1).dropLast, w⟩, ⟨⟨.pad, 0, 0⟩, (recStrides r 2).dropLast, w⟩,
      (recStrides r 1).getLastD 0, (recExts r).getLastD 0⟩

/-- The checks of R240, R242 and R256 on a pattern whose entries hold `room` bytes. -/
def patternTrap (i : Instr) (a : Nat) (w room : Nat) (recd shape : List Byte) : Option Trap :=
  match patternOf w recd shape with
  | none => some (wordTrap 0x03 (recNat recd 0x68 8) i)
  | some p =>
    let exts := p.exts ++ [p.count]
    let whole : Side := { p.mem with strides := p.mem.strides ++ [p.step] }
    let e := p.entry.hull p.exts
    if p.mem.at_.kind = .tile || p.count ≥ 2 ^ 24 || !walkLegal exts [whole, p.entry] then some (wordTrap 0x03 a i)
    else if !whole.aligned then some (trap 0x06 whole.at_.base 0)
    else if !p.entry.aligned then some (trap 0x06 a 0)
    else if !whole.fits (whole.hull exts) then some (wordTrap 0x03 (wrapTo 64 (whole.hull exts).1) i)
    else if e.1 < 0 || e.2 ≥ room then some (wordTrap 0x03 a i)
    else none

/-- Read a pattern record and, for KIND 0x53, the shape record behind BASE (R256); the pattern's width is `w`, its tensor's type
`t` where one is named. -/
def State.readPattern (s : State) (core : Nat) (j : Job) (i : Instr) (w room : Nat) (t : Option Nat) (x : Nat) :
    CAct (Nat × List Byte × List Byte × State) :=
  (s.readRecord core j i true x).bind fun (a, r, s1) =>
    if recDim r < 2 || recDim r > 4 then .trap (wordTrap 0x03 a i)
    else if recKind r = 0x51 then
      match patternTrap i a w room r [] with
      | some t => .trap t
      | none => .ok (a, r, [], s1)
    else
      let handle := recNat r 0x68 8
      (if handle < 2 ^ 52 then s1.readKind core j i 0x52 handle else .trap (wordTrap 0x03 handle i)).bind fun (b, shape, s2) =>
        let typeOk := match t with
          | some t => recType shape = t
          | none => tyWidth (recType shape) = w
        if !typeOk || !shapeLegal w shape || !windowLegal w shape (r.take 0x68 ++ List.replicate 24 0#8) then
          .trap (wordTrap 0x03 b i)
        else if s2.storeDown core j shape then .wait
        else if !s2.hashOk core j shape then .trap (hashTrap shape (recDrain r))
        else
          match patternTrap i a w room r shape with
          | some t => .trap t
          | none => .ok (a, r, shape, s2)

/-- The binding a bind word makes (R259). -/
def bindingOf (f : CC) (a : Nat) (recd shape : List Byte) : Binding :=
  ⟨recd ≠ [], shape ≠ [], a, f.ty.toNat, f.cls.toNat, f.ord.toNat, f.scope.toNat, f.tok.toNat, 0,
    false, 0, recd, shape, false, none⟩

/-- `ringbind` (R255): the geometry in `s[AUX]`, a pattern or none. -/
def State.bindRing (s : State) (core : Nat) (j : Job) (c : CCommand) (f : CC) : CAct State :=
  let i := c.instr
  let t := f.tgt.toNat
  let g := c.aux.toNat
  let r : Ring := { Ring.idle with trans := bit g 20, bound := true, scl := bits g 19 18, eszm1 := bits g 17 13,
                                   base := bits g 7 0, sizem1 := bits g 12 8 }
  if j.targetBound t then .wait
  else if g ≥ 2 ^ 21 || r.scl > 2 || r.base + r.size * (r.eszm1 + 1 + r.scl) > 192 then .trap (wordTrap 0x03 0 i)
  else if c.recd = 0 then .ok (s.setJob core ((j.setRing t r).setBinding t (bindingOf f 0 [] [])))
  else
    (s.readPattern core j i 8 r.entryBytes none c.recd.toNat).bind fun (a, recd, shape, s1) =>
      if recDrain recd then .trap (wordTrap 0x03 a i)
      else .ok (s1.updJob core fun j => (j.setRing t r).setBinding t (bindingOf f a recd shape))

/-- `bobbind` (R256). -/
def State.bindBobbin (s : State) (core : Nat) (j : Job) (c : CCommand) (f : CC) : CAct State :=
  let t := f.tgt.toNat
  if j.targetBound t then .wait
  else
    (s.readPattern core j c.instr (tyWidth f.ty.toNat) 512 (some f.ty.toNat) c.recd.toNat).bind fun (a, recd, shape, s1) =>
      .ok (s1.updJob core fun j =>
        (j.setBobbin (t - 8) ⟨[], false, recDrain recd, true⟩).setBinding t (bindingOf f a recd shape))

/-- `unbind` (R258): the pattern stops and EXH is set; of an unbound target it has no effect. -/
def Job.unbindTarget (j : Job) (t : Nat) : Job :=
  if j.targetBound t then ((j.setBinding t { j.binding t with stop := true }).setExh t).endBinding t else j

/-! Cold start (R263, R264) -/

/-- An entry of a weight manifest. -/
structure ManifestEntry where
  va    : Nat
  len   : Nat
  hash  : List Byte
  share : Bool

/-- An entry is laid out as R263 says. -/
def manifestEntryOk (b : List Byte) : Bool :=
  let kind := recNat b 0x10 8 % 4
  recNat b 0 8 % frameBytes = 0 && recNat b 0 8 + recNat b 8 8 ≤ 2 ^ 52 && recNat b 8 8 ≠ 0 &&
    ((kind = 0 && recNat b 0x18 8 % 4096 = 0) || kind = 1) && recNat b 0x50 8 ≤ 1 && recNat b 0x58 8 = 0

def manifestEntry (b : List Byte) : ManifestEntry :=
  ⟨recNat b 0 8, recNat b 8 8, (b.drop 0x20).take 48, bit (recNat b 0x50 8) 0⟩

/-- The frames of a segment, by virtual address. -/
def ManifestEntry.pages (e : ManifestEntry) : List Nat := (List.range (ceilDiv e.len frameBytes)).map fun k => e.va + k * frameBytes

/-- Mark one page ARRIVING: it has to be a page the job may write in state OWNED (R264, R325). -/
def State.markArriving (s : State) (core : Nat) (j : Job) (seg va : Nat) : CAct State :=
  match s.reach core j.ctx j.wid j.conf .write va with
  | .at pa =>
    let e := s.ownerAt pa
    if ownPrivate (ownState e) then
      .ok (s.setOwnerTag (paDie pa) (ownerIndex pa)
        (ownMake ownArriving 0 (ownCode e) (ownReg e) (ownPriv e) false (ownNv e) (ownNwid e) (ownWid e) seg))
    else .trap (trap 0x09 va (accessAux .write false (ownState e)))
  | .register pa => .trap (trap 0x09 va (accessAux .write true (ownState (s.ownerAt pa))))
  | .stall _ => .stall va .write
  | .trap c a x => .trap (trap c a x)

/-- `cprime`: the selection's pages become ARRIVING and its segments go to the cold-start engine (R264). -/
def State.startPrime (s : State) (core : Nat) (j : Job) (c : CCommand) (f : CC) : CAct State :=
  let man := c.sa.toNat
  let first := c.aux.toNat % 65536
  let count := c.aux.toNat / 65536 % 65536
  let bad (a : Nat) : CAct State := .trap (wordTrap 0x03 a c.instr)
  if man ≥ 2 ^ 52 then bad man
  else if c.aux.toNat ≥ 2 ^ 32 || count = 0 then bad c.aux.toNat
  else
    ((s.jobLoad j man 64).copied .read).bind fun (hd, s1) =>
      let h := recNat hd 0 64
      if bits h 23 16 ≠ 1 || h / 2 ^ 24 ≠ 0 || first + count > bits h 15 0 then bad man
      else
        ((s1.jobLoad j (man + 64 + 96 * first) (96 * count)).copied .read).bind fun (bs, s2) =>
          let es := (List.range count).map fun k => (bs.drop (96 * k)).take 96
          match (es.zipIdx.find? fun p => !manifestEntryOk p.1) with
          | some p => bad (man + 64 + 96 * (first + p.2))
          | none =>
            let ms := es.map manifestEntry
            let pages := ms.zipIdx.flatMap fun p => p.1.pages.map fun va => (first + p.2, va)
            (pages.foldl (fun (acc : CAct State) p => acc.bind fun s => s.markArriving core j p.1 p.2) (.ok s2)).bind fun s3 =>
              let frame (va : Nat) : Nat := match s3.leafOf core j.ctx va with
                | some l => (l.pa + va % 2 ^ l.size) / frameBytes
                | none => 0
              let segs := ms.zipIdx.map fun p =>
                (⟨j.ctx, j.wid, first + p.2, p.1.va, p.1.len, p.1.hash, p.1.share, p.1.pages.map frame, j.gidx, j.child, f.tok.toNat,
                  ((ms.take p.2).map fun e => e.len).foldl (· + ·) 0, p.2 + 1 = count⟩ : Segment)
              .ok { s3 with hub := { s3.hub with segments := s3.hub.segments ++ segs } }

/-! The events of a command -/

/-- The C engine's commands go on: not held by a pre-emption (R249), but within a drained level or up to a D section. -/
def Job.cRuns (j : Job) : Bool :=
  match j.preempt with
  | none => true
  | some p => !p.cut && !p.saving && !p.gone.c && p.plan.c ≠ Plan.none

/-- A command's token: not one of a binding, whose token the binding writes, nor of `cprime`, whose token the cold-start engine
writes (R95, R264). -/
def retireToken : Instr → Nat
  | .ringbind _ => 0
  | .bobbind _ => 0
  | .cprime _ => 0
  | i => copyToken i

/-- The command retires (R247): its token, the push of a ring fill, its draws. -/
def Job.copyDone (j : Job) (c : CCommand) (f : CC) : Job :=
  let p := j.copyPlan c f c.record
  let j1 := { j with ccmd := none }.token (retireToken c.instr) (statusWord false 0 c.bytes)
  let j2 := match c.instr with
    | .cpr _ => j1.setRing f.tgt.toNat (j1.ring f.tgt.toNat).push
    | .ringfill _ => j1.setRing f.tgt.toNat (j1.ring f.tgt.toNat).push
    | _ => j1
  (if f.rnd = 4 then j2.drawn .c p.count else j2).commandDone .c

/-- Carry a part of a command out: its result, a wait, a stall of a page, a trap. -/
def State.copyAct (s : State) (n : Nat) (a : CAct State) : State :=
  match a with
  | .ok s1 => s1.unstalled n .c
  | .wait => s
  | .stall va k => s.stalled n .c va k
  | .trap t => (s.cTrap n t).unstalled n .c

/-- `csem` and `csemw` reach their object (R254). -/
def State.copySem (s : State) (n : Nat) (j : Job) (c : CCommand) (signal : Bool) : CAct State :=
  let va := c.aux.toNat
  ((s.objectAt n j va).copied .write).bind fun pa =>
    if s.heldLine [(pa, 64)] then .wait else
    let s1 := s.syncLoad pa
    let r := if signal then (s1.semAdd pa 1).map fun s2 => s2.updJob n fun j => { j with ccmd := none }.commandDone .c
      else (s1.updJob n fun j => { j with ccmd := some { c with started := true } }).semTake pa ⟨n, .c, .units, 1, 0, va, c.instr.bits / 2 ^ 32⟩
    match r with
    | some s2 => .ok s2
    | none => .trap (wordTrap 0x03 va c.instr)

/-- The command in hand starts (R247). Input: `core`. -/
def execCopyCommandStart (s : State) : Result :=
  runEvent s fun x =>
    match s.job? x.core with
    | none => s
    | some j =>
      match j.ccmd with
      | none => s
      | some c =>
        match ccOf c.instr with
        | none => s
        | some f =>
          let n := x.core
          let retire (s : State) : State := s.updJob n fun j => j.copyDone c f
          if c.started || c.held || !j.cRuns then s
          else
            match c.instr with
            | .csem _ => s.copyAct n (s.copySem n j c true)
            | .csemw _ => if j.frozen then s else s.copyAct n (s.copySem n j c false)
            | .unbind _ => s.setJob n ((j.unbindTarget f.tgt.toNat).copyDone c f)
            | .ringbind _ => s.copyAct n ((s.bindRing n j c f).bind fun s1 => .ok (retire s1))
            | .bobbind _ => s.copyAct n ((s.bindBobbin n j c f).bind fun s1 => .ok (retire s1))
            | .cprime _ => s.copyAct n ((s.startPrime n j c f).bind fun s1 => .ok (retire s1))
            | _ => s.copyAct n ((s.startWalk n j c f).bind fun (s1, c1) => .ok (s1.updJob n fun j => { j with ccmd := some c1 }))

/-- The elements another device gives a read: free values. -/
def State.remoteElem (s : State) (member w k : Nat) : Nat :=
  leNat ((List.range 8).map fun b => Config.freeByte s.tick (member * 2 ^ 40 + 8 * k + b)) % 2 ^ w

/-- The accumulation type of a sum (R261). -/
def sumFormat (t : Nat) : Nat := if t = 12 then 12 else if tyIsInt t then t else 13

/-- The sum of R261 over one element of each member, converted. -/
def sumElem (st dt : Nat) (m : Rnd) (sat : Bool) (draw : Nat) (vs : List Nat) : Rounded :=
  let a := sumFormat st
  let up (x : Nat) : Rounded := convertElem st a .rne false 0 x
  let exact (x : Nat) : Rounded := let y := asResult a (up x).1; (y.1, (up x).2 ||| y.2)
  match vs with
  | [] => (0, 0)
  | v :: r =>
    let acc := r.foldl (fun (acc : Rounded) x =>
      let y := up x
      let z := Elem.add ⟨a, .rne, sat && tyIsInt a, 0, 0, acc.1, y.1, 0⟩
      (z.1, acc.2 ||| y.2 ||| z.2)) (exact v)
    let z := convertElem a dt m sat draw acc.1
    (z.1, acc.2 ||| z.2)

/-- What a join on the fabric can meet (R261, R262): other members give other types or counts, or one cannot answer. -/
def State.joinFails (s : State) (i : Instr) : Option Trap :=
  let c := Config.freeNat s.tick 12
  if c = 0x03 then some (wordTrap 0x03 0 i)
  else if c = 0x17 then some (trap 0x17 (Config.freeNat s.tick 13 % 2 ^ 64) 0x20)
  else none

/-- The source elements of granule elements `ks` of a command, one list for each member of a group where it sums. -/
def State.sourceElems (s : State) (n : Nat) (j : Job) (c : CCommand) (p : CopyPlan) (ks : List Nat) :
    CAct (List (List Nat) × State) :=
  let w := tyWidth p.st
  let remote := !c.members.all (· = Config.deviceNumber)
  let own (sd : Side) (s : State) : CAct (List Nat × State) := s.readElems n j sd.at_.kind w (ks.map (sd.bitAt p.exts))
  match c.instr with
  | .cpfill _ => .ok ([ks.map fun _ => c.aux.toNat % 2 ^ w], s)
  | .cgsum _ =>
    match p.src, s.remoteRefuses c.sa.toNat, remote with
    | _, some t, true => .trap t
    | none, _, _ => .ok ([], s)
    | some sd, _, _ =>
      c.members.foldl (fun (acc : CAct (List (List Nat) × State)) m => acc.bind fun (l, s) =>
        if m = Config.deviceNumber then (own sd s).bind fun (xs, s1) => .ok (l ++ [xs], s1)
        else .ok (l ++ [ks.map (s.remoteElem m w)], s)) (.ok ([], s))
  | .fsum _ =>
    match p.src, s.joinFails c.instr, remote with
    | _, some t, true => .trap t
    | none, _, _ => .ok ([], s)
    | some sd, _, _ =>
      (own sd s).bind fun (xs, s1) =>
        .ok (c.members.map fun m => if m = Config.deviceNumber then xs else ks.map (s.remoteElem m w), s1)
  | _ =>
    match p.src with
    | none => .ok ([], s)
    | some sd =>
      if sd.at_.kind = .remote then
        match s.remoteRefuses c.sa.toNat with
        | some t => .trap t
        | none => .ok ([ks.map (s.remoteElem 0 w)], s)
      else (own sd s).bind fun (xs, s1) => .ok ([xs], s1)

/-- The command sums over a group. -/
def sumsGroup : Instr → Bool
  | .cgsum _ => true
  | .fsum _ => true
  | _ => false

/-- 64-byte units of a run of bytes; a part of one counts as one (R417; log entry 96). -/
def writtenUnits (n : Nat) : Nat := ceilDiv n 64

/-- One granule of the running command: its reads and conversions, then its writes (R248, R250, R252); a flag that traps leaves in
`TRAPAUX` every flag the word has raised (R76). -/
def State.copyGranule (s : State) (n : Nat) (j : Job) (c : CCommand) (f : CC) : CAct State :=
  let p := j.copyPlan c f c.record
  let g := c.bytes / 4096
  let ks := p.granule g
  let m := (Rnd.ofCode f.rnd.toNat).getD .rne
  let sat := f.sat = 1
  let draw (k : Nat) : Nat := if m = .sr then j.draw .c k else 0
  let summing := sumsGroup c.instr
  if summing && c.members = [] then .trap (wordTrap 0x03 0 c.instr) else
  (s.sourceElems n j c p ks).bind fun (srcs, s1) =>
    let rs := ks.zipIdx.map fun q =>
      let vs := srcs.map fun xs => xs.getD q.2 0
      if summing then sumElem p.st p.dt m sat (draw q.1) vs else convertElem p.st p.dt m sat (draw q.1) (vs.headD 0)
    let fl := rs.foldl (fun a r => a ||| r.2) 0
    let raised := c.flags ||| fl
    let upto := min p.bytes ((g + 1) * 4096)
    let done (s : State) : State := s.updJob n fun j =>
      { (j.raise .c fl).count 0x07 (writtenUnits (upto - g * 4096)) with ccmd := some { c with bytes := upto, flags := raised } }
    if j.fpTraps .c fl then .ok ((s.setJob n (j.raise .c fl)).cTrap n (trap 0x11 0 raised))
    else
      match p.dst with
      | none => .ok (done s1)
      | some d =>
        match d.at_.kind, s.remoteRefuses c.sd.toNat with
        | .remote, some t => .trap t
        | _, _ => (s1.writeElems n j d.at_.kind (tyWidth p.dt) (ks.map (d.bitAt p.exts)) (rs.map (·.1))).bind fun s2 => .ok (done s2)

/-- The next granule of the running command (R248). Input: `core`. -/
def execCopyGranule (s : State) : Result :=
  runEvent s fun x =>
    match s.job? x.core with
    | none => s
    | some j =>
      match j.ccmd with
      | none => s
      | some c =>
        match ccOf c.instr with
        | none => s
        | some f =>
          if !c.started || c.held || !j.cRuns || c.record = [] || c.bytes ≥ (j.copyPlan c f c.record).bytes then s
          else s.copyAct x.core (s.copyGranule x.core j c f)

/-- The running command has written its last granule and retires (R247). Input: `core`. -/
def execCopyCommandRetire (s : State) : Result :=
  runEvent s fun x =>
    match s.job? x.core with
    | none => s
    | some j =>
      match j.ccmd with
      | none => s
      | some c =>
        match ccOf c.instr with
        | none => s
        | some f =>
          if !c.started || c.held || !j.cRuns || c.record = [] || c.bytes < (j.copyPlan c f c.record).bytes then s
          else s.setJob x.core (j.copyDone c f)

end Sys2Proof.Machine
end

