-- ==== Sys2Proof/Machine/Port.lean ====
section
/-!
DEFINITION. The pattern ports of rings and bobbins (R256 to R259): an entry filled and pushed, an entry drained and popped, the
records read again when a job resumes.
-/
namespace Sys2Proof.Machine

/-- First bits of the elements of entry `k` of a pattern on the memory side. -/
def Pattern.memBits (p : Pattern) (k : Nat) : List Nat :=
  (List.range (walkCount p.exts)).map fun e =>
    (8 * ((p.mem.at_.base : Int) + k * p.step) + p.mem.offset (walkCoords p.exts e)).toNat

/-- First bits of the elements within an entry that begins at byte `o`. -/
def Pattern.entryBits (p : Pattern) (o : Nat) : List Nat :=
  (List.range (walkCount p.exts)).map fun e => (8 * (o : Int) + p.entry.offset (walkCoords p.exts e)).toNat

/-- The pattern of a binding (R256). -/
def Job.patternAt (j : Job) (t : Nat) : Option Pattern :=
  let b := j.binding t
  if b.pat then patternOf (b.width t) b.recd b.shape else none

/-- A fault ends a binding's pattern and sets EXH; a drain's entries are discarded (R257). -/
def Job.portFault (j : Job) (t cause : Nat) : Job :=
  let j1 := (j.setBinding t { j.binding t with stop := true, fault := cause, since := none }).setExh t
  let j2 := if t < 8 then j1
    else
      let x := j1.bobbin (t - 8)
      if x.drain then j1.setBobbin (t - 8) { x with entries := [] } else j1
  j2.endBinding t

/-- What a port's access met (R257, R264): a page state it waits for, up to the arrival bound, or a fault. -/
def State.portAct (s : State) (n t : Nat) (a : CAct State) : State :=
  match a with
  | .ok s1 => s1
  | .wait => s
  | .trap x => s.updJob n fun j => j.portFault t x.cause
  | .stall va k =>
    match s.job? n with
    | none => s
    | some j =>
      let b := j.binding t
      let since := b.since.getD (s.cycle (n / 16))
      if s.arrivalOver n j ⟨va, k, since, none⟩ then s.updJob n fun j => j.portFault t 0x0A
      else (if k = .write then s.collapsePage j.ctx va else s).updJob n fun j => j.setBinding t { b with since := some since }

/-- A port may work: its job is not being saved (R259), its pattern goes on. -/
def Job.portRuns (j : Job) (t : Nat) : Bool :=
  j.targetBound t && (j.binding t).pat && (match j.preempt with
    | some p => !p.saving && !p.cut
    | none => true)

/-- One more entry of a pattern is done; after the last EXH is set (R257). -/
def Job.portStep (j : Job) (t : Nat) : Job :=
  let b := j.binding t
  let j1 := j.setBinding t { b with done := b.done + 1, since := none }
  if b.done + 1 ≥ b.entries then j1.setExh t else j1

/-- The 64-byte units of one entry of a port, counted as it is written (R417; log entry 96). -/
def Pattern.units (p : Pattern) : Nat := writtenUnits (ceilDiv (walkCount p.exts * p.mem.width) 8)

/-- Put elements into the pattern of an entry. -/
def entryFrom (w : Nat) (bits xs : List Nat) : Nat := (bits.zip xs).foldl (fun a p => a + p.2 % 2 ^ w * 2 ^ p.1) 0

/-- Fill the next entry of a target and push it. Bytes of a bobbin entry that the pattern does not touch read as zero. -/
def State.portFill (s : State) (n t : Nat) (j : Job) (p : Pattern) : CAct State :=
  let w := p.mem.width
  (s.readElems n j p.mem.at_.kind w (p.memBits (j.binding t).done)).bind fun (xs, s1) =>
    if t < 8 then
      let r := j.ring t
      (s1.writeElems n j .pad w (p.entryBits (r.entryAt r.tail)) xs).bind fun s2 =>
        .ok (s2.updJob n fun j => ((j.setRing t (j.ring t).push).portStep t).count 0x07 p.units)
    else
      .ok (s1.updJob n fun j =>
        let x := j.bobbin (t - 8)
        ((j.setBobbin (t - 8) { x with entries := x.entries ++ [BitVec.ofNat 4096 (entryFrom w (p.entryBits 0) xs)] }).portStep t).count 0x07 p.units)

/-- On resumption a pattern that goes on reads its record, and a handle's shape record, again; one that fails a check ends the
binding with cause 0x03, an access that faults ends it with that cause, and one that a page state stalls is made again by the port
(R257, R259). -/
def State.rereadPattern (s : State) (n t : Nat) : State :=
  match s.job? n with
  | none => s
  | some j =>
    let b := j.binding t
    if !j.targetBound t || !b.pat || b.stop || (b.recd ≠ [] && b.done ≥ b.entries) then s
    else
      let recd := j.padRead b.recoff 128
      let w := b.width t
      let room := if t < 8 then (j.ring t).entryBytes else 512
      let word : Instr := .ringbind ⟨⟨0, 0⟩, 0, 0, 0, 0, 0, 0, 0, 0, 0, 0, 0, 0, 0⟩
      let finish (s : State) (shape : List Byte) : CAct State :=
        let ok := recOk true recd && (recKind recd = 0x51 || (recKind recd = 0x53 && recOk false shape && recKind shape = 0x52)) &&
          (patternTrap word 0 w room recd shape).isNone
        -- a binding from a context image that EXH has stopped before its last entry
        let b1 := { b with recd := recd, shape := shape, again := false, since := none }
        let left := if t ≥ 8 && (j.bobbin (t - 8)).drain then j.targetCount t else 0
        let b2 := if b.recd = [] && j.targetExh t && b.done + left < b1.entries then { b1 with stop := true } else b1
        if ok then .ok (s.updJob n fun j => (j.setBinding t b2).endBinding t) else .trap (wordTrap 0x03 0 word)
      let s0 := s.setJob n (j.setBinding t { b with again := true, since := if b.again then b.since else none })
      s0.portAct n t (if recKind recd = 0x53 then ((s0.jobLoad j (recNat recd 0x68 8 % 2 ^ 52) 128).copied .read).bind fun (bs, s1) => finish s1 bs
        else finish s0 [])

def State.rereadPatterns (s : State) (n : Nat) : State := (List.range 16).foldl (fun s t => s.rereadPattern n t) s

/-- A fill port completes an entry and pushes it. Input: `core`, `index`, the target code. -/
def execPatternPortPush (s : State) : Result :=
  runEvent s fun x =>
    match s.job? x.core with
    | none => s
    | some j =>
      let t := x.index
      let room := if t < 8 then (j.ring t).size else 8
      let drains := t ≥ 8 && (j.bobbin (t - 8)).drain
      if (j.binding t).again then (if j.portRuns t then s.rereadPattern x.core t else s)
      else
      match j.patternAt t with
      | none => s
      | some p =>
        if !j.portRuns t || drains || j.targetExh t || (j.binding t).stop || (j.binding t).done ≥ p.count || j.targetCount t ≥ room
        then s
        else s.portAct x.core t (s.portFill x.core t j p)

/-- Write the oldest entry of a drain bobbin out and pop it; DONE counts it, EXH is set by V's last push (R115, R257). -/
def State.portDrain (s : State) (n t : Nat) (j : Job) (p : Pattern) : CAct State :=
  let w := p.mem.width
  let e := ((j.bobbin (t - 8)).entries.headD 0).toNat
  let xs := (p.entryBits 0).map fun b => e / 2 ^ b % 2 ^ w
  (s.writeElems n j p.mem.at_.kind w (p.memBits (j.binding t).done) xs).bind fun s1 =>
    .ok (s1.updJob n fun j =>
      let x := j.bobbin (t - 8)
      let b := j.binding t
      (((j.setBobbin (t - 8) { x with entries := x.entries.drop 1 }).setBinding t { b with done := b.done + 1, since := none }).endBinding t).count 0x07 p.units)

/-- A drain entry's bytes are performed and the port pops it. Input: `core`, `index`. -/
def execPatternPortDrainPop (s : State) : Result :=
  runEvent s fun x =>
    match s.job? x.core with
    | none => s
    | some j =>
      let t := x.index
      if (j.binding t).again then (if j.portRuns t then s.rereadPattern x.core t else s)
      else
      match j.patternAt t with
      | none => s
      | some p =>
        if t < 8 || !j.portRuns t || !(j.bobbin (t - 8)).drain || (j.bobbin (t - 8)).entries.isEmpty then s
        else s.portAct x.core t (s.portDrain x.core t j p)

end Sys2Proof.Machine
end

