-- ==== Sys2Proof/Machine/Context.lean ====
section
/-!
DEFINITION. The context image (R196), the saved copy command and bindings in it (R249, R259), and loading them.
-/
namespace Sys2Proof.Machine

/-! Registers as they are read -/

/-- `IDENT` (R97). -/
def Job.identWord (j : Job) : Nat :=
  packBits [(13, j.ctx), (3, j.core / 16), (4, j.core % 16), (7, j.gidx), (1, 0), (8, j.gsize), (3, j.ndie), (1, b2n j.child)]

/-- `WORLD` (R180). -/
def Job.worldWord (j : Job) : Nat := packBits [(12, j.wid), (1, b2n j.conf)]

/-- `TRAPCTL` (R183). -/
def Job.trapctl (j : Job) : Nat := packBits [(1, b2n j.skip), (1, b2n j.hmode), (1, b2n j.nest)]

/-- `REPREM` (R125). -/
def Job.reprem (j : Job) : Nat := packBits [(16, j.repLeft), (16, j.repDone), (31, 0), (1, b2n j.repValid)]

/-- `BOBST` of a bobbin (R115). -/
def Job.bobst (j : Job) (b : Nat) : Nat :=
  let x := j.bobbin b
  packBits [(4, x.entries.length), (3, 0), (1, b2n x.bound), (1, b2n x.drain), (1, b2n x.exh)]

/-- The state of a binding in 8 bytes (R259). -/
def Binding.word (b : Binding) : Nat :=
  packBits [(24, b.done), (6, b.tok), (4, 0), (2, b.scope), (2, b.ord), (4, b.cls), (5, b.ty), (15, b.recoff / 128), (1, b2n b.tens),
    (1, b2n b.pat)]

/-! Saved positions -/

/-- The position a context image gives a stream: zero once it has ended; behind the last word of a section whose words have all
issued while a command of it is in flight. -/
def Stream.saved (st : Stream) : Nat :=
  if st.ended then 0
  else
    match st.header, st.word, st.flight.getLast? with
    | none, 0, some f => (hLength f.header.toNat + 1) % 512 * 2 ^ 52 + f.hdr % 2 ^ 52
    | _, _, _ => st.position

/-- The S position: `RETS` in handler mode; past an `hcall` that has issued (R195). -/
def Job.savedS (j : Job) : Nat :=
  if j.hmode then j.rets.toNat
  else match j.swait with
    | .hcall _ _ _ _ => (j.advance .s 0).streams.s.saved
    | _ => j.streams.s.saved

/-- The position of V, M or C. -/
def Job.savedAt (j : Job) (e : Engine) : Nat := (j.stream (.ofEngine e)).saved

/-! The control area -/

/-- One level's 32 bytes: TRIP, active, armings taken, pass indices. -/
def Job.levelBytes (j : Job) (n : Nat) : List Byte :=
  let x := j.level n
  leBytes 4 x.trip ++ leBytes 4 (b2n x.active) ++ allEngines.flatMap (fun e => leBytes 2 (x.taken.get e))
    ++ [Engine.v, .m, .c].flatMap (fun e => leBytes 4 (x.pass.get e)) ++ leBytes 4 0

/-- The job's commands that a save turns into queued images (R161). -/
def Job.imageQueueOf (j : Job) : List MCommand := j.mqueue.filter fun c => !c.handler

/-- Queued image `i`, or zero bytes. -/
def Job.imageBytesAt (j : Job) (i : Nat) : List Byte :=
  match j.imageQueueOf[i]? with
  | some c => c.bytes
  | none => List.replicate 32 0#8

/-- The saved copy command, bytes 0x040 to 0x0FF of its area (R249). -/
def Job.commandBytes (j : Job) : List Byte :=
  match j.ccmd with
  | none => List.replicate 192 0#8
  | some c =>
    leBytes 12 c.instr.bits ++ leBytes 4 0 ++ leBytes 8 (packBits [(40, c.bytes), (23, 0), (1, b2n c.started)])
      ++ leBytes 8 c.sa.toNat ++ leBytes 8 c.sd.toNat ++ leBytes 8 c.recd.toNat ++ leBytes 8 c.aux.toNat
      ++ leBytes 128 (leNat c.record) ++ leBytes 8 0

def Job.controlArea (j : Job) : List Byte :=
  let mask (f : Nat → Bool) (n : Nat) : Nat := (List.range n).foldl (fun a i => a + b2n (f i) * 2 ^ i) 0
  leBytes 8 (mask j.rp 16 + mask j.pendP 16 * 2 ^ 16) ++ leBytes 8 (mask j.pendS 64)
    ++ (List.range 8).flatMap (fun n => leBytes 4 (j.rl n)) ++ (List.range 8).flatMap j.levelBytes
    ++ (List.range 8).flatMap (fun r => leBytes 8 (j.ring r).word) ++ (List.range 8).flatMap (fun b => leBytes 8 (j.bobst b))
    ++ (List.range 8).flatMap (fun b => leBytes 8 (j.binding (8 + b)).word)
    ++ leBytes 8 j.reprem ++ [j.loopsave, j.fpstat, j.fpen, j.srseed, j.srcntv, j.srcntm, j.srcntc].flatMap (fun w => leBytes 8 w.toNat)
    ++ leBytes 8 j.savedS ++ [Engine.v, .m, .c].flatMap (fun e => leBytes 8 (j.savedAt e))
    ++ leBytes 8 (packBits (allEngines.map fun e => (12, (j.streams.get e).rthru)))
    ++ leBytes 8 (j.mCountWord j.imageQueueOf.length) ++ (List.range 3).flatMap j.imageBytesAt
    ++ (List.range 8).flatMap (fun r => leBytes 8 (j.binding r).word) ++ j.commandBytes
    ++ j.imageBytesAt 3 ++ List.replicate 32 0#8

/-- Bytes of a context image. -/
def contextBytes : Nat := 837632

/-- The context image of a job (R196). -/
def Job.contextImage (j : Job) : List Byte :=
  (List.range 16).flatMap (fun t => leBytes 16384 (j.tile t)) ++ (List.range 8).flatMap (fun a => leBytes 65536 (j.acc a))
    ++ (List.range 32).flatMap (fun r => leBytes 512 (j.rv r))
    ++ (List.range 8).flatMap (fun b => (List.range 8).flatMap fun y => leBytes 512 ((j.bobbin b).entries.getD y 0).toNat)
    ++ (List.range 64).flatMap (fun r => leBytes 8 (j.rs r).toNat) ++ (List.range 8).flatMap (fun k => leBytes 64 (j.rk k))
    ++ j.controlArea

/-! Loading. An image is a map from its offsets to bytes. -/

/-- The bytes of a reached run, by offset. -/
def State.cells (s : State) (ps : List (Nat × Nat)) : Sparse Byte :=
  (ps.foldl (fun (acc : Nat × Sparse Byte) p =>
    (acc.1 + p.2, acc.2 ++ (Sparse.window s.mem p.1 p.2).map fun x => (x.1 + acc.1, x.2))) (0, [])).2

/-- Offset of the control area in an image. -/
def controlAt : Nat := 0xCC400

/-- `n` bytes of the control area from byte `o`. -/
def ctl (c : Sparse Byte) (o n : Nat) : Nat := regionNat c (controlAt + o) n

/-- A byte of the control area is nonzero where the layout requires zero, or the queued count is above 4 (R197, step 2). -/
def controlBad (c : Sparse Byte) : Bool :=
  let count := ctl c 0x258 8
  let image (i : Nat) : Nat := if i < 3 then 0x260 + 32 * i else 0x3C0
  ctl c 0x004 4 ≠ 0 || (List.range 8).any (fun n => ctl c (0x034 + 32 * n) 4 > 1 || ctl c (0x04C + 32 * n) 4 ≠ 0)
    || ctl c 0x256 2 ≠ 0 || count % 8 > 4 || count / 8 % 32 ≠ 0 || count / 2 ^ 13 ≠ 0
    || (List.range 4).any (fun i => if i < count % 8 then ctl c (image i + 12) 4 ≠ 0 else ctl c (image i) 32 ≠ 0)
    || ctl c 0x30C 4 ≠ 0 || bits (ctl c 0x310 8) 62 40 ≠ 0 || ctl c 0x3B8 8 ≠ 0 || ctl c 0x3E0 32 ≠ 0
    || (ctl c 0x300 12 = 0 && ctl c 0x300 192 ≠ 0)

/-- A queued image as a command: any word of the M map. -/
def contextCommand (c : Sparse Byte) (o : Nat) : Option MCommand :=
  match decode .m (ctl c o 12) with
  | .ok i => some { instr := i, first := BitVec.ofNat 64 (ctl c (o + 16) 8), second := BitVec.ofNat 64 (ctl c (o + 24) 8),
                    started := false, parts := 0, sect := 0, word := 0, handler := false, queued := true, image := true }
  | .error _ => none

/-- The queued images of an image; none where one is no M word. -/
def contextQueue (c : Sparse Byte) : Option (List MCommand) :=
  ((List.range (ctl c 0x258 8 % 8)).map fun i => contextCommand c (if i < 3 then 0x260 + 32 * i else 0x3C0)).foldr
    (fun x r => match x, r with
      | some y, some l => some (y :: l)
      | _, _ => none) (some [])

/-- The copy command of an image: none where none is outstanding; the error is a word that is no C word. -/
def contextCopy (c : Sparse Byte) (word : Nat) : Except Unit (Option CCommand) :=
  if ctl c 0x300 12 = 0 then .ok none
  else
    match decode .c (ctl c 0x300 12) with
    | .error _ => .error ()
    | .ok i =>
      let st := ctl c 0x310 8
      let w (o : Nat) : Word := BitVec.ofNat 64 (ctl c o 8)
      .ok (some { instr := i, started := bit st 63, bytes := st % 2 ^ 40, sa := w 0x318, sd := w 0x320, recd := w 0x328, aux := w 0x330,
                  record := if bit st 63 then leBytes 128 (ctl c 0x338 128) else [], sect := 0, word := word, held := false, members := [], flags := 0 })

/-- A ring register's fields (R152). -/
def Ring.ofWord (w : Nat) : Ring :=
  ⟨bit w 47, bit w 46, bit w 45, bits w 44 43, bits w 42 38, bits w 37 30, bits w 29 25, bits w 24 20, bits w 19 15, bits w 14 9⟩

/-- A binding from its saved word: its records are read again when the job goes on (R259). -/
def Binding.ofWord (w : Nat) : Binding :=
  { Binding.none with pat := bit w 63, again := bit w 63, tens := bit w 62, recoff := bits w 61 47 * 128, ty := bits w 46 42, cls := bits w 41 38,
                      ord := bits w 37 36, scope := bits w 35 34, tok := bits w 29 24, done := bits w 23 0 }

/-- The Res fields of a register, high and low bit. -/
def resFields (x : Nat) : List (Nat × Nat) :=
  match x with
  | 0x00 => [(63, 9)]
  | 0x01 => [(63, 2)]
  | 0x02 => [(63, 12)]
  | 0x03 => [(63, 9)]
  | 0x04 => [(61, 56), (43, 40)]
  | 0x07 => [(63, 3)]
  | 0x08 => [(63, 61)]
  | 0x0C => [(63, 48), (39, 32)]
  | 0x10 => [(63, 40), (27, 27)]
  | 0x11 => [(63, 13)]
  | 0x18 => [(62, 32)]
  | 0x19 => [(62, 35)]
  | 0x40 => [(63, 21), (15, 13), (7, 5)]
  | 0x41 => [(63, 21), (15, 13), (7, 5)]
  | 0x280 => [(63, 32)]
  | x =>
    if 0x20 ≤ x && x < 0x28 then [(63, 10), (6, 4)]
    else if 0x30 ≤ x && x < 0x38 then [(63, 48), (8, 0)]
    else if 0x100 ≤ x && x < 0x200 then
      match x % 32 with
      | 0 => [(58, 28), (15, 8)]
      | 1 => [(63, 52)]
      | 2 => [(63, 52)]
      | 3 => [(63, 48)]
      | 5 => [(63, 1)]
      | 6 => [(63, 16), (2, 2)]
      | _ => []
    else if 0x200 ≤ x && x < 0x208 then [(63, 8)]
    else []

/-- A write sets a Res bit (R6). -/
def setsRes (x v : Nat) : Bool := (resFields x).any fun r => bits v r.1 r.2 ≠ 0

/-- A register's value with its Res bits zero, as they read (R6). -/
def withoutRes (x v : Nat) : Word := BitVec.ofNat 64 ((resFields x).foldl (fun a r => putBits a r.1 r.2 0) v)

/-- The registers an image holds whole; Res bits stay zero (R6). -/
def Job.loadRegs (j : Job) (c : Sparse Byte) : Job :=
  let seq {α : Type} [DecidableEq α] (d : α) (from_ n : Nat) (f : Nat → α) : Sparse α :=
    Sparse.ofList d from_ ((List.range n).map fun i => f (from_ + i))
  let flags (o lo n : Nat) : Sparse Bool := seq false 1 (n - 1) fun i => bit (ctl c o 8) (lo + i)
  let bob (b : Nat) : Bobbin :=
    let w := ctl c (0x170 + 8 * b) 8
    ⟨(List.range (min 8 (w % 16))).map fun y => BitVec.ofNat 4096 (regionNat c (0xC4000 + 4096 * b + 512 * y) 512), bit w 9, bit w 8,
      bit w 7⟩
  let bind (t : Nat) : Binding :=
    let w := ctl c (if t < 8 then 0x2C0 + 8 * t else 0x1B0 + 8 * (t - 8)) 8
    if w = (j.binding t).word then j.binding t else .ofWord w
  let rr := ctl c 0x1F0 8
  let w (o : Nat) : Word := BitVec.ofNat 64 (ctl c o 8)
  { j with
    tiles := seq 0 0 16 fun t => BitVec.ofNat 131072 (regionNat c (16384 * t) 16384)
    accs := seq 0 0 8 fun a => BitVec.ofNat 524288 (regionNat c (0x40000 + 65536 * a) 65536)
    v := seq 0 0 32 fun r => BitVec.ofNat 4096 (regionNat c (0xC0000 + 512 * r) 512)
    s := seq 0 1 63 fun r => BitVec.ofNat 64 (regionNat c (0xCC000 + 8 * r) 8)
    k := seq 0 0 8 fun k => BitVec.ofNat 512 (regionNat c (0xCC200 + 64 * k) 64)
    b := seq .idle 0 8 bob
    p := flags 0x000 0 16
    ppend := flags 0x000 16 16
    spend := flags 0x008 0 64
    l := seq 0 0 8 fun n => ctl c (0x010 + 4 * n) 4
    rings := seq .idle 0 8 fun r => .ofWord (ctl c (0x130 + 8 * r) 8)
    binds := seq .none 0 16 bind
    repValid := bit rr 63, repDone := bits rr 31 16, repLeft := bits rr 15 0
    loopsave := withoutRes 0x19 (ctl c 0x1F8 8), fpstat := withoutRes 0x40 (ctl c 0x200 8), fpen := withoutRes 0x41 (ctl c 0x208 8), srseed := w 0x210, srcntv := w 0x218, srcntm := w 0x220
    srcntc := w 0x228 }

/-- A stream at the position and with the retired-through value of an image: as it was, where they are its own. `out` counts the
commands the image holds. -/
def Stream.load (st : Stream) (own pos rthru out : Nat) : Stream :=
  if pos = own && rthru = st.rthru then st
  else { st with hdr := pos % 2 ^ 52, word := pos / 2 ^ 52 % 512, header := none, fetched := none, out := out, flight := [],
                 closed := false, rthru := rthru, ended := pos = 0, rdvWait := false }

/-- Where a stream stands with a level, from its section (R106). -/
def State.modeAt (s : State) (j : Job) (e : Engine) (n : Nat) : Pass :=
  match s.currentSection j e with
  | none => .out
  | some (sect, start, _) =>
    if j.bodyLevel e sect = some n then
      (if start && sect = ((j.loop n).spans.get e).first then .next else .running)
    else .out

/-- A loop level from an image: what it does not hold follows from where the streams stand. -/
def State.loadLevel (s : State) (j : Job) (c : Sparse Byte) (n : Nat) : Level :=
  let o := 0x030 + 32 * n
  let trip := ctl c o 4
  let active := bit (ctl c (o + 4) 4) 0
  let taken : PerEngine Nat := ⟨ctl c (o + 8) 2, ctl c (o + 10) 2, ctl c (o + 12) 2, ctl c (o + 14) 2⟩
  let mode : PerEngine Pass := if active then ⟨s.modeAt j .s n, s.modeAt j .v n, s.modeAt j .m n, s.modeAt j .c n⟩ else .all .out
  let most := allEngines.foldl (fun a e => if (j.loop n).body.get e then max a (taken.get e) else a) 0
  let inside := allEngines.any fun e => mode.get e = Pass.running || mode.get e = Pass.next
  let made := if active && !inside then most + 1 else most
  { trip := trip, active := active, made := made, taken := taken,
    pass := ⟨j.rl n, ctl c (o + 16) 4, ctl c (o + 20) 4, ctl c (o + 24) 4⟩, mode := mode, p0 := j.rl n, gangGo := 1,
    begun := ⟨mode.s = Pass.running, mode.v = Pass.running, mode.m = Pass.running, mode.c = Pass.running⟩, fin := .all 0,
    noStep := false }

/-- A started sum from an image names its group only in AUX: it reads the group's members again (R249, R392; log entry 96). -/
def State.regroup (s : State) (c : CCommand) : CCommand :=
  match c.instr with
  | .cgsum _ => { c with members := (s.groupMembers (c.aux.toNat % 1024)).getD [] }
  | .fsum _ => { c with members := (s.groupMembers (c.aux.toNat % 1024)).getD [] }
  | _ => c

/-- Load an image into a job: the registers it holds, the streams, the levels, the commands (R197, step 4; R334). What the
image leaves as it was keeps the state the image has no place for. -/
def State.loadContext (s : State) (j : Job) (c : Sparse Byte) (queue : List MCommand) (copy : Option CCommand) : Job :=
  let j1 := j.loadRegs c
  let rt := ctl c 0x250 8
  let pos (k : Nat) : Nat := ctl c (0x230 + 8 * k) 8
  let sameQueue := queue.map (·.bytes) = j.imageQueueOf.map (·.bytes)
  let sameCopy := leBytes 192 (ctl c 0x300 192) = j.commandBytes
  let outM := queue.length
  let outC := b2n copy.isSome
  let j2 := { j1 with
    rets := if j.hmode then withoutRes 0x08 (pos 0) else j.rets
    streams :=
      { s := (j.streams.s.load j.savedS (pos 0) (rt % 4096) 0)
        v := (j.streams.v.load (j.savedAt .v) (pos 1) (rt / 2 ^ 12 % 4096) 0)
        m := (j.streams.m.load (j.savedAt .m) (pos 2) (rt / 2 ^ 24 % 4096) outM)
        c := (j.streams.c.load (j.savedAt .c) (pos 3) (rt / 2 ^ 36 % 4096) outC) }
    mqueue := if sameQueue then j.mqueue else queue ++ j.mqueue.filter (·.handler)
    ccmd := if sameCopy then j.ccmd else copy.map s.regroup }
  allLevels.foldl (fun x n =>
    if leBytes 32 (ctl c (0x030 + 32 * n) 32) = j.levelBytes n then x else x.setLevel n (s.loadLevel j2 c n)) j2

end Sys2Proof.Machine
end

