-- ==== Sys2Proof/Machine/Vocab.lean ====
section
/-!
DEFINITION. Vocabulary images (R360 to R364), what Hackle computes (R366 to R368) and what Spindle holds back and stops at
(R370, R371): functions of bytes.
-/
namespace Sys2Proof

/-! UTF-8 (RFC 3629) -/

/-- Bytes a sequence with this lead byte has; 0 for a byte that leads none. -/
def utf8Need (b : Nat) : Nat :=
  if b < 0x80 then 1 else if 0xC2 ≤ b && b ≤ 0xDF then 2 else if 0xE0 ≤ b && b ≤ 0xEF then 3
  else if 0xF0 ≤ b && b ≤ 0xF4 then 4 else 0

/-- Byte `i` of a sequence, for `i` above 0, lies in its range under the lead byte. -/
def utf8Cont (lead i b : Nat) : Bool :=
  let lo := if i = 1 && lead = 0xE0 then 0xA0 else if i = 1 && lead = 0xF0 then 0x90 else 0x80
  let hi := if i = 1 && lead = 0xED then 0x9F else if i = 1 && lead = 0xF4 then 0x8F else 0xBF
  lo ≤ b && b ≤ hi

/-- The bytes after a lead byte are continuation bytes in their ranges. -/
def utf8Conts (lead : Nat) (bs : List Byte) : Bool := bs.zipIdx.all fun p => utf8Cont lead (p.2 + 1) p.1.toNat

/-- Length of the unit at the head of a byte run: a well-formed sequence, or one byte that begins none. -/
def unitLen : List Byte → Nat
  | [] => 0
  | b :: r =>
    let n := utf8Need b.toNat
    if n ≠ 0 && n ≤ r.length + 1 && utf8Conts b.toNat (r.take (n - 1)) then n else 1

/-- The bytes are one well-formed UTF-8 character. -/
def isUtf8Char (bs : List Byte) : Bool :=
  match bs with
  | [] => false
  | b :: r => utf8Need b.toNat = bs.length && utf8Conts b.toNat r

/-- Cut a run into units (R368). -/
def unitsOf : Nat → List Byte → List (List Byte)
  | 0, _ => []
  | _ + 1, [] => []
  | k + 1, bs => bs.take (unitLen bs) :: unitsOf k (bs.drop (unitLen bs))

/-! Images (R360 to R363) -/

def imgNat (img : List Byte) (off n : Nat) : Nat := leNat ((img.drop off).take n)
def vocNtok (img : List Byte) : Nat := imgNat img 0x08 4
def vocNmerge (img : List Byte) : Nat := imgNat img 0x0C 4
def vocBfbase (img : List Byte) : Nat := imgNat img 0x10 4
def vocPoolLen (img : List Byte) : Nat := imgNat img 0x14 4
def vocPieceMax (img : List Byte) : Nat := imgNat img 0x18 2
def vocNspec (img : List Byte) : Nat := imgNat img 0x1A 1
def vocUnit (img : List Byte) : Bool := bit (imgNat img 0x1B 1) 0
def vocVersion (img : List Byte) : Nat := imgNat img 0 8
def vocMergeOff (img : List Byte) : Nat := 0x400 + 8 * vocNtok img
def vocPoolOff (img : List Byte) : Nat := vocMergeOff img + 8 * vocNmerge img
def vocClass (img : List Byte) (b : Byte) : Nat := imgNat img (0x160 + b.toNat) 1
/-- BREAK[a][b]. -/
def vocBreak (img : List Byte) (a b : Nat) : Bool := bit (imgNat img (0x40 + 2 * a) 2) b

def tokEntry (img : List Byte) (i : Nat) : Nat := imgNat img (0x400 + 8 * i) 8
def tokLen (img : List Byte) (i : Nat) : Nat := bits (tokEntry img i) 31 24
def tokOff (img : List Byte) (i : Nat) : Nat := bits (tokEntry img i) 23 0
def tokBase (img : List Byte) (i : Nat) : Bool := bit (tokEntry img i) 32
def tokSpec (img : List Byte) (i : Nat) : Bool := bit (tokEntry img i) 33
def tokSkip (img : List Byte) (i : Nat) : Bool := bit (tokEntry img i) 34
def tokString (img : List Byte) (i : Nat) : List Byte := (img.drop (vocPoolOff img + tokOff img i)).take (tokLen img i)

def mergeEntry (img : List Byte) (r : Nat) : Nat := imgNat img (vocMergeOff img + 8 * r) 8
def mergeLeft (img : List Byte) (r : Nat) : Nat := bits (mergeEntry img r) 17 0
def mergeRight (img : List Byte) (r : Nat) : Nat := bits (mergeEntry img r) 35 18
def mergeResult (img : List Byte) (r : Nat) : Nat := bits (mergeEntry img r) 53 36

def specEntry (img : List Byte) (i : Nat) : Nat := imgNat img (0x60 + 4 * i) 4
def specMatch (img : List Byte) (i : Nat) : Bool := bit (specEntry img i) 31
def specToken (img : List Byte) (i : Nat) : Nat := bits (specEntry img i) 17 0

/-- No two of a list of byte strings are equal. -/
def distinctStrings : List (List Byte) → Bool
  | [] => true
  | x :: r => !r.contains x && distinctStrings r

/-- No two of a list of pairs are equal. -/
def distinctPairs : List (Nat × Nat) → Bool
  | [] => true
  | x :: r => !r.contains x && distinctPairs r

/-- The first failing reason of R364 for an image of the length the command names, from 0x02 on. -/
def vocCheck (img : List Byte) (len : Nat) : Option Nat :=
  let n := vocNtok img
  let m := vocNmerge img
  let toks := List.range n
  let ranks := List.range m
  let specs := List.range (vocNspec img)
  let zeros (off k : Nat) : Bool := imgNat img off k = 0
  let badCount := n < 256 || n > 262144 || m > 262143 || vocNspec img > 64 || vocBfbase img + 255 ≥ n || vocPoolLen img = 0
    || vocPoolLen img > 8388608 || vocPieceMax img = 0 || vocPieceMax img > 4096 || len > 2 ^ 24
    || len < vocPoolOff img + vocPoolLen img || len < 0x400
  if badCount then some 0x02
  else if toks.any (fun i => bits (tokEntry img i) 63 35 ≠ 0 || tokLen img i = 0 || tokOff img i + tokLen img i > vocPoolLen img)
      || (List.range 256).any (fun b => tokString img (vocBfbase img + b) ≠ [BitVec.ofNat 8 b]) then some 0x03
  else if ranks.any (fun r =>
        let l := mergeLeft img r
        let t := mergeRight img r
        let x := mergeResult img r
        [l, t, x].any (fun i => i ≥ n || tokSpec img i) || tokString img x ≠ tokString img l ++ tokString img t)
      || !distinctPairs (ranks.map fun r => (mergeLeft img r, mergeRight img r)) then some 0x04
  else if specs.any (fun i => specToken img i ≥ n || !tokSpec img (specToken img i) || bits (specEntry img i) 30 18 ≠ 0)
      || !distinctStrings ((specs.filter (specMatch img)).map fun i => tokString img (specToken img i)) then some 0x05
  else
    let bases := (toks.filter (tokBase img)).map (tokString img)
    if (List.range 256).any (fun b => imgNat img (0x160 + b) 1 > 15)
      || (vocUnit img && (!distinctStrings bases || !bases.all isUtf8Char))
      || imgNat img 0x1B 1 / 2 ≠ 0 || !zeros 0x1C 36 || !zeros 0x260 416
      || !zeros (0x60 + 4 * vocNspec img) (4 * (64 - vocNspec img))
      || ranks.any (fun r => bits (mergeEntry img r) 63 54 ≠ 0) then some 0x06
    else none

/-! Hackle (R366 to R368) -/

/-- For each byte of a run, where its unit begins. -/
def unitStarts (bs : List Byte) : List Nat :=
  ((unitsOf bs.length bs).foldl (fun (p : Nat × List Nat) u => (p.1 + u.length, p.2 ++ List.replicate u.length p.1)) (0, [])).2

/-- Cut before byte `i` (R367): the new start of the open piece, where there is a cut. -/
def cutAt (img : List Byte) (run : List Byte) (us : List Nat) (start i : Nat) : Option Nat :=
  let u := us.getD i i
  let inside := vocUnit img && u < i
  if vocBreak img (vocClass img (run.getD (i - 1) 0)) (vocClass img (run.getD i 0)) && !inside then some i
  else if i - start ≥ vocPieceMax img then some (if inside && u > start then u else i)
  else none

/-- The starts of the pieces of a run, last first. -/
def cuts (img : List Byte) (run : List Byte) : List Nat :=
  let us := unitStarts run
  (List.range run.length).foldl (fun cs i =>
    if i = 0 then cs
    else match cutAt img run us (cs.headD 0) i with
      | some c => c :: cs
      | none => cs) [0]

/-- `presplit` (R367). -/
def presplit (img : List Byte) (run : List Byte) : List (List Byte) :=
  if run.isEmpty then []
  else
    let cs := (cuts img run).reverse
    (cs.zip (cs.drop 1 ++ [run.length])).map fun p => (run.drop p.1).take (p.2 - p.1)

/-- The rank of a pair. -/
def rankOf (img : List Byte) (l r : Nat) : Option Nat :=
  (List.range (vocNmerge img)).find? fun k => mergeLeft img k = l && mergeRight img k = r

/-- The pair of least rank, leftmost on a tie: its rank and index. -/
def bestPair (img : List Byte) (syms : List Nat) : Option (Nat × Nat) :=
  ((syms.zip (syms.drop 1)).zipIdx).foldl (fun best p =>
    match rankOf img p.1.1 p.1.2, best with
    | some r, some b => if r < b.1 then some (r, p.2) else best
    | some r, none => some (r, p.2)
    | none, _ => best) none

def mergeLoop (img : List Byte) : Nat → List Nat → List Nat
  | 0, syms => syms
  | k + 1, syms =>
    match bestPair img syms with
    | some (r, i) => mergeLoop img k (syms.take i ++ [mergeResult img r] ++ syms.drop (i + 2))
    | none => syms

/-- The symbols of one unit: a BASE token, or the fallback of each byte. -/
def unitSyms (img : List Byte) (u : List Byte) : List Nat :=
  let base := if vocUnit img then (List.range (vocNtok img)).find? fun i => tokBase img i && tokString img i = u else none
  match base with
  | some t => [t]
  | none => u.map fun b => vocBfbase img + b.toNat

/-- `merge_piece` (R368). -/
def mergePiece (img : List Byte) (piece : List Byte) : List Nat :=
  let us := if vocUnit img then unitsOf piece.length piece else piece.map fun b => [b]
  let syms := us.flatMap (unitSyms img)
  mergeLoop img syms.length syms

/-- `merge_run` (R366). -/
def mergeRun (img : List Byte) (run : List Byte) : List Nat := (presplit img run).flatMap (mergePiece img)

/-- The longest MATCH special at the head of the text: its token and length. -/
def specialAt (img : List Byte) (x : List Byte) : Option (Nat × Nat) :=
  (List.range (vocNspec img)).foldl (fun best i =>
    let t := specToken img i
    let str := tokString img t
    if specMatch img i && str.isPrefixOf x && (match best with
        | some b => str.length > b.2
        | none => true) then some (t, str.length) else best) none

/-- The procedure of R366, with the open run. -/
def hackleLoop (img : List Byte) : Nat → List Byte → List Byte → List Nat
  | 0, run, _ => mergeRun img run
  | _ + 1, run, [] => mergeRun img run
  | k + 1, run, b :: x =>
    match specialAt img (b :: x) with
    | some (t, n) => mergeRun img run ++ [t] ++ hackleLoop img k [] ((b :: x).drop n)
    | none => hackleLoop img k (run ++ [b]) x

/-- The tokens of a request's text (R366). -/
def hackle (img : List Byte) (x : List Byte) : List Nat := hackleLoop img x.length [] x

/-! Spindle (R370, R371) -/

/-- `utf8_hold`. -/
def utf8Hold (pend : List Byte) : Nat :=
  ([3, 2, 1].find? fun k => k ≤ pend.length && match pend.drop (pend.length - k) with
    | b :: r => utf8Need b.toNat > k && utf8Conts b.toNat r
    | [] => false).getD 0

/-- `stop_hold`. -/
def stopHold (stops : List (List Byte)) (pend : List Byte) : Nat :=
  (((List.range 32).reverse).find? fun k => k ≤ pend.length &&
    stops.any fun z => z.length > k && z.take k = pend.drop (pend.length - k)).getD 0

/-- The stop strings that end at byte `e` of pend: start and index, the smallest start first, then the lowest index. -/
def stopAtEnd (stops : List (List Byte)) (pend : List Byte) (e : Nat) : Option (Nat × Nat) :=
  stops.zipIdx.foldl (fun best p =>
    let n := p.1.length
    if n ≤ e && (pend.drop (e - n)).take n = p.1 && (match best with
        | some b => e - n < b.1
        | none => true) then some (e - n, p.2) else best) none

/-- `stop_match`: start and index. -/
def stopMatch (stops : List (List Byte)) (pend : List Byte) : Option (Nat × Nat) :=
  (List.range pend.length).findSome? fun e => stopAtEnd stops pend (e + 1)

end Sys2Proof
end

