-- ==== Sys2Proof/Machine/Queue.lean ====
section
/-!
DEFINITION. The request queue (R378 to R380), reply streams and their chunks (R370 to R373, R386 to R389), and the queue words
(R381 to R387).
-/
namespace Sys2Proof.Machine

/-! Accesses of the dispatcher and the hub -/

def State.ctxConf (s : State) (ctx : Nat) : Bool := bit (s.blk ctx 0) 58
/-- Read and write memory of a micro-context's world for its dispatcher or the hub. -/
def State.ctxLoad (s : State) (ctx va n : Nat) : Access (List Byte × State) := s.load noCore ctx (s.ctxWid ctx) (s.ctxConf ctx) va n
def State.ctxStore (s : State) (ctx va : Nat) (bs : List Byte) : Access State :=
  s.store noCore ctx (s.ctxWid ctx) (s.ctxConf ctx) va bs

def Access.bind {α β : Type} (x : Access α) (f : α → Access β) : Access β :=
  match x with
  | .ok y => f y
  | .stall a => .stall a
  | .trap c a t => .trap c a t

/-! The queue area (R378, R379) -/

/-- The queue area's header. -/
structure QArea where
  dhead : Nat
  dtail : Nat
  thead : Nat
  ttail : Nat
  dlog  : Nat
  tlog  : Nat
  cpos  : Nat
  cur   : Nat
deriving DecidableEq, Repr

/-- A descriptor (R379). -/
structure QDesc where
  tstart  : Nat
  tcount  : Nat
  maxtok  : Nat
  temp    : Nat
  topp    : Nat
  topk    : Nat
  seed    : Nat
  reqid   : Nat
  kind    : Nat
  version : Nat
  stopw   : Nat
deriving DecidableEq, Repr

def fieldNat (bs : List Byte) (off n : Nat) : Nat := leNat ((bs.drop off).take n)

def QArea.ofBytes (bs : List Byte) : QArea :=
  ⟨fieldNat bs 0 4, fieldNat bs 4 4, fieldNat bs 8 4, fieldNat bs 12 4, fieldNat bs 16 1, fieldNat bs 17 1, fieldNat bs 0x14 4,
    fieldNat bs 0x18 1⟩

/-- The bytes 0x00 to 0x18 of the area. -/
def QArea.bytes (q : QArea) : List Byte :=
  leBytes 4 q.dhead ++ leBytes 4 q.dtail ++ leBytes 4 q.thead ++ leBytes 4 q.ttail ++ leBytes 1 q.dlog ++ leBytes 1 q.tlog
    ++ [0, 0] ++ leBytes 4 q.cpos ++ leBytes 1 q.cur

def QDesc.ofBytes (bs : List Byte) : QDesc :=
  ⟨fieldNat bs 0 4, fieldNat bs 4 4, fieldNat bs 8 4, fieldNat bs 12 4, fieldNat bs 16 4, fieldNat bs 20 4, fieldNat bs 0x18 8,
    fieldNat bs 0x20 4, fieldNat bs 0x24 4, fieldNat bs 0x28 8, fieldNat bs 0x30 8⟩

def QDesc.bytes (d : QDesc) : List Byte :=
  leBytes 4 d.tstart ++ leBytes 4 d.tcount ++ leBytes 4 d.maxtok ++ leBytes 4 d.temp ++ leBytes 4 d.topp ++ leBytes 4 d.topk
    ++ leBytes 8 d.seed ++ leBytes 4 d.reqid ++ leBytes 4 d.kind ++ leBytes 8 d.version ++ leBytes 8 d.stopw
    ++ List.replicate 8 0

/-- Waiting and current descriptors: DTAIL − DHEAD. -/
def QArea.pending (q : QArea) : Nat := (q.dtail + 2 ^ 32 - q.dhead) % 2 ^ 32
def QArea.isCur (q : QArea) : Bool := q.cur = 1
/-- `qlen` IDX 0 (R384). -/
def QArea.waiting (q : QArea) : Nat := q.pending - b2n q.isCur
def QArea.descOff (q : QArea) (n : Nat) : Nat := 0x40 + 64 * (n % 2 ^ q.dlog)
def QArea.tokenOff (q : QArea) (n : Nat) : Nat := 0x40 + 64 * 2 ^ q.dlog + 4 * (n % 2 ^ q.tlog)

def State.queueVa (s : State) (ctx : Nat) : Nat := s.blk ctx 0x10

/-- An access of the dispatcher to the area: a fault of R234 is status 0x03 (R381). -/
def queueFault {α : Type} (x : Access α) : Access α :=
  match x with
  | .trap _ a _ => .trap 0x13 a 0x03
  | y => y

def State.queueLoad (s : State) (ctx off n : Nat) : Access (List Byte) :=
  match queueFault (s.ctxLoad ctx (s.queueVa ctx + off) n) with
  | .ok (bs, _) => .ok bs
  | .stall a => .stall a
  | .trap c a x => .trap c a x
def State.queueStore (s : State) (ctx off : Nat) (bs : List Byte) : Access State :=
  queueFault (s.ctxStore ctx (s.queueVa ctx + off) bs)

def State.descAt (s : State) (ctx : Nat) (q : QArea) (n : Nat) : Access QDesc :=
  (s.queueLoad ctx (q.descOff n) 64).bind fun bs => .ok (QDesc.ofBytes bs)

/-- The tests of status 0x01 on the header (R381). -/
def queueHeaderBad (bs : List Byte) : Bool :=
  let q := QArea.ofBytes bs
  q.dlog < 4 || q.dlog > 12 || q.tlog < 12 || q.tlog > 24 || fieldNat bs 0x12 2 ≠ 0 || fieldNat bs 0x19 39 ≠ 0
    || q.pending > 2 ^ q.dlog

/-- Read and check the area; the descriptor at DHEAD where it is current (R381). -/
def State.queueArea (s : State) (ctx : Nat) : Access (QArea × Option QDesc) :=
  (s.queueLoad ctx 0 64).bind fun bs =>
    let q := QArea.ofBytes bs
    if queueHeaderBad bs then .trap 0x13 (s.queueVa ctx) 0x01
    else if !q.isCur then .ok (q, none)
    else (s.descAt ctx q q.dhead).bind fun d => if q.cpos > d.tcount then .trap 0x13 (s.queueVa ctx) 0x01 else .ok (q, some d)

/-! Reply streams -/

def State.stream? (s : State) (ctx : Nat) : Option ReplyStream := s.hub.streams.find? (·.ctx = ctx)
def State.setStream (s : State) (r : ReplyStream) : State :=
  { s with hub := { s.hub with streams := s.hub.streams.map fun x => if x.ctx = r.ctx then r else x } }

/-- Send a chunk (R388): a chunk of no connection is discarded (R391), and one for virtio-net while the function is not
DRIVER_OK is discarded and counted (R397). -/
def State.sendChunk (s : State) (conn : Option Conn) (bytes : List Byte) : State :=
  match conn with
  | none => s
  | some c =>
    let ok := match c with
      | .ethernet _ => true
      | .virtio _ => bit (Sparse.get 0 s.hub.devStatus 0) 2
      | .vsock _ => bit (Sparse.get 0 s.hub.devStatus 1) 2
    if ok then { s with hub := { s.hub with sent := s.hub.sent ++ [⟨c, bytes, .rod⟩] } }
    else { s with hub := { s.hub with discarded := s.hub.discarded + 1 } }

/-- The bytes of a chunk (R388). -/
def chunkBytes (kind status tag offset aux : Nat) (payload : List Byte) : List Byte :=
  leBytes 2 1 ++ leBytes 1 kind ++ leBytes 1 status ++ leBytes 4 payload.length ++ leBytes 8 tag ++ leBytes 8 offset ++ leBytes 8 aux
    ++ payload

/-- Close and send the open chunk as data, where it holds anything and the stream is not ONECHUNK (R389). -/
def State.closeChunk (s : State) (r : ReplyStream) : State × ReplyStream :=
  if r.oneChunk || r.chunk.isEmpty then (s, r)
  else (s.sendChunk r.conn (chunkBytes 0 0 r.tag (r.offset - r.chunk.length) 0 r.chunk), { r with chunk := [] })

/-- Release bytes one after another: a data chunk is sent when it holds 4,096 (R389). -/
def State.releaseBytes (s : State) (r : ReplyStream) (bs : List Byte) (cycle : Nat) : State × ReplyStream :=
  bs.foldl (fun p b =>
    let r := p.2
    let r1 := { r with chunk := r.chunk ++ [b], chunkAt := if r.chunk.isEmpty then cycle else r.chunkAt, offset := r.offset + 1 }
    if r1.chunk.length ≥ 4096 then p.1.closeChunk r1 else (p.1, r1)) (s, r)

/-- Release all of pend (R372). -/
def State.releasePend (s : State) (r : ReplyStream) (cycle : Nat) : State × ReplyStream :=
  let p := s.releaseBytes r r.pendB cycle
  (p.1, { p.2 with pendB := [] })

/-- STOPW of a stop (R379). -/
def stopWord (limit : Bool) (index offset : Nat) : Nat :=
  packBits [(32, offset), (3, if limit then 0 else index), (1, b2n limit), (27, 0), (1, 1)]

/-- The spin of a token on a stream (R370, R386): none where it is refused with a code; else STOPW, where the stream stops. -/
def State.spin (s : State) (r : ReplyStream) (id cycle : Nat) : Except Nat (State × Option Nat) :=
  match r.slot with
  | none => .error 0x01
  | some k =>
    let img := (Sparse.get .empty s.hub.vocab k).image
    if id ≥ vocNtok img then .error 0x03
    else if r.stopped.isSome then .ok (s, none)
    else
      let pend := if tokSkip img id then r.pendB else r.pendB ++ tokString img id
      let r0 := { r with accepted := r.accepted + 1 }
      match stopMatch r.stops pend with
      | some (start, index) =>
        let p := s.releaseBytes { r0 with pendB := [], stopped := some (0x01, index) } (pend.take start) cycle
        let q := p.1.closeChunk p.2
        .ok (q.1.setStream q.2, some (stopWord false index q.2.offset))
      | none =>
        let h := max (utf8Hold pend) (stopHold r.stops pend)
        let p := s.releaseBytes { r0 with pendB := pend.drop (pend.length - h) } (pend.take (pend.length - h)) cycle
        if p.2.accepted ≥ r.maxtok then
          let q := p.1.releasePend { p.2 with stopped := some (0x02, 0) } cycle
          let z := q.1.closeChunk q.2
          .ok (z.1.setStream z.2, some (stopWord true 0 z.2.offset))
        else .ok (p.1.setStream p.2, none)

/-- `spflush` on an open stream (R372): a stopped one ignores it. -/
def State.flush (s : State) (r : ReplyStream) (cycle : Nat) : State :=
  if r.stopped.isSome then s
  else
    let p := s.releasePend r cycle
    let q := p.1.closeChunk p.2
    q.1.setStream q.2

/-- Flush a stream and close it with its final chunk, of status `status` unless it has stopped (R372, R388). -/
def State.closeStream (s : State) (r : ReplyStream) (status cycle : Nat) : State :=
  let p := if r.stopped.isSome then (s, r) else s.releasePend r cycle
  let st := (p.2.stopped.getD (status, 0))
  let s1 := p.1.sendChunk r.conn (chunkBytes 1 st.1 r.tag (p.2.offset - p.2.chunk.length) (if st.1 = 0x01 then st.2 else 0) p.2.chunk)
  { s1 with hub := { s1.hub with streams := s1.hub.streams.filter (·.ctx ≠ r.ctx) } }

/-- Bytes of a request's message, little-endian. -/
def Request.field (r : Request) (off n : Nat) : Nat := fieldNat r.message off n
/-- The stop strings of a request header (R376). -/
def Request.stops (r : Request) : List (List Byte) :=
  (List.range (r.field 0x38 1)).map fun i => (r.message.drop (0x48 + 40 * i)).take (r.field (0x40 + 40 * i) 1)

/-- The vocabulary slot a micro-context's VOCAB names, where VV is 1 and it is ready (R365). -/
def State.vocabSlot (s : State) (ctx : Nat) : Option Nat :=
  let k := s.blkBits ctx 0x50 45 43
  if bit (s.blk ctx 0x50) 46 && (Sparse.get .empty s.hub.vocab k).state = 2 then some k else none

/-- Open the reply stream of a descriptor (R370, R386). -/
def State.openStream (s : State) (ctx : Nat) (d : QDesc) : State :=
  let req := if d.kind = 0 then s.hub.requests.find? (fun r => r.ctx = ctx && r.stage = .appended d.reqid) else none
  let base : ReplyStream := ⟨ctx, none, 0, false, s.vocabSlot ctx, [], none, 0, 0, d.maxtok, [], [], 0⟩
  let st := match req with
    | some r => { base with conn := r.conn, tag := r.field 0x30 8, oneChunk := bit (r.field 4 4) 0, stops := r.stops }
    | none => base
  { s with hub := { s.hub with
      requests := s.hub.requests.filter fun r => !(r.ctx = ctx && r.stage = .appended d.reqid && d.kind = 0)
      streams := s.hub.streams ++ [st] } }

/-! Ending a request, and taking the next -/

/-- Descriptor `n` of a micro-context leaves its queue: the binding under way serves its ticket (R391). -/
def State.retireDesc (s : State) (ctx n : Nat) : State :=
  let s1 := s.updDie (homeDie ctx) fun d =>
    { d with tickets := d.tickets.map fun t => if t.ctx = ctx && t.desc = n && !t.served then { t with served := true } else t }
  if n = (s.extra ctx).bindDesc then s1.updExtra ctx fun x => { x with servedDesc := true } else s1

/-- End the current request (R382, R383): the stream ends, with a final chunk of `status` unless it has stopped, and the
descriptor and its tokens are freed. -/
def State.endCurrent (s : State) (ctx : Nat) (q : QArea) (d : QDesc) (status cycle : Nat) : Access (State × QArea) :=
  let q1 := { q with cur := 0, cpos := 0, dhead := (q.dhead + 1) % 2 ^ 32, thead := (d.tstart + d.tcount) % 2 ^ 32 }
  (s.queueStore ctx 0 q1.bytes).bind fun s1 =>
    let s2 := match s1.stream? ctx with
      | some r => s1.closeStream r status cycle
      | none => s1
    .ok (s2.retireDesc ctx q.dhead, q1)

/-- `qget` NEXT (R382). -/
def State.nextRequest (s : State) (ctx : Nat) (q : QArea) (d : Option QDesc) (cycle : Nat) : Access (State × Nat) :=
  let ended : Access (State × QArea) := match d with
    | some x => s.endCurrent ctx q x 0 cycle
    | none => .ok (s, q)
  ended.bind fun (s1, q1) =>
    if q1.pending = 0 then .ok (s1, 2 ^ 64 - 1)
    else
      (s1.descAt ctx q1 q1.dhead).bind fun x =>
        (s1.queueStore ctx 0 { q1 with cur := 1, cpos := 0 }.bytes).bind fun s2 =>
          .ok (if q1.dhead = (s2.extra ctx).bindDesc then (s2.openStream ctx x).updExtra ctx fun y => { y with servedDesc := true }
            else s2.openStream ctx x, x.reqid)

/-! The queue words (R381) -/

/-- A queue word served by the home dispatcher: a page state of the area holds it. -/
def runQueue (i : Instr) (f : SX) (s : State) (body : Nat → Job → QArea → Option QDesc → Access (State × Option Nat)) : Result :=
  runWord i f.g [f.d.toNat, f.a.toNat] [] s fun n _ j =>
    match (s.queueArea j.ctx).bind fun (q, d) => body n j q d with
    | .ok (s1, v) => .done (match v with
      | some x => s1.updJob n (·.ws f.d.toNat (BitVec.ofNat 64 x))
      | none => s1) 0
    | .stall a => .stay (s.collapsePage j.ctx a)
    | .trap c a x => .trap (trap c a x) s

/-- What `qget` and `qpeek` of a field other than TOK and NEXT return. -/
def queueField (d : QDesc) (idx : Nat) : Nat :=
  match idx with
  | 2 => d.maxtok
  | 3 => d.temp
  | 4 => d.topp
  | 5 => d.topk
  | 6 => d.seed
  | 7 => d.stopw
  | 8 => d.tcount
  | _ => d.reqid

/-- The next token of the current request. -/
def State.nextToken (s : State) (ctx : Nat) (q : QArea) (d : QDesc) : Access (Option Nat) :=
  if q.cpos < d.tcount then
    (s.queueLoad ctx (q.tokenOff ((d.tstart + q.cpos) % 2 ^ 32)) 4).bind fun bs => .ok (some (leNat bs))
  else .ok none

def allOnes : Nat := 2 ^ 64 - 1

def execQget (f : SX) (s : State) : Result :=
  runQueue (.qget f) f s fun _ j q d =>
    let ctx := j.ctx
    match f.idx.toNat, d with
    | 1, _ => (s.nextRequest ctx q d (s.cycle (homeDie ctx))).bind fun (s1, v) => .ok (s1, some v)
    | _, none => .ok (s, some allOnes)
    | 0, some x =>
      (s.nextToken ctx q x).bind fun t =>
        match t with
        | none => .ok (s, some allOnes)
        | some v => (s.queueStore ctx 0x14 (leBytes 4 (q.cpos + 1))).bind fun s1 => .ok (s1, some v)
    | k, some x => .ok (s, some (queueField x k))

/-- `qpeek` returns what `qget` would (R382). -/
def execQpeek (f : SX) (s : State) : Result :=
  runQueue (.qpeek f) f s fun _ j q d =>
    let ctx := j.ctx
    match f.idx.toNat, d with
    | 1, _ => (s.nextRequest ctx q d (s.cycle (homeDie ctx))).bind fun (_, v) => .ok (s, some v)
    | _, none => .ok (s, some allOnes)
    | 0, some x => (s.nextToken ctx q x).bind fun t => .ok (s, some (t.getD allOnes))
    | k, some x => .ok (s, some (queueField x k))

def execQlen (f : SX) (s : State) : Result :=
  runQueue (.qlen f) f s fun _ _ q d =>
    .ok (s, some (if f.idx.toNat = 0 then q.waiting else match d with
      | some x => x.tcount - q.cpos
      | none => 0))

/-- A `qwait` holds at issue until a request waits, or its limit has passed since it began (R385). -/
def runQwait (i : Instr) (f : SX) (s : State) (late : Nat → Bool) : Result :=
  runWord i f.g [f.d.toNat] [] s fun n _ j =>
    match s.queueArea j.ctx with
    | .stall _ => .wait
    | .trap c a x => .trap (trap c a x) s
    | .ok (q, _) =>
      let now := s.cycle (n / 16)
      let start := j.waitFrom.getD now
      if q.waiting > 0 || late (now - start) then
        .done (s.setJob n ({ j with waitFrom := none }.ws f.d.toNat (BitVec.ofNat 64 q.waiting))) 0
      else .stay (s.setJob n { j with waitFrom := some start })

def execQwait (f : SX) (s : State) : Result := runQwait (.qwait f) f s fun _ => false
def execQwaitTimeout (f : SX) (s : State) : Result := runQwait (.qwaitTimeout f) f s fun c => c ≥ f.imm.toNat

/-- A word on the reply stream that is open (R381: status 0x02 where none is). -/
def withStream (s : State) (j : Job) (body : ReplyStream → Access (State × Option Nat)) : Access (State × Option Nat) :=
  match s.stream? j.ctx with
  | some r => body r
  | none => .trap 0x13 (s.queueVa j.ctx) 0x02

def execSpin (f : SX) (s : State) : Result :=
  runWord (.spin f) f.g [f.a.toNat] [] s fun _ _ j =>
    let a := (j.rs f.a.toNat).toNat
    if a ≥ 2 ^ 32 then .trap (wordTrap 0x03 0 (.spin f)) s
    else
      match (s.queueArea j.ctx).bind (fun (q, _) => withStream s j fun r =>
        match s.spin r a (s.cycle (homeDie j.ctx)) with
        | .error c => .trap 0x14 0 c
        | .ok (s1, none) => .ok (s1, none)
        | .ok (s1, some w) => (s1.queueStore j.ctx (q.descOff q.dhead + 0x30) (leBytes 8 w)).bind fun s2 => .ok (s2, none)) with
      | .ok (s1, _) => .done s1 0
      | .stall _ => .wait
      | .trap c b x => .trap (trap c b x) s

def execSpflush (f : SX) (s : State) : Result :=
  runQueue (.spflush f) f s fun _ j _ _ => withStream s j fun r => .ok (s.flush r (s.cycle (homeDie j.ctx)), none)

def execSpend (f : SX) (s : State) : Result :=
  runQueue (.spend f) f s fun _ j _ _ => withStream s j fun r => .ok (s.closeStream r 0 (s.cycle (homeDie j.ctx)), none)

end Sys2Proof.Machine
end

