-- ==== Sys2Proof/Machine/Preempt.lean ====
section
/-!
DEFINITION. Pre-emption of a job (R200 to R205, R350 to R355): the request, the hold of every engine, the save, the cut of a drain,
the exchange of the scratchpad, and the job that is loaded again.
-/
namespace Sys2Proof.Machine

/-! Holding -/

/-- A save or a restore of the matrix state is abandoned at a granule (R175). -/
def isImageMove : Instr → Bool
  | .msave _ => true
  | .mrestore _ => true
  | _ => false

/-- The engine has left the level that a pre-emption takes it out of, if there is one (R350). -/
def Preempt.left (p : Preempt) (e : Engine) : Bool := p.cut || p.gone.get e || (match p.plan.get e with
  | .none => true
  | _ => false)

/-- The engine holds at its pre-emption point (R200). -/
def Job.holdsAt (j : Job) (p : Preempt) : Engine → Bool
  | .s => match j.swait with
    | .slice _ _ => false
    | _ => true
  | .m => p.left .m && j.mqueue.all fun c => !c.started || isImageMove c.instr
  | e => p.left e

/-- A drain has ended with passes left: CLAMP (R351). -/
def Job.drained? (j : Job) (p : Preempt) : Option Nat :=
  match p.clamp with
  | some c =>
    let gg := j.share (j.loop p.level).kind
    if p.cut || firstPass c gg.1 gg.2 ≥ (j.level p.level).trip then none else some c
  | none => none

/-- A body stream of a drained level resumes at its prologue, or at its first body section (R351, step 3). -/
def Job.toPrologue (j : Job) (n : Nat) (e : Engine) : Job :=
  let st := j.stream (.ofEngine e)
  let h := if ((j.loop n).spans.get e).pro = 0xFFF then Sparse.get 0 st.firsts n else Sparse.get 0 st.pros n
  if !(j.loop n).body.get e || h = 0 then j
  else j.setStream (.ofEngine e) { st.goTo h with out := 0, flight := [], closed := false, ended := false }

/-- Every engine holds: `LOOPSAVE` and the resumption points of a drain, the queued images of M (R161, R175, R351). -/
def Job.atPoints (j : Job) (p : Preempt) : Job :=
  let j1 := match j.drained? p with
    | some c => allEngines.foldl (fun (j : Job) e => j.toPrologue p.level e)
        { j with loopsave := BitVec.ofNat 64 (packBits [(32, c), (3, p.level), (28, 0), (1, 1)]) }
    | none => j
  { j1 with mqueue := j1.mqueue.map fun (c : MCommand) => { c with started := false, parts := 0, queued := true } }

/-- The kind of point an engine was taken at (R204). -/
def Job.pointKind (j : Job) (p : Preempt) (e : Engine) : Nat :=
  match p.cut, p.plan.get e, e with
  | false, .epilogue, _ => 2
  | false, .dSection, _ => 1
  | _, _, .c => if j.ccmd.isSome then 3 else 0
  | _, _, _ => 0

/-- `PREREC` after one more pre-emption, whose slowest engine held after `lat` cycles (R204). -/
def Job.recordPreempt (j : Job) (p : Preempt) (lat : Nat) : Job :=
  let k (e : Engine) : Nat × Nat := (2, j.pointKind p e)
  { j with prerec := BitVec.ofNat 64 (packBits [(20, min 0xFFFFF (bits j.prerec.toNat 19 0 + 1)), (12, min 4095 lat), (8, 0),
      k .s, k .v, k .m, k .c]) }

/-- A pre-emption request reaches a core whose group the dispatcher pre-empts (R200). Input: `core`. -/
def execPreemptionRequest (s : State) : Result :=
  runEvent s fun x =>
    match s.job? x.core with
    | some j => if (s.extra j.ctx).wanted then s.requestPreempt x.core else s
    | none => s

/-- The slowest engine holds and the save begins (R201); a request that a slice has admitted completes first (R200, R290). Input:
`core`. -/
def execEngineHold (s : State) : Result :=
  runEvent s fun x =>
    match s.job? x.core with
    | none => s
    | some j =>
      match j.preempt with
      | none => s
      | some p =>
        if p.swap || p.saving || !allEngines.all (j.holdsAt p) || s.unrun x.core (fun _ => true) then s
        else
          s.setJob x.core { (j.atPoints p).recordPreempt p (s.cycle (x.core / 16) - p.arrived) with
            preempt := some { p with saving := true } }

/-- A drain, or a wait for a D section, has outlasted EPLEN: it is cut, and the job takes cause 0x0F when it is bound again
(R355). Input: `core`. -/
def execDrainCut (s : State) : Result :=
  runEvent s fun x =>
    match s.job? x.core with
    | none => s
    | some j =>
      match j.preempt with
      | none => s
      | some p =>
        match p.eplen with
        | none => s
        | some n =>
          let now := s.cycle (x.core / 16)
          if p.swap || p.saving || p.cut || now < p.arrived + n || allEngines.all p.left then s
          else
            let sect := match s.currentSection j .s with
              | some (a, _) => a
              | none => Config.freeNat s.tick 2 % 4096
            let r : TrapRecord := ⟨0x0F, 0, sect, j.streams.s.word, j.trapStat .s 0, 0, now - (p.arrived + n)⟩
            s.setJob x.core { j with preempt := some { p with cut := true }, rebind := j.rebind ++ [r] }

/-! The job extension record (R205) -/

def heldBytes : Option TrapRecord → List Byte
  | some r => recordBytes false r 0
  | none => List.replicate 64 0#8

/-- The nine words of the trap registers. -/
def Job.trapWords (j : Job) : List Nat :=
  [j.trap.cause + 256 * b2n j.pend, j.trap.stream, j.trap.sect, j.trap.word, j.trap.stat, j.trap.addr, j.trap.aux, j.trapctl, j.rets.toNat]

def Job.extensionRecord (j : Job) : List Byte :=
  (List.range 8).flatMap (fun m => (List.range 32).flatMap fun o => leBytes 8 ((j.mon m).word o))
    ++ (List.range 8).flatMap (fun i => leBytes 8 (Sparse.get (0 : Word) j.perfsel i).toNat)
    ++ (List.range 8).flatMap (fun i => leBytes 8 (Sparse.get (0 : Word) j.perfcnt i).toNat)
    ++ leBytes 8 j.prerec.toNat ++ leBytes 8 0 ++ j.trapWords.flatMap (leBytes 8) ++ leBytes 8 0
    ++ heldBytes j.heldv ++ heldBytes j.heldm ++ heldBytes j.heldc ++ List.replicate 1632 0#8

/-- Where the record lies in the park page, and the scratchpad (R334). -/
def recordAt : Nat := 0xE0000
def padAt : Nat := 0x100000

/-- Load the record into a job. -/
def Job.loadRecord (j : Job) (c : Sparse Byte) : Job :=
  let w (o : Nat) : Nat := regionNat c (recordAt + o) 8
  let rec_ (o : Nat) : TrapRecord := ⟨w o % 256, w (o + 8) % 4, w (o + 16) % 4096, w (o + 24) % 512, w (o + 32), w (o + 40), w (o + 48)⟩
  let held (o : Nat) : Option TrapRecord := if w o % 256 = 0 then none else some (rec_ o)
  let words (o : Nat) : Sparse Word := Sparse.ofList 0 0 ((List.range 8).map fun i => BitVec.ofNat 64 (w (o + 8 * i)))
  { j with
    mons := Sparse.ofList .idle 0 ((List.range 8).map fun m => Monitor.ofWords fun o => w (256 * m + 8 * o))
    perfsel := words 0x800, perfcnt := words 0x840, prerec := BitVec.ofNat 64 (w 0x880)
    trap := rec_ 0x890, skip := bit (w 0x8C8) 0, hmode := bit (w 0x8C8) 1, nest := bit (w 0x8C8) 2
    rets := BitVec.ofNat 64 (w 0x8D0), heldv := held 0x8E0, heldm := held 0x920, heldc := held 0x960 }

/-! Saving -/

/-- The dispatcher writes a job's image, its record and its scratchpad into its park page (R334). -/
def State.saveJob (s : State) (j : Job) : State :=
  let put (s : State) (o : Nat) (bs : List Byte) : State := match s.ctxStore j.ctx (j.page + o) bs with
    | .ok s1 => s1
    | _ => s
  put (put (put s 0 j.contextImage) recordAt j.extensionRecord) padAt (j.padRead 0 padBytes)

/-- The block's bound cycles raise its PASS while it is best-effort or demoted (R338). -/
def State.chargePass (s : State) (ctx : Nat) : State :=
  if bit (s.blk ctx 0) 56 && !bit (s.blk ctx 0x68) 63 then s
  else
    let c := s.cycle (homeDie ctx) - (s.extra ctx).boundAt
    s.setBlk ctx 0x78 (min (2 ^ 64 - 1) (s.blk ctx 0x78 + s.blkBits ctx 0x50 19 0 * ceilDiv c 1024))

/-- The cores of a block's binding: the first, and how many (R331). -/
def shapeCores (shape : Nat) : Nat := if shape ≤ 7 then 2 ^ shape else 0
def State.groupSize (s : State) (ctx : Nat) : Nat := shapeCores (s.blkBits ctx 0 47 44)
def State.groupCores (s : State) (ctx : Nat) : List Nat :=
  (List.range (s.groupSize ctx)).map fun i => s.blkBits ctx 0x88 6 0 + i

/-- A binding ends: PASS, BIND (R328, R338). -/
def State.unbind (s : State) (ctx : Nat) : State :=
  ((s.chargePass ctx).setBlkBits ctx 0x88 8 0 0).updExtra ctx fun x => { x with wanted := false }

/-- A block becomes queued or parked (R328, R339). -/
def State.enterWait (s : State) (ctx st : Nat) : State :=
  ((s.setCtxState ctx st).setBlk ctx 0x80 (s.cycle (homeDie ctx))).updExtra ctx fun x => { x with starved := false }

/-- The last job of a pre-empted group has been saved: the group is parked; a faulted one stays faulted (R23, R187). -/
def State.groupSaved (s : State) (ctx : Nat) : State :=
  if !(s.coresOf ctx).isEmpty || !(s.extra ctx).wanted || !bit (s.blk ctx 0x88) 8 then s
  else if s.ctxState ctx = stFaulted then s.unbind ctx
  else (s.unbind ctx).enterWait ctx stParked

/-- The job's save is complete: the core is released (R201, R205). Input: `core`. -/
def execJobSaveComplete (s : State) : Result :=
  runEvent s fun x =>
    match s.job? x.core with
    | none => s
    | some j =>
      if !(j.preempt.any fun p => p.saving && !p.swap) then s
      else
        let j1 := { j with preempt := none, frozen := false, stalls := .all none }
        let s1 := (s.saveJob j1).updCore x.core fun c => { c with job := none, exchange := List.range 768 }
        (s1.updExtra j.ctx fun y => { y with parked := y.parked ++ [j1] }).groupSaved j.ctx

/-- A granule of the scratchpad has been exchanged with the vault (R202). Input: `core`, `index`. -/
def execScratchpadGranuleExchange (s : State) : Result :=
  runEvent s fun x => s.updCore x.core fun c => { c with exchange := c.exchange.filter (· ≠ x.index) }

/-! Resuming -/

/-- A parked job with what its park page holds (R334): image, record, scratchpad. What cannot be read, or is no image, leaves the
job as it was saved. -/
def State.loadJob (s : State) (j : Job) : Job :=
  match s.span noCore j.ctx j.wid j.conf .read j.page 0x400000 with
  | .at ps =>
    let c := s.cells ps
    match contextQueue c, contextCopy c (ctl c 0x248 8 / 2 ^ 52 % 512 - 1) with
    | some q, .ok k => { (s.loadContext j c q k).loadRecord c with pad := Sparse.window c padAt padBytes }
    | _, _ => j
  | _ => j

/-- A job with `LOOPSAVE.VALID` resumes its drained level (R353): a body stream takes the arming again. -/
def Job.resumeLoop (j : Job) : Job :=
  let w := j.loopsave.toNat
  if !bit w 63 then j
  else
    let n := bits w 34 32
    let iter := bits w 31 0
    let gg := j.share (j.loop n).kind
    let dec (x : Level) (e : Engine) : Nat :=
      if (j.loop n).body.get e && x.taken.get e = x.made then x.taken.get e - 1 else x.taken.get e
    (j.updLevel n fun x =>
      { x with active := true, made := x.made, taken := ⟨dec x .s, dec x .v, dec x .m, dec x .c⟩, mode := .all .out,
               p0 := firstPass iter gg.1 gg.2, gangGo := 1, begun := .all false, fin := .all 0, noStep := true }).wl n iter

end Sys2Proof.Machine
end

