-- ==== Sys2Proof/Machine/Pages.lean ====
section
/-!
DEFINITION. Firmware's commands on pages and translations (R36, R220 to R231, R246, R264, R320, R325, R327) and the page
operations that end on their own.
-/
namespace Sys2Proof.Machine

/-! Answers to firmware -/

/-- What a unit answers a firmware command with (R36); reason 0 for one that is accepted. -/
def State.respondTo (s : State) (x : Input) (command : String) (reason : Nat) (data : List Byte) : State :=
  { s with hub := { s.hub with responses := s.hub.responses ++ [⟨x.ring, x.tag, command, reason, data⟩] } }
def State.respond (s : State) (command : String) (reason : Nat) (data : List Byte) : State := s.respondTo s.input command reason data

/-- A refusal whose reason code the spec does not give: any but 0. -/
def State.refuse (s : State) (command : String) : State := s.respond command (1 + Config.freeNat s.tick 20 % 255) []

/-- Answer a command that is carried out, or refused with a reason the spec does not give. -/
def State.answer (s : State) (command : String) (r : Option State) : State :=
  match r with
  | some s1 => s1.respond command 0 []
  | none => s.refuse command

/-- Answer a command that is refused with a stated reason. -/
def State.answerReason (s : State) (command : String) (r : Except Nat State) : State :=
  match r with
  | .ok s1 => s1.respond command 0 []
  | .error c => s.respond command c []

/-! Command rings (R390) -/

/-- What a unit does with the command whose turn it is: it is carried out or refused, or it waits in its ring. -/
inductive Ran where
  | done (s : State)
  | wait (s : State)

/-- A command that has been carried out leaves a further change. -/
def Ran.map (f : State → State) : Ran → Ran
  | .done s => .done (f s)
  | .wait s => .wait s

/-- The commands a ring holds. -/
def State.ring (s : State) (r : Nat) : List Command := Sparse.get [] s.hub.rings r
def State.setRing (s : State) (r : Nat) (q : List Command) : State := { s with hub := { s.hub with rings := Sparse.set [] s.hub.rings r q } }

/-- A command of a ring runs once those before it in the ring have. -/
def State.ringTurn (s : State) (c : Command) : Bool := match s.ring c.input.ring with
  | [] => true
  | y :: _ => y = c

/-- A command takes its place in its ring of 256 entries; into a full ring the service core does not put it yet. -/
def State.ringWait (s : State) (c : Command) : State :=
  let q := s.ring c.input.ring
  if q.contains c || q.length ≥ 256 then s else s.setRing c.input.ring (q ++ [c])

/-- A command that has run leaves its ring. -/
def State.ringDone (s : State) (c : Command) : State :=
  if (s.ring c.input.ring).isEmpty then s else s.setRing c.input.ring ((s.ring c.input.ring).filter (· ≠ c))

/-- A firmware command reaches its ring, or is run from it: those of one ring run in its order (R390). -/
def runCommand (i : Instr) (s : State) (f : Input → Ran) : Result :=
  runEvent s fun x =>
    let c : Command := ⟨i, x⟩
    if !s.ringTurn c then s.ringWait c
    else match f x with
      | .done t => t.ringDone c
      | .wait t => t.ringWait c

/-- A command that never waits. -/
def runAtOnce (i : Instr) (s : State) (f : Input → State) : Result := runCommand i s fun x => .done (f x)

/-! Frames -/

/-- The state an assigned frame takes: HOST in the host tier, OWNED elsewhere (R324). -/
def ownedState (i : Nat) : Nat := if hostBase ≤ i then ownHost else ownOwned

/-- The frame at physical address `pa` lies in a park page that holds a saved job (R334). -/
def State.parkInUse (s : State) (pa : Nat) : Bool :=
  s.extras.any fun x => x.2.parked.any fun j => match s.leafOf noCore j.ctx j.page with
    | some l => l.pa / frameBytes ≤ pa / frameBytes && pa / frameBytes < (l.pa + 2 ^ l.size) / frameBytes
    | none => false

/-- A slice holds a line of the frame, or a request for one (R223 step 3, R230). -/
def Die.frameHeld (d : Die) (pa : Nat) : Bool :=
  d.slices.any fun p => p.2.queues.any (fun q => 64 * q.line / frameBytes = pa / frameBytes) ||
    p.2.input.any fun r => r.pa / frameBytes = pa / frameBytes

/-- The lines of a frame leave the slices. -/
def Die.dropFrame (d : Die) (pa : Nat) : Die :=
  { d with slices := Sparse.mapVals .idle d.slices fun y =>
      { y with lines := y.lines.filter fun l => 64 * l.line / frameBytes ≠ pa / frameBytes } }

/-- The lines of a frame are written back to it (R229 step 3). -/
def Die.cleanFrame (d : Die) (pa : Nat) : Die :=
  { d with slices := Sparse.mapVals .idle d.slices fun y =>
      { y with lines := y.lines.map fun l =>
          if 64 * l.line / frameBytes = pa / frameBytes then { l with dirty := false, stale := [] } else l } }

/-- The frame's bytes become those of another frame, or zero. -/
def State.copyFrame (s : State) (src dst : Nat) : State :=
  { s with mem := Sparse.overlay s.mem dst frameBytes (Sparse.window s.mem src frameBytes) }
def State.zeroFrame (s : State) (pa : Nat) : State := { s with mem := Sparse.overlay s.mem pa frameBytes [] }

/-! Assigning, freeing and scrubbing (R223, R224, R325) -/

/-- A frame assigned to a world stands for itself again in the world's translations. -/
def State.unname (s : State) (d wid i : Nat) : State :=
  s.updDie d fun x => { x with names := x.names.filter fun r => !(r.wid = wid && r.src = framePa d i / frameBytes) }

/-- Assign a FREE frame to a world: `kind` 0 an ordinary page, 1 a shared, 2 a private register page (R199). A frame in SCRUB
takes its next owner. -/
def State.assignFrame (s : State) (d i wid kind : Nat) : Option State :=
  let st := ownState (s.ownerEntry d i)
  if !s.frameExists d i || wid ≥ 4096 || kind > 2 then none
  else if st = ownFree then
    some ((s.unname d wid i).setOwnerTag d i (ownMake (ownedState i) 0 false (kind ≠ 0) (kind = 2) false false 0 wid 0))
  else if st = ownScrub && kind = 0 then
    some (s.setOwnerTag d i (ownMake ownScrub 0 false false false false true wid (ownWid (s.ownerEntry d i)) 0))
  else none

/-- Firmware assigns a frame. Input: `die`, `frame` (its entry's number), `wid`, `kind`. -/
def execFrameAssign (s : State) : Result :=
  runAtOnce .frameAssign s fun x => s.answer "FRAME_ASSIGN" (s.assignFrame x.die x.frame x.wid x.kind)

/-- The frames of the replicas of the page a frame lies in (R225). -/
def State.replicasOf (s : State) (pa : Nat) : List Nat :=
  ((s.die (paDie pa)).mtlb.filter fun t => t.meets pa 1).flatMap fun t =>
    t.copies.flatMap fun q => (List.range (2 ^ t.size / frameBytes)).map fun k => q + k * frameBytes

/-- Send a frame to the scrub path, and the replicas of its page; a shared segment loses it (R223, R246). -/
def State.scrubFrame (s : State) (d i : Nat) (next : Option Nat) : State :=
  let pa := framePa d i
  let s1 := (s.replicasOf pa).eraseDups.foldl (fun s q => s.enterScrub d (ownerIndex q) none) (s.enterScrub d i next)
  { s1 with hub := { s1.hub with shared := s1.hub.shared.filter fun g => !g.frames.contains (pa / frameBytes) } }

/-- The frame may leave its world at firmware's request (R325, R334). -/
def State.mayFree (s : State) (d i : Nat) : Bool :=
  let e := s.ownerEntry d i
  let st := ownState e
  (st = ownOwned || st = ownHost || st = ownShared || (st = ownArriving && ownFail e)) && !s.parkInUse (framePa d i)

/-- Firmware frees a frame, or reassigns it where `flag` is set. Input: `die`, `frame`, `flag`, `wid`. -/
def execFrameFree (s : State) : Result :=
  runAtOnce .frameFree s fun x =>
    s.answer "FRAME_FREE" (if s.mayFree x.die x.frame && x.wid < 4096 then
      some (s.scrubFrame x.die x.frame (if x.flag then some x.wid else none)) else none)

/-- The zero-fill of a frame in SCRUB ends (R223, steps 4 to 6), once its translations are gone and what was accepted for it has
performed: its lines leave the slices unwritten. Input: `die`, `frame`. -/
def execScrubZeroFillEnd (s : State) : Result :=
  runEvent s fun x =>
    let e := s.ownerEntry x.die x.frame
    let pa := framePa x.die x.frame
    if !s.frameExists x.die x.frame || ownState e ≠ ownScrub || s.roundsRun pa 1 || (s.die x.die).frameHeld pa then s
    else
      let s1 := ((s.zeroFrame pa).updDie x.die (·.dropFrame pa)).leaveEngine [(pa, frameBytes)]
      s1.setOwnerTag x.die x.frame
        (if ownNv e then ownMake (ownedState x.frame) 0 false false false false false 0 (ownNwid e) 0 else 0)

/-- The host lends host-tier frames to a die, at most 128 GiB (R206). Input: `die`, `frame` (frame number), `len` (count). -/
def execHostTierLending (s : State) : Result :=
  runAtOnce .hostTierLending s fun x =>
    let held := ((s.die x.die).lent.map (·.2)).foldl (· + ·) 0
    s.answer "HOST_TIER_LENDING" (if held + x.len ≤ 1048576 && x.frame + x.len ≤ 1048576 then
      some (s.updDie x.die fun d => { d with lent := d.lent ++ [(x.frame, x.len)] }) else none)

/-- Firmware sets the arrival bound, at most 2^24 cycles (R264). Input: `value`. -/
def execArrivalBoundSet (s : State) : Result :=
  runAtOnce .arrivalBoundSet s fun x =>
    s.answer "ARRIVAL_BOUND_SET" (if x.value ≤ 2 ^ 24 then some { s with hub := { s.hub with arrivalBound := x.value } } else none)

/-- A world owns a page in HBM or in the host tier, or one it has left there has not been scrubbed (R220). -/
def State.ownsOutside (s : State) (wid : Nat) : Bool :=
  s.dies.any fun d => d.2.owner.any fun p => 0x4000 ≤ p.1 && ownState p.2.toNat ≠ ownFree && ownWid p.2.toNat = wid

/-- The secure element writes a key slot, refused while its world owns a page there (R220). Input: `slot`, `data`. -/
def execKeyWrite (s : State) : Result :=
  runAtOnce .keyWrite s fun x =>
    s.answer "KEY_WRITE" (if x.slot < 4096 && !s.ownsOutside x.slot then
      some { s with hub := { s.hub with keySlots := Sparse.set [] s.hub.keySlots x.slot x.data } } else none)

/-- Firmware reads an ownership entry (R323). Input: `die`, `index`. -/
def execOwnershipEntryRead (s : State) : Result :=
  runAtOnce .ownershipEntryRead s fun x => s.respond "OWNERSHIP_ENTRY_READ" 0 (leBytes 8 (s.ownerEntry x.die x.index))

/-- REPL of an entry: the vaults of its replicas (R316). -/
def TlbEntry.repl (t : TlbEntry) : Nat :=
  (List.range 16).foldl (fun a c => if t.copies.any (fun pa => paOff pa / 2 ^ 27 = c) then a + 2 ^ c else a) 0

/-- Firmware reads a memory-side TLB entry: HOLD, REPL, COLL, PERM (R316). Input: `die`, `index`. -/
def execTlbEntryRead (s : State) : Result :=
  runAtOnce .tlbEntryRead s fun x =>
    match (s.die x.die).mtlb[x.index]? with
    | some t => s.respond "TLB_ENTRY_READ" 0 (leBytes 2 t.hold ++ leBytes 2 t.repl ++ leBytes 1 (b2n t.coll) ++ leBytes 1 t.perm)
    | none => s.refuse "TLB_ENTRY_READ"

/-! Migration (R229, R230) -/

/-- Objects and their waiters go with the frames they lie in. -/
def State.moveObjects (s : State) (d src dst n : Nat) : State :=
  let f (x : Nat) : Nat := if src ≤ x && x < src + n then dst + (x - src) else x
  let s1 := s.updDie d fun y =>
    { y with objects := y.objects.map fun (o : Nat × List Byte) => (f o.1, o.2), waiters := Sparse.rekey [] y.waiters f, captures := Sparse.rekey [] y.captures f }
  allCores.foldl (fun s c => s.updJob c fun j => match j.swait with
    | .object a => { j with swait := .object (f a) }
    | _ => j) s1

/-- The frames of a page of one of the four sizes (R310). -/
def pageFrames? (n : Nat) : Bool := n = 1 || n = 32 || n = 1024 || n = 32768

/-- Entry `i` is the first of a page of `n` frames: its frame number in its tier is a multiple of `n` (R210, R312). -/
def wholePage (n i : Nat) : Bool := (if i < 0x4000 then i else (i - 0x4000) % 1048576) % n = 0

/-- A page of `n` frames from entry `src` may move to the frames from `dst` (R229, R325): whole pages, none of 4 GiB into a vault
(R210). -/
def State.mayMove (s : State) (d src dst n : Nat) : Bool :=
  let e0 := s.ownerEntry d src
  let st := ownState e0
  pageFrames? n && wholePage n src && wholePage n dst && !(dst < 0x4000 && n > 1024) &&
    (s.die d).mtlb.all (fun t => !t.meets (framePa d src) n || (t.pa = framePa d src && 2 ^ t.size = n * frameBytes)) &&
    (st = ownOwned || st = ownHost || st = ownShared) && !(st = ownShared && hostBase ≤ dst) &&
    (List.range n).all fun k =>
      let e := s.ownerEntry d (src + k)
      s.frameExists d (src + k) && s.frameExists d (dst + k) && ownState e = st && ownWid e = ownWid e0 && !ownReg e
        && ownState (s.ownerEntry d (dst + k)) = ownFree && !s.parkInUse (framePa d (src + k))

/-- Both pages take state MIGRATING (R229 step 1, R325). -/
def State.startMove (s : State) (d src dst n : Nat) : State :=
  let s1 := (List.range n).foldl (fun s k =>
    let e := s.ownerEntry d (src + k)
    let v := ownMake ownMigrating (ownState e) (ownCode e) false false false false 0 (ownWid e) 0
    (s.setOwnerTag d (src + k) v).setOwnerTag d (dst + k) v) s
  s1.updDie d fun x => { x with work := x.work ++ [.move src dst n 0] }

/-- Firmware migrates a page. Input: `die`, `frame` and `dest` (entries of the first frames), `len` (frames). -/
def execMigration (s : State) : Result :=
  runAtOnce .migration s fun x =>
    s.answer "MIGRATION" (if s.mayMove x.die x.frame x.dest x.len then some (s.startMove x.die x.frame x.dest x.len) else none)

/-- The world's table entries that name the page at frame `src` of a die stand for the page at `dst` from now on: so does each that
stood for `src` (R229, R246; log entry 60). -/
def renameFrame (names : List PageName) (wid src dst : Nat) : List PageName :=
  let moved := (names.map fun r => if r.wid = wid && r.dst = src then { r with dst := dst } else r).filter fun r =>
    r.src ≠ r.dst && !(r.wid = wid && (r.src = src || r.src = dst))
  moved ++ [⟨wid, src, dst⟩]

def State.rename (s : State) (d wid src dst n : Nat) : State :=
  s.updDie d fun x => { x with names := (List.range n).foldl (fun l k => renameFrame l wid (src + k) (dst + k)) x.names }

/-- The worlds whose translations name a page: its owner, and the sharers of its segment. -/
def State.namers (s : State) (f wid : Nat) : List Nat :=
  (wid :: (s.hub.shared.filter fun g => g.frames.contains f).flatMap (·.sharers)).eraseDups

/-- A move ends at its source (R231): the page stays there in its former state, and the destination is scrubbed. -/
def State.abortMove (s : State) (d src dst n m : Nat) : State :=
  let s1 := s.updDie d fun x => { x with work := x.work.filter (· ≠ .move src dst n m) }
  (List.range n).foldl (fun s k =>
    let e := s.ownerEntry d (src + k)
    (s.setOwnerTag d (src + k) (ownMake (ownPrev e) 0 (ownCode e) (ownReg e) (ownPriv e) false false 0 (ownWid e) 0)).enterScrub d (dst + k)
      none) s1

/-- An uncorrectable error in a source frame ends its move (R231). -/
def State.abortMoves (s : State) (d : Nat) (bad : Nat → Bool) : State :=
  (s.die d).work.foldl (fun s w => match w with
    | .move src dst n m => if (List.range n).any (fun k => bad (src + k)) then s.abortMove d src dst n m else s
    | _ => s) s

/-- The memory-side TLB names the destination; the page takes its former state; the source is scrubbed (R229, steps 5, 6). A later walk
finds the destination too. -/
def State.endMove (s : State) (d src dst n : Nat) : State :=
  let a := framePa d src
  let b := framePa d dst
  let e0 := s.ownerEntry d src
  let st := if ownPrev e0 = ownShared then ownShared else ownedState dst
  let s1 := s.updDie d fun x =>
    { x with
      work := x.work.filter (· ≠ .move src dst n n)
      mtlb := (x.mtlb.filter fun t => !t.meets a n || (a ≤ t.pa && t.pa + 2 ^ t.size ≤ a + n * frameBytes)).map fun t =>
        if t.meets a n then { t with pa := b + (t.pa - a) } else t }
  let s2 := (List.range n).foldl (fun s k =>
    let e := s.ownerEntry d (src + k)
    s.setOwnerTag d (dst + k) (ownMake st 0 (ownCode e) false false false false 0 (ownWid e) 0)) (s1.moveObjects d a b (n * frameBytes))
  let f (x : Nat) : Nat := if a / frameBytes ≤ x && x < a / frameBytes + n then b / frameBytes + (x - a / frameBytes) else x
  let s2' := (s2.namers (a / frameBytes) (ownWid e0)).foldl (fun s w => s.rename d w (a / frameBytes) (b / frameBytes) n) s2
  let s3 := { s2' with hub := { s2'.hub with shared := s2'.hub.shared.map fun g => { g with frames := g.frames.map f } } }
  (List.range n).foldl (fun s k => s.enterScrub d (src + k) none) s3

/-- A part of a page in migration has moved; after the last, the round of its translations begins, and once that has ended the
page is at its destination (R229). A held line's part waits (R230). Input: `die`, `frame`. -/
def execMigrationPartMoved (s : State) : Result :=
  runEvent s fun x =>
    match (s.die x.die).work.find? (fun w => match w with
      | .move src _ _ _ => src = x.frame
      | _ => false) with
    | some (.move src dst n m) =>
      let a := framePa x.die (src + m)
      if m < n then
        if (s.die x.die).frameHeld a then s
        else
          let s1 := (s.updDie x.die fun d =>
            { d.cleanFrame a with work := d.work.map fun w => if w = .move src dst n m then .move src dst n (m + 1) else w }).copyFrame a
              (framePa x.die (dst + m))
          if m + 1 = n then s1.roundsOf (framePa x.die src) n .keep else s1
      else if s.roundsRun (framePa x.die src) n then s
      else s.endMove x.die src dst n
    | _ => s

/-! Read duplication (R225) -/

/-- Vault of a vault frame. -/
def vaultOfFrame (i : Nat) : Nat := i / 1024

/-- Replicas of the page at entry `src` may be placed at the entries `reps`. -/
def State.mayDuplicate (s : State) (d src : Nat) (t : TlbEntry) (reps : List Nat) : Bool :=
  let n := 2 ^ t.size / frameBytes
  let frames (i : Nat) : List Nat := (List.range n).map (i + ·)
  let st := ownState (s.ownerEntry d src)
  let vaults := reps.map vaultOfFrame ++ (if src < 0x4000 then [vaultOfFrame src] else [])
  t.copies.isEmpty && !t.coll && src < hostBase && (st = ownOwned || st = ownShared) && reps ≠ [] && reps.length ≤ 15 && vaults.Nodup &&
    (frames src).all (fun i => ownState (s.ownerEntry d i) = st && !ownReg (s.ownerEntry d i)) &&
    reps.all fun r => r % n = 0 && (frames r).all fun i => i < 0x4000 && vaultOfFrame i = vaultOfFrame r && ownState (s.ownerEntry d i) = ownFree

/-- Firmware read-duplicates a page: translations that cores held of the master alone go. Input: `die`, `frame`, `nats` (entries of the replicas' first frames). -/
def execReadDuplicate (s : State) : Result :=
  runAtOnce .readDuplicate s fun x =>
    s.answer "READ_DUPLICATE" (match (s.die x.die).mtlb.find? (fun t => t.pa = framePa x.die x.frame) with
      | none => none
      | some t =>
        if !s.mayDuplicate x.die x.frame t x.nats then none
        else
          let s1 := x.nats.foldl (fun s r => (List.range (2 ^ t.size / frameBytes)).foldl (fun s k =>
            (s.copyFrame (framePa x.die (x.frame + k)) (framePa x.die (r + k))).setOwnerTag x.die (r + k) (s.ownerEntry x.die (x.frame + k))) s) s
          some ((s1.mapTlbs x.die (List.range 16) (·.filter fun y => !(y.pa = t.pa && y.size = t.size))).updDie x.die fun d =>
            { d with mtlb := d.mtlb.map fun y =>
                if y.pa = t.pa && y.size = t.size then
                  { y with copies := x.nats.map (framePa x.die), perm := fillPerm y.perm true, hold := 0 } else y }))

/-! Shadow commands (R320, R321) -/

/-- A directory entry that is malformed (R313). -/
def directoryMalformed (e : Nat) : Bool := bit e 0 && (bits e 63 52 ≠ 0 || bits e 7 1 ≠ 0 || entryAddr e % 4096 ≠ 0)

/-- A round of an identifier runs on the die (R321). -/
def State.roundOf (s : State) (d ctx : Nat) : Bool :=
  (s.die d).work.any fun w => match w with
    | .round a _ _ _ _ => a = ctx
    | _ => false

/-- The memory-side unit of die `d` runs the shadow commands of one identifier one at a time, in arrival order: a command completes once its
write is performed and its round is over (R321). Walks of the model are whole steps, so that none is under way. -/
def runShadow (i : Instr) (name : String) (s : State) (d : Input → Nat) (perform : Input → Except Nat State)
    (rounds : State → Input → Bool) : Result :=
  runCommand i s fun x =>
    let mine (y : ShadowCommand) : Bool := y.row = i && y.input = x
    let put (t : State) (f : List ShadowCommand → List ShadowCommand) : State := t.updDie (d x) fun y => { y with shadow := f y.shadow }
    let start (f : State → State) : Ran := match perform x with
      | .error c => .done ((f s).respond name c [])
      | .ok t => if rounds t x then .wait (put (f t) (· ++ [⟨x.ctx, i, x, true⟩])) else .done ((f t).respond name 0 [])
    match (s.die (d x)).shadow.find? (·.ctx = x.ctx) with
    | none => start id
    | some y =>
      if mine y then (if !y.performed then start (put · (·.filter (!mine ·)))
        else if rounds s x then .wait s else .done ((put s (·.filter (!mine ·))).respond name 0 []))
      else .wait (if (s.die (d x)).shadow.any mine then s else put s (· ++ [⟨x.ctx, i, x, false⟩]))

/-- A leaf maps a CODE frame with R or W, or a frame without CODE with X (R320, reason 0x03). -/
def State.codeMismatch (s : State) (level e : Nat) : Bool :=
  bit e 0 && bit e 1 && (List.range (2 ^ levelShift level / frameBytes)).any fun k =>
    ownCode (s.ownerAt (entryAddr e + k * frameBytes)) != (entryPerm e = 4)

/-- SHSET writes an entry that holds V = 0: level `level` of die `d`'s addresses, 5 for the directory. -/
def State.shset (s : State) (d level addr value : Nat) : Except Nat State :=
  let bad := if level = 5 then directoryMalformed value else bit value 0 && entryMalformed level d value
  if bad then .error 0x01
  else if bit (s.natPa addr 8) 0 then .error 0x02
  else if level ≠ 5 && s.codeMismatch level value then .error 0x03
  else .ok (s.writePa addr (leBytes 8 value))

/-- Input: `ctx`, `die`, `index` (level), `va` (entry's physical address), `value`. -/
def execShset (s : State) : Result :=
  runShadow .shset "SHSET" s (·.die) (fun x => s.shset x.die x.index x.va x.value) fun _ _ => false

/-- The addresses of the entries a walk reads. -/
def State.walkReadsFrom (s : State) (ctx va : Nat) : (fuel n tab : Nat) → List Nat
  | 0, _, _ => []
  | fuel + 1, n, tab =>
    let at_ := tab + 8 * (va / 2 ^ levelShift n % levelEntries n)
    let e := s.natPa at_ 8
    at_ :: (if bit e 0 && !bit e 1 then s.walkReadsFrom ctx va fuel (n + 1) (entryAddr e) else [])
def State.walkReads (s : State) (ctx va : Nat) : List Nat :=
  let at_ := s.blk ctx 0x08 + 8 * bits va 51 49
  at_ :: s.walkReadsFrom ctx va 5 0 (entryAddr (s.natPa at_ 8))

/-- SHCLR writes V = 0 and removes every translation the entry covered. -/
def State.shclr (s : State) (ctx d addr : Nat) : Except Nat State :=
  if !s.tablePage ctx addr then .error 0x04
  else
    let covered := (s.die d).mtlb.filter fun t => t.asid = ctx && (s.walkReads ctx t.va).contains addr
    .ok (covered.foldl (fun s t => s.startRound d t .drop) (s.writePa addr (leBytes 8 (putBits (s.natPa addr 8) 0 0 0))))

/-- Input: `ctx`, `die`, `va`. -/
def execShclr (s : State) : Result :=
  runShadow .shclr "SHCLR" s (·.die) (fun x => s.shclr x.ctx x.die x.va) fun t x => t.roundOf x.die x.ctx

/-- An identifier flush (R319): every die's memory-side unit discards the identifier's entries and runs a round to the union of
their holders. -/
def State.flushIdentifier (s : State) (ctx : Nat) : State :=
  allDies.foldl (fun s d =>
    let held := ((s.die d).mtlb.filter (·.asid = ctx)).foldl (fun a t => a ||| t.hold) 0
    s.updDie d fun x =>
      { x with mtlb := x.mtlb.filter (·.asid ≠ ctx)
               work := if held = 0 then x.work else x.work ++ [.round ctx 0 52 (maskCores held) .drop] }) s

/-- SHROOT installs a root directory. -/
def State.shroot (s : State) (ctx addr : Nat) : Except Nat State :=
  if !s.tablePage ctx addr then .error 0x04 else .ok ((s.setBlk ctx 0x08 addr).flushIdentifier ctx)

/-- The unit of the identifier's home die takes the command, and the flush is every die's (R319). Input: `ctx`, `va`. -/
def execShroot (s : State) : Result :=
  runShadow .shroot "SHROOT" s (homeDie ·.ctx) (fun x => s.shroot x.ctx x.va) fun t x => allDies.any (t.roundOf · x.ctx)

/-! Seal (R327) -/

/-- The frames of `n` pages from virtual address `va` on: none where one is not mapped. -/
def State.pageFrames (s : State) (ctx va n : Nat) : Option (List Nat) :=
  ((List.range n).map fun k => (s.leafOf noCore ctx (va + k * frameBytes)).map fun l =>
    (l.pa + (va + k * frameBytes) % 2 ^ l.size) / frameBytes).foldr (fun x r => match x, r with
      | some y, some l => some (y :: l)
      | _, _ => none) (some [])

/-- Bytes of a control block, and writing them. -/
def State.blkBytes (s : State) (ctx off n : Nat) : List Byte := (List.range (n / 8)).flatMap fun k => leBytes 8 (s.blk ctx (off + 8 * k))
def State.setBlkBytes (s : State) (ctx off : Nat) (bs : List Byte) : State :=
  (List.range (bs.length / 8)).foldl (fun s k => s.setBlk ctx (off + 8 * k) (leNat ((bs.drop (8 * k)).take 8))) s

/-- The code measurement of a micro-context (R327), and its extension by the hash of a run of bytes (as R423 extends FWM). -/
def State.meas (s : State) (ctx : Nat) : List Byte := s.blkBytes ctx 0x90 48
def State.extendMeas (s : State) (ctx : Nat) (bs : List Byte) : State := s.setBlkBytes ctx 0x90 (sha384 (s.meas ctx ++ sha384 bs))

/-- Every translation of a frame is gone from its die: a whole round. -/
def State.untranslate (s : State) (pa : Nat) : State :=
  let d := paDie pa
  let es := (s.die d).mtlb.filter fun t => t.meets pa 1
  es.foldl (fun s t =>
    (s.mapTlbs d (List.range 16) (·.filter fun y => !(y.asid = t.asid && y.va = t.va && y.size = t.size))).updDie d fun x =>
      { x with mtlb := x.mtlb.filter (· ≠ t) }) s

/-- Seal one page: its translations go, CODE is set, the measurement is extended (R327, steps 2 to 5). -/
def State.sealPage (s : State) (ctx va frame : Nat) : State :=
  let pa := frame * frameBytes
  let e := s.ownerAt pa
  let s1 := (s.untranslate pa).setOwnerTag (paDie pa) (ownerIndex pa)
    (ownMake (ownState e) 0 true (ownReg e) (ownPriv e) false false 0 (ownWid e) 0)
  s1.extendMeas ctx (leBytes 8 va ++ s.readPa pa frameBytes)

/-- Seal `n` pages from `va` on; none where the seal is refused: a page is not OWNED by the world, or is CODE already. -/
def State.sealRun (s : State) (ctx va n : Nat) : Option State :=
  if va % frameBytes ≠ 0 || n = 0 then none
  else
    match s.pageFrames ctx va n with
    | none => none
    | some fs =>
      if fs.all fun f =>
          let e := s.ownerAt (f * frameBytes)
          (ownState e = ownOwned || ownState e = ownHost) && ownWid e = s.ctxWid ctx && !ownCode e
      then some (fs.zipIdx.foldl (fun s p => s.sealPage ctx (va + p.2 * frameBytes) p.1) s)
      else none

/-- A write to one of the pages that was accepted has not performed: the seal waits for it (R327, step 3). -/
def State.framesHeld (s : State) (fs : List Nat) : Bool := fs.any fun f => (s.die (paDie (f * frameBytes))).frameHeld (f * frameBytes)
def State.sealWaits (s : State) (ctx va n : Nat) : Bool := (s.sealRun ctx va n).isSome && ((s.pageFrames ctx va n).any s.framesHeld)

/-- Firmware seals pages. Input: `ctx`, `va`, `len` (pages). -/
def execSealPages (s : State) : Result :=
  runCommand .sealPages s fun x => if s.sealWaits x.ctx x.va x.len then .wait s else .done (s.answer "SEAL" (s.sealRun x.ctx x.va x.len))

/-! Shared segments (R246) -/

/-- The frames take state MIGRATING and the segment waits to be shared (R246, step 2). -/
def State.shareFrames (s : State) (hash : List Byte) (fs : List Nat) : State :=
  let s1 := fs.foldl (fun s f =>
    let pa := f * frameBytes
    let e := s.ownerAt pa
    s.setOwnerTag (paDie pa) (ownerIndex pa) (ownMake ownMigrating (ownState e) (ownCode e) false false false false 0 (ownWid e) 0)) s
  { s1 with hub := { s1.hub with shared := s1.hub.shared ++ [⟨hash, fs, [], true⟩] } }

/-- Firmware may share `len` bytes of a world's segment from `va` on, which its frames hold (R246, R325). -/
def State.mayShare (s : State) (ctx va len : Nat) (fs : List Nat) : Bool :=
  let ok (f : Nat) : Bool :=
    let e := s.ownerAt (f * frameBytes)
    ownPrivate (ownState e) && ownWid e = s.ctxWid ctx && !ownReg e && !s.parkInUse (f * frameBytes)
  va % frameBytes = 0 && len ≠ 0 && !bit (s.blk ctx 0) 59 && fs.all ok

/-- The bytes of a segment. -/
def State.segmentBytes (s : State) (fs : List Nat) (len : Nat) : List Byte := (fs.flatMap fun f => s.readPa (f * frameBytes) frameBytes).take len

/-- Firmware shares a segment of a world, once what its slices have accepted for it has performed: the bytes hashed are those shared.
Input: `ctx`, `va`, `len`, `data` (the hash). -/
def execSegmentShare (s : State) : Result :=
  runCommand .segmentShare s fun x =>
    match s.pageFrames x.ctx x.va (ceilDiv x.len frameBytes) with
    | none => .done (s.refuse "SEGMENT_SHARE")
    | some fs =>
      if !s.mayShare x.ctx x.va x.len fs then .done (s.refuse "SEGMENT_SHARE")
      else if s.framesHeld fs then .wait s
      else .done (s.answer "SEGMENT_SHARE" (if sha384 (s.segmentBytes fs x.len) = x.data then some (s.shareFrames x.data fs) else none))

/-- Where a translation of a private page goes when its world is redirected to a shared segment: none where its frames have no
run of shared frames. -/
def redirected (src dst : List Nat) (t : TlbEntry) : Option Nat :=
  let n := 2 ^ t.size / frameBytes
  let k := src.idxOf (t.pa / frameBytes)
  let run (l : List Nat) : Bool := ((l.drop k).take n) = (List.range n).map (l.getD k 0 + ·)
  if k < src.length && run src && run dst then some (dst.getD k 0 * frameBytes) else none

/-- The world's translations name the shared pages, those a later walk makes too, and its private pages are scrubbed (R246, step 3). -/
def State.redirect (s : State) (g h : SharedSegment) : State :=
  let dies := g.frames.map fun f => paDie (f * frameBytes)
  let s1 := dies.eraseDups.foldl (fun s d =>
    let mine (t : TlbEntry) : Bool := g.frames.any fun f => t.meets (f * frameBytes) 1
    let moved := (s.die d).mtlb.filter mine
    (s.mapTlbs d (List.range 16) (·.filter fun y => !moved.any fun t => y.asid = t.asid && y.va = t.va && y.size = t.size)).updDie d fun x =>
      { x with mtlb := x.mtlb.filterMap fun t =>
          if mine t then (redirected g.frames h.frames t).map fun pa => { t with pa := pa, hold := 0, perm := fillPerm t.perm true } else some t }) s
  let wid := ownWid (s.ownerAt (g.frames.headD 0 * frameBytes))
  let s2 := (g.frames.zip h.frames).foldl (fun s p => s.rename (paDie (p.1 * frameBytes)) wid p.1 p.2 1) s1
  g.frames.foldl (fun s f => s.enterScrub (paDie (f * frameBytes)) (ownerIndex (f * frameBytes)) none) s2

/-- The sharing of a segment ends: redirected to one of the same hash on the same dies, or entered in the table (R246). Input:
`index`. -/
def execSharingEnd (s : State) : Result :=
  runEvent s fun x =>
    match s.hub.shared[x.index]? with
    | none => s
    | some g =>
      let wid := ownWid (s.ownerAt (g.frames.headD 0 * frameBytes))
      let dieOf (f : Nat) : Nat := paDie (f * frameBytes)
      if !g.pending then s
      else
        match s.hub.shared.find? (fun h => !h.pending && h.hash = g.hash && h.frames.map dieOf = g.frames.map dieOf) with
        | some h =>
          let s1 := s.redirect g h
          { s1 with hub := { s1.hub with shared := (s1.hub.shared.filter (· ≠ g)).map fun y =>
              if y = h then { y with sharers := if y.sharers.contains wid then y.sharers else y.sharers ++ [wid] } else y } }
        | none =>
          let s1 := g.frames.foldl (fun s f =>
            let pa := f * frameBytes
            let e := s.ownerAt pa
            s.setOwnerTag (paDie pa) (ownerIndex pa) (ownMake ownShared 0 (ownCode e) false false false false 0 (ownWid e) 0)) s
          { s1 with hub := { s1.hub with shared := s1.hub.shared.map fun y =>
              if y = g then { y with pending := false, sharers := [wid] } else y } }

/-! Cold start (R264) -/

/-- Change a job of a micro-context wherever it is: on its core, or parked, where register `r` and its pending bit in its image
change too. -/
def State.jobOf (s : State) (ctx gidx : Nat) (child : Bool) (r : Nat) (f : Job → Job) : State :=
  let mine (j : Job) : Bool := j.gidx = gidx && j.child = child
  match (s.coresOf ctx).find? (fun n => (s.job? n).any mine) with
  | some n => s.updJob n f
  | none =>
    match (s.extra ctx).parked.find? mine with
    | none => s
    | some j =>
      let j1 := f j
      let put (s : State) (o v : Nat) : State := match s.ctxStore ctx (j.page + o) (leBytes 8 v) with
        | .ok s1 => s1
        | _ => s
      let pend := (List.range 64).foldl (fun a i => a + b2n (j1.pendS i) * 2 ^ i) 0
      (put (put s (0xCC000 + 8 * r) (j1.rs r).toNat) (controlAt + 8) pend).updExtra ctx fun x =>
        { x with parked := x.parked.map fun y => if mine y then j1 else y }

/-- A segment of the cold start has arrived with the bytes `data`, and its hash is checked (R264): its pages leave ARRIVING
together, or fail; the token is written with the last one. Input: `index`, `data`. -/
def execSegmentVerified (s : State) : Result :=
  runEvent s fun x =>
    match s.hub.segments[x.index]? with
    | none => s
    | some g =>
      let same (y : Segment) : Bool := y.ctx = g.ctx && y.gidx = g.gidx && y.child = g.child
      if x.data.length ≠ g.len || (s.hub.segments.take x.index).any same then s
      else
        let rest := s.hub.segments.eraseIdx x.index
        let tok (s : State) (err : Bool) (bytes : Nat) : State :=
          if g.tok = 0 then s else s.jobOf g.ctx g.gidx g.child g.tok fun j => j.token g.tok (statusWord err 0x0A bytes)
        let entry (f : Nat) (v : Nat → Nat) (s : State) : State :=
          let pa := f * frameBytes
          s.setOwnerTag (paDie pa) (ownerIndex pa) (v (s.ownerAt pa))
        if sha384 x.data = g.hash then
          let s1 := g.frames.zipIdx.foldl (fun s p =>
            entry p.1 (fun e => ownMake (ownedState (ownerIndex (p.1 * frameBytes))) 0 (ownCode e) false false false false 0 (ownWid e) 0)
              (s.writePa (p.1 * frameBytes) ((x.data.drop (p.2 * frameBytes)).take frameBytes))) s
          let s2 := if g.share && !bit (s.blk g.ctx 0) 59 then s1.shareFrames g.hash g.frames else s1
          let s3 := { s2 with hub := { s2.hub with segments := rest } }
          if g.last then tok s3 false (g.before + g.len) else s3
        else
          let s1 := g.frames.foldl (fun s f =>
            entry f (fun e => ownMake ownArriving 0 (ownCode e) false false true false 0 (ownWid e) (ownSeg e)) s) s
          -- the rest of the selection still streams; its token has been written
          let n := (rest.drop x.index).findIdx (fun y => same y && y.last)
          let rest1 := if g.last then rest else rest.take x.index ++
            ((rest.drop x.index).take (n + 1)).map (fun y => if same y then { y with tok := 0 } else y) ++ (rest.drop x.index).drop (n + 1)
          tok { s1 with hub := { s1.hub with segments := rest1 } } true g.before

end Sys2Proof.Machine
end

