-- ==== Sys2Proof/Machine/Attest.lean ====
section
/-!
DEFINITION. The boot step record (R421), the configuration hash and the attestation report (R424 to R427).
-/
namespace Sys2Proof.Machine

/-! The boot step record -/

/-- CHECK of a record: CRC-32 of its words 0 to 2. -/
def recordCheck (bs : List Byte) : Nat := crc32 (bs.take 24)
/-- A record of 32 bytes from its words 0 to 2. -/
def bootRecord (w0 w1 w2 : Nat) : List Byte :=
  let b := leBytes 8 w0 ++ leBytes 8 w1 ++ leBytes 8 w2
  b ++ leBytes 8 (recordCheck b)

def recordHolds (bs : List Byte) : Bool := bs.length = 32 && fieldNat bs 24 8 = recordCheck bs
def recordSeq (bs : List Byte) : Nat := fieldNat bs 4 4

/-- The current copy, and whether it is the first; a flash no record has been written to reads as zero words (log entry 10). -/
def Platform.current (p : Platform) : List Byte × Bool :=
  match recordHolds p.record, recordHolds p.recordB with
  | true, true => if recordSeq p.recordB > recordSeq p.record then (p.recordB, false) else (p.record, true)
  | true, false => (p.record, true)
  | false, true => (p.recordB, false)
  | false, false => (bootRecord 0 0 0, false)

/-- STATUS and ALT of a step (R421). -/
def Platform.word (p : Platform) (k : Nat) : Nat := fieldNat p.current.1 (8 * k) 8
def Platform.stepStatus (p : Platform) (n : Nat) : Nat := bits (p.word 1) (4 * n + 3) (4 * n)
def Platform.stepAlt (p : Platform) (n : Nat) : Bool := bit (p.word 2) n

/-- What boot step `n` brings up is up: the step has ended and was not skipped (R420, R422). -/
def Platform.broughtUp (p : Platform) (n : Nat) : Bool := n < p.step && p.stepStatus n ≠ 4

/-- The four NVMe root ports of the hub die (R16, R420). -/
def Platform.nvmePorts (p : Platform) : List Nat := if p.broughtUp 7 then [0, 1, 2, 3] else []

/-! Reports -/

/-- Memory of a micro-context's world as a report reads it; where an access to it faults, its bytes are free (log entry 62). -/
def State.worldBytes (s : State) (ctx va n : Nat) : List Byte :=
  match s.ctxLoad ctx va n with
  | .ok (bs, _) => bs
  | _ => (List.range n).map fun i => Config.freeByte 0 (va + i)

def State.nsets (s : State) (ctx : Nat) : Nat := s.blkBits ctx 0x18 59 52

/-- CFGH of a micro-context (R424). -/
def State.cfgh (s : State) (ctx : Nat) : List Byte :=
  let ctl := putBits (putBits (putBits (s.blk ctx 0) 63 61 0) 56 56 0) 7 0 0
  let rmap (m : Nat) : Nat := putBits (putBits (s.blk ctx (0xC0 + 8 * m)) 62 62 0) 31 16 0
  sha384 (leBytes 8 ctl ++ [0x58, 0x60, 0x50].flatMap (fun o => leBytes 8 (s.blk ctx o)) ++ (List.range 16).flatMap (fun m => leBytes 8 (rmap m))
    ++ s.worldBytes ctx (s.blkBits ctx 0x18 51 0) (64 * s.nsets ctx)
    ++ s.worldBytes ctx (s.blkBits ctx 0x20 51 0) (48 * s.blkBits ctx 0x20 60 52)
    ++ s.worldBytes ctx (s.blkBits ctx 0x40 51 0) 1024)

/-- A page state stalls the read of a list that CFGH covers: what asks for CFGH waits. -/
def State.cfghStalls (s : State) (ctx : Nat) : Bool :=
  [(s.blkBits ctx 0x18 51 0, 64 * s.nsets ctx), (s.blkBits ctx 0x20 51 0, 48 * s.blkBits ctx 0x20 60 52), (s.blkBits ctx 0x40 51 0, 1024)].any
    fun p => match s.ctxLoad ctx p.1 p.2 with
      | .stall _ => true
      | _ => false

/-- Exactly `n` bytes of a list, padded with zero. -/
def padTo (n : Nat) (bs : List Byte) : List Byte := bs.take n ++ List.replicate (n - bs.length) 0#8

/-- An attestation report (R425). -/
def State.report (s : State) (ctx : Nat) (nonce : List Byte) : List Byte :=
  let ctl := s.blk ctx 0
  let flags := b2n (bit ctl 58) + 2 * b2n (bit ctl 60) + 4 * b2n (bit ctl 59)
  let body := leBytes 4 1 ++ leBytes 2 ctx ++ leBytes 2 (s.ctxWid ctx) ++ leBytes 8 flags ++ s.meas ctx ++ s.cfgh ctx ++ padTo 48 nonce
    ++ padTo 48 s.platform.fwm ++ leBytes 8 s.platform.bootSeq ++ padTo 8 Config.deviceSerial ++ List.replicate 192 0#8
  body ++ padTo 96 (Config.signature s.tick (sha384 body))

/-- The certificate of the identity key, which firmware reads, and the host through virtio-vsock once that function is DRIVER_OK (R423).
-/
def State.readCertificate (s : State) (host : Option Nat) : State :=
  match host with
  | none => s.respond "ATTESTATION_COMMAND" 0 Config.deviceCertificate
  | some c =>
    if bit (Sparse.get 0 s.hub.devStatus 1) 2 then
      let t : State := { s with hub := { s.hub with sent := s.hub.sent ++ [⟨.vsock c, Config.deviceCertificate, .rod⟩] } }
      t.respond "ATTESTATION_COMMAND" 0 []
    else s.refuse "ATTESTATION_COMMAND"

/-- Firmware asks for a report (R426). Input: `ctx`, `data` (the nonce); with `kind` 1 it reads the certificate of R423, with 2 it hands
it to the host on connection `index` of virtio-vsock (log entry 107). -/
def execAttestationCommand (s : State) : Result :=
  runCommand .attestationCommand s fun x =>
    if x.kind = 1 then .done (s.readCertificate none)
    else if x.kind = 2 then .done (s.readCertificate (some x.index))
    else if s.ctxState x.ctx = stRetired then .done (s.respond "ATTESTATION_COMMAND" 0x01 [])
    else if s.cfghStalls x.ctx then .wait s
    else .done (s.respond "ATTESTATION_COMMAND" 0 (s.report x.ctx x.data))

/-- A job's request for a report (R426): the status, once no page state stalls it. -/
def State.attestCall (s : State) (ctx dest nonce : Nat) : Option (State × Nat) :=
  if dest % 512 ≠ 0 then some (s, 1)
  else if s.cfghStalls ctx then none
  else
    match s.ctxLoad ctx nonce 48 with
    | .stall _ => none
    | .trap _ _ _ => some (s, 1)
    | .ok (bs, s1) =>
      match s1.ctxStore ctx dest (s.report ctx bs) with
      | .ok s2 => some (s2, 0)
      | .stall _ => none
      | .trap _ _ _ => some (s, 1)

end Sys2Proof.Machine
end

