-- ==== Sys2Proof/Machine/Slice.lean ====
section
/-!
DEFINITION. The routine machine of a slice (R296 to R300): its operations, its runs, the reply to the core.
-/
namespace Sys2Proof.Machine

def RoutineMachine.rg (m : RoutineMachine) (r : BitVec 3) : Word := Sparse.get 0 m.g r.toNat
def RoutineMachine.wg (m : RoutineMachine) (r : BitVec 3) (v : Word) : RoutineMachine :=
  { m with g := Sparse.set 0 m.g r.toNat v }

/-- The error word of R300. -/
def errorWord (kind code index : Nat) : Word := BitVec.ofNat 64 (packBits [(5, index), (11, 0), (16, code), (8, kind), (23, 0), (1, 1)])

/-- The run aborts: the working line is discarded (R299). -/
def RoutineMachine.abort (m : RoutineMachine) (kind code : Nat) : RoutineMachine :=
  { m with result := some (errorWord kind code m.index), commit := false, word := none }

/-- Go on at the next word past `skip` skipped ones, which cost nothing. -/
def RoutineMachine.goOn (m : RoutineMachine) (skip : Nat) : RoutineMachine :=
  { m with index := m.index + 1 + skip, word := m.code[m.index + 1 + skip]? }

/-- Charge a word's cost; past 48 cycles the run aborts with kind 0x03 (R299). -/
def RoutineMachine.charge (m : RoutineMachine) (cost : Nat) (f : RoutineMachine → RoutineMachine) : RoutineMachine :=
  let m1 := { m with cyc := m.cyc + cost }
  if m1.cyc > 48 then m1.abort 0x03 0 else f m1

/-- A word that writes one register. -/
def RoutineMachine.put (m : RoutineMachine) (cost : Nat) (d : BitVec 3) (v : Word) : RoutineMachine :=
  m.charge cost fun m => (m.wg d v).goOn 0

/-- A line access at `o` of size code `sz` obeys R298. -/
def lineOk (o sz : Nat) : Bool := o % 2 ^ sz = 0 && o + 2 ^ sz ≤ 64

/-- The value at byte `o` of the working line, extended by the type (R298). -/
def RoutineMachine.lineValue (m : RoutineMachine) (o sz : Nat) (signed : Bool) : Word :=
  let x := leNat ((m.line.drop o).take (2 ^ sz))
  if signed then sext64 (8 * 2 ^ sz) x else BitVec.ofNat 64 x

/-- Write the low bytes of a register into the working line. -/
def RoutineMachine.putLine (m : RoutineMachine) (o sz : Nat) (v : Word) : RoutineMachine :=
  { m with line := m.line.take o ++ leBytes (2 ^ sz) v.toNat ++ m.line.drop (o + 2 ^ sz) }

/-- A load or store at a computed offset: an offset that breaks R298 aborts with kind 0x02 (R299). -/
def RoutineMachine.atLine (m : RoutineMachine) (cost : Nat) (o : Nat) (sz : BitVec 2) (f : RoutineMachine → RoutineMachine) :
    RoutineMachine :=
  m.charge cost fun m => if lineOk o sz.toNat then (f m).goOn 0 else m.abort 0x02 0

def opDone (a : BitVec 3) (m : RoutineMachine) : RoutineMachine :=
  m.charge 1 fun m => { m with result := some (m.rg a &&& 0x7FFFFFFFFFFFFFFF), commit := true, word := none }
def opFail (c : BitVec 16) (m : RoutineMachine) : RoutineMachine := m.charge 1 fun m => m.abort 0x01 c.toNat
/-- The condition of `skip`: eq, ne, lt, ge, signed unless `.n64` (R298). -/
def skipCond (c : BitVec 2) (u : BitVec 1) (a b : Word) : Bool :=
  let lt : Bool := if u = 1 then a.toNat < b.toNat else a.toInt < b.toInt
  match c.toNat with
  | 0 => a = b
  | 1 => a ≠ b
  | 2 => lt
  | _ => !lt
def opSkip (a b : BitVec 3) (c : BitVec 2) (u : BitVec 1) (n : BitVec 5) (m : RoutineMachine) : RoutineMachine :=
  m.charge 1 fun m => m.goOn (if skipCond c u (m.rg a) (m.rg b) then n.toNat else 0)
def opLi (d : BitVec 3) (i : BitVec 24) (m : RoutineMachine) : RoutineMachine := m.put 1 d (i.signExtend 64)
def opAddi (d a : BitVec 3) (x : BitVec 18) (m : RoutineMachine) : RoutineMachine := m.put 1 d (m.rg a + x.signExtend 64)
def opAdd (d a b : BitVec 3) (m : RoutineMachine) : RoutineMachine := m.put 1 d (m.rg a + m.rg b)
def opSub (d a b : BitVec 3) (m : RoutineMachine) : RoutineMachine := m.put 1 d (m.rg a - m.rg b)
def opAnd (d a b : BitVec 3) (m : RoutineMachine) : RoutineMachine := m.put 1 d (m.rg a &&& m.rg b)
def opOr (d a b : BitVec 3) (m : RoutineMachine) : RoutineMachine := m.put 1 d (m.rg a ||| m.rg b)
def opXor (d a b : BitVec 3) (m : RoutineMachine) : RoutineMachine := m.put 1 d (m.rg a ^^^ m.rg b)
def opShl (d a b : BitVec 3) (m : RoutineMachine) : RoutineMachine :=
  m.put 1 d (if (m.rg b).toNat ≥ 64 then 0 else m.rg a <<< (m.rg b).toNat)
def opShr (d a b : BitVec 3) (m : RoutineMachine) : RoutineMachine :=
  m.put 1 d (if (m.rg b).toNat ≥ 64 then 0 else m.rg a >>> (m.rg b).toNat)
def opSra (d a b : BitVec 3) (m : RoutineMachine) : RoutineMachine := m.put 1 d ((m.rg a).sshiftRight (min (m.rg b).toNat 63))
def opMul (d a b : BitVec 3) (m : RoutineMachine) : RoutineMachine := m.put 4 d (m.rg a * m.rg b)
/-- `.i64` compares signed, `.n64` unsigned. -/
def sliceLess (t : BitVec 1) (a b : Word) : Bool := if t = 1 then a.toNat < b.toNat else a.toInt < b.toInt
def opMin (d a b : BitVec 3) (t : BitVec 1) (m : RoutineMachine) : RoutineMachine :=
  m.put 1 d (if sliceLess t (m.rg a) (m.rg b) then m.rg a else m.rg b)
def opMax (d a b : BitVec 3) (t : BitVec 1) (m : RoutineMachine) : RoutineMachine :=
  m.put 1 d (if sliceLess t (m.rg a) (m.rg b) then m.rg b else m.rg a)
def opLld (d : BitVec 3) (sz : BitVec 2) (e : BitVec 1) (o : BitVec 6) (m : RoutineMachine) : RoutineMachine :=
  m.atLine 1 o.toNat sz fun m => m.wg d (m.lineValue o.toNat sz.toNat (e = 1))
def opLldx (d a : BitVec 3) (sz : BitVec 2) (e : BitVec 1) (o : BitVec 6) (m : RoutineMachine) : RoutineMachine :=
  let at_ := (m.rg a + BitVec.ofNat 64 o.toNat).toNat
  m.atLine 2 at_ sz fun m => m.wg d (m.lineValue at_ sz.toNat (e = 1))
def opLst (a : BitVec 3) (sz : BitVec 2) (o : BitVec 6) (m : RoutineMachine) : RoutineMachine :=
  m.atLine 1 o.toNat sz fun m => m.putLine o.toNat sz.toNat (m.rg a)
/-- `lstx gB, off, gA`: byte `g[B]` + off. -/
def opLstx (a b : BitVec 3) (sz : BitVec 2) (o : BitVec 6) (m : RoutineMachine) : RoutineMachine :=
  let at_ := (m.rg b + BitVec.ofNat 64 o.toNat).toNat
  m.atLine 2 at_ sz fun m => m.putLine at_ sz.toNat (m.rg a)
def opFadd (d a b : BitVec 3) (t : BitVec 1) (m : RoutineMachine) : RoutineMachine :=
  let w := if t = 1 then 16 else 32
  m.put 3 d (BitVec.ofNat 64 (sliceAddF (t = 1) ((m.rg a).toNat % 2 ^ w) ((m.rg b).toNat % 2 ^ w)))
def opFmax (d a b : BitVec 3) (m : RoutineMachine) : RoutineMachine :=
  m.put 2 d (BitVec.ofNat 64 (sliceMinMaxF true ((m.rg a).toNat % 2 ^ 32) ((m.rg b).toNat % 2 ^ 32)))
def opFmin (d a b : BitVec 3) (m : RoutineMachine) : RoutineMachine :=
  m.put 2 d (BitVec.ofNat 64 (sliceMinMaxF false ((m.rg a).toNat % 2 ^ 32) ((m.rg b).toNat % 2 ^ 32)))

/-- The operation of a slice word on the routine machine; any other instruction is none of them. -/
def sliceOp : Instr → Option (RoutineMachine → RoutineMachine)
  | .sliceDone a => some (opDone a)
  | .sliceFail c => some (opFail c)
  | .sliceSkip a b c u n => some (opSkip a b c u n)
  | .sliceLi d i => some (opLi d i)
  | .sliceAddi d a x => some (opAddi d a x)
  | .sliceAdd d a b => some (opAdd d a b)
  | .sliceSub d a b => some (opSub d a b)
  | .sliceAnd d a b => some (opAnd d a b)
  | .sliceOr d a b => some (opOr d a b)
  | .sliceXor d a b => some (opXor d a b)
  | .sliceShl d a b => some (opShl d a b)
  | .sliceShr d a b => some (opShr d a b)
  | .sliceSra d a b => some (opSra d a b)
  | .sliceMul d a b => some (opMul d a b)
  | .sliceMin d a b t => some (opMin d a b t)
  | .sliceMax d a b t => some (opMax d a b t)
  | .sliceLld d sz e o => some (opLld d sz e o)
  | .sliceLldx d a sz e o => some (opLldx d a sz e o)
  | .sliceLst a sz o => some (opLst a sz o)
  | .sliceLstx a b sz o => some (opLstx a b sz o)
  | .sliceFadd d a b t => some (opFadd d a b t)
  | .sliceFmax d a b => some (opFmax d a b)
  | .sliceFmin d a b => some (opFmin d a b)
  | _ => none

/-! Runs -/

/-- The cause of a `.te` form (R300). -/
def errorCause (res : Word) : Nat := if bits res.toNat 39 32 = 0x03 then 0x0C else 0x0B

/-- A request's run has ended with a result: the line takes the working line where it commits, and the core its answer (R300,
R307). -/
def State.finishLathe (s : State) (d i : Nat) (r : SliceRequest) (line : Option (List Byte)) (res : Word) : State :=
  let s1 := match line with
    | some bs => s.commitBytes r.pa bs
    | none => s
  let s2 := s1.popRequest d i (r.pa / 64)
  match sliceFields r.instr with
  | none => s2
  | some f =>
    if f.nr = 1 then s2
    else if f.te = 1 && res.getLsbD 63 then
      s2.replyTrap d i r { trap (errorCause res) r.va res.toNat with estat := remoteEstat r.core r.va }
    else s2.reply d i r (some res)

/-- The routine machine at the entry of a request's run (R296). -/
def State.routineEntry (s : State) (r : SliceRequest) (code : List (BitVec 32)) : RoutineMachine :=
  { active := some (r.pa / 64), code := code, word := code.head?, index := 0, g := Sparse.ofList 0 0 r.args,
    line := s.readPa r.pa 64, cyc := 0, result := none, commit := false }

/-- Run words until one stops the run. -/
def runWords : Nat → RoutineMachine → RoutineMachine
  | 0, m => m
  | k + 1, m =>
    match m.result, m.word with
    | none, some w =>
      match decodeSlice w.toNat with
      | .ok i => match sliceOp i with
        | some f => runWords k (f m)
        | none => m
      | .error _ => m
    | _, _ => m

/-- The end of a run: the commit and the reply, and the routine machine is free. -/
def State.endRun (s : State) (d i : Nat) (m : RoutineMachine) : State :=
  match m.active, m.result with
  | some line, some res =>
    let s1 := s.updSlice d i fun y => { y with rm := .idle }
    match (s.slice d i).headRequest line with
    | some r => s1.finishLathe d i r (if m.commit then some m.line else none) res
    | none => s1
  | _, _ => s.updSlice d i fun y => { y with rm := m }

/-- A `lathe` request whose entry is not good is answered with kind 0x04; the line is not run on (R307). -/
def State.startLathe (s : State) (d i : Nat) (r : SliceRequest) : State :=
  match r.code with
  | none => s.finishLathe d i r none (errorWord 0x04 0 0)
  | some code => (s.leaveEngine [(r.pa, 64)]).updSlice d i fun y => { y with rm := s.routineEntry r code }

/-- The slice runs the routine at the head of a line's queue from its first word to its end (R299). Input: `die`, `slice`,
`line`. -/
def execRoutineRun (s : State) : Result :=
  runEvent s fun x =>
    let y := s.slice x.die x.slice
    match y.rm.active, y.headRequest x.line with
    | none, some r => if s.down 0x02 (32 * x.die + x.slice) then s else
      match r.instr with
      | .lathe _ =>
        let s1 := s.startLathe x.die x.slice r
        let m := (s1.slice x.die x.slice).rm
        s1.endRun x.die x.slice (runWords (m.code.length + 1) m)
      | _ => s
    | _, _ => s

/-- The slice whose turn it is begins the oldest request whose line is filled, word by word (R299). -/
def State.beginRun (s : State) (d i : Nat) : State :=
  match (s.slice d i).queues.find? (fun q => q.filled && match q.reqs with
    | r :: _ => (match r.instr with
      | .lathe _ => true
      | _ => false)
    | [] => false) with
  | some ⟨_, _, r :: _⟩ => if s.down 0x02 (32 * d + i) then s else match r.instr with
    | .lathe _ => s.startLathe d i r
    | _ => s
  | _ => s

/-- Run one slice word on the routine machine whose turn it is. -/
def runSlice (s : State) (op : RoutineMachine → RoutineMachine) : Result :=
  match s.turn with
  | .slice d i =>
    let m := (s.slice d i).rm
    if m.active.isNone || s.down 0x02 (32 * d + i) then .next s else .next (s.endRun d i (op m))
  | _ => .next s

def execSliceDone (a : BitVec 3) (s : State) : Result := runSlice s (opDone a)
def execSliceFail (c : BitVec 16) (s : State) : Result := runSlice s (opFail c)
def execSliceSkip (a b : BitVec 3) (c : BitVec 2) (u : BitVec 1) (n : BitVec 5) (s : State) : Result := runSlice s (opSkip a b c u n)
def execSliceLi (d : BitVec 3) (i : BitVec 24) (s : State) : Result := runSlice s (opLi d i)
def execSliceAddi (d a : BitVec 3) (x : BitVec 18) (s : State) : Result := runSlice s (opAddi d a x)
def execSliceAdd (d a b : BitVec 3) (s : State) : Result := runSlice s (opAdd d a b)
def execSliceSub (d a b : BitVec 3) (s : State) : Result := runSlice s (opSub d a b)
def execSliceAnd (d a b : BitVec 3) (s : State) : Result := runSlice s (opAnd d a b)
def execSliceOr (d a b : BitVec 3) (s : State) : Result := runSlice s (opOr d a b)
def execSliceXor (d a b : BitVec 3) (s : State) : Result := runSlice s (opXor d a b)
def execSliceShl (d a b : BitVec 3) (s : State) : Result := runSlice s (opShl d a b)
def execSliceShr (d a b : BitVec 3) (s : State) : Result := runSlice s (opShr d a b)
def execSliceSra (d a b : BitVec 3) (s : State) : Result := runSlice s (opSra d a b)
def execSliceMul (d a b : BitVec 3) (s : State) : Result := runSlice s (opMul d a b)
def execSliceMin (d a b : BitVec 3) (t : BitVec 1) (s : State) : Result := runSlice s (opMin d a b t)
def execSliceMax (d a b : BitVec 3) (t : BitVec 1) (s : State) : Result := runSlice s (opMax d a b t)
def execSliceLld (d : BitVec 3) (z : BitVec 2) (e : BitVec 1) (o : BitVec 6) (s : State) : Result := runSlice s (opLld d z e o)
def execSliceLldx (d a : BitVec 3) (z : BitVec 2) (e : BitVec 1) (o : BitVec 6) (s : State) : Result := runSlice s (opLldx d a z e o)
def execSliceLst (a : BitVec 3) (z : BitVec 2) (o : BitVec 6) (s : State) : Result := runSlice s (opLst a z o)
def execSliceLstx (a b : BitVec 3) (z : BitVec 2) (o : BitVec 6) (s : State) : Result := runSlice s (opLstx a b z o)
def execSliceFadd (d a b : BitVec 3) (t : BitVec 1) (s : State) : Result := runSlice s (opFadd d a b t)
def execSliceFmax (d a b : BitVec 3) (s : State) : Result := runSlice s (opFmax d a b)
def execSliceFmin (d a b : BitVec 3) (s : State) : Result := runSlice s (opFmin d a b)

end Sys2Proof.Machine
end

