-- ==== Sys2Proof/Machine/Routines.lean ====
section
/-!
DEFINITION. The routine table (R301 to R303) and the routine maps (R304, R305) as firmware and the dispatchers write them.
-/
namespace Sys2Proof.Machine

def State.routine (s : State) (k : Nat) : RoutineSlot := Sparse.get .idle s.routines k
def State.setRoutine (s : State) (k : Nat) (x : RoutineSlot) : State := { s with routines := Sparse.set .idle s.routines k x }

/-! The tests of R302 -/

/-- A line access whose fixed offset breaks R298. -/
def offsetBad : Instr → Bool
  | .sliceLld _ sz _ o => !lineOk o.toNat sz.toNat
  | .sliceLst _ sz o => !lineOk o.toNat sz.toNat
  | _ => false

/-- A `skip` at word `i` of `n` that skips nothing, or past the last word. -/
def skipBad (n i : Nat) : Instr → Bool
  | .sliceSkip _ _ _ _ k => k.toNat = 0 || i + k.toNat + 1 > n - 1
  | _ => false

/-- A word that ends a routine. -/
def endsRoutine : Instr → Bool
  | .sliceDone _ => true
  | .sliceFail _ => true
  | _ => false

/-- The words of a routine decoded: none where one is reserved, or has a field that R298 leaves unnamed. -/
def decodeRoutine : List (BitVec 32) → Option (List Instr)
  | [] => some []
  | w :: r => match decodeSlice w.toNat, decodeRoutine r with
    | .ok i, some l => some (i :: l)
    | _, _ => none

/-- The first reason to refuse a routine's code. -/
def routineReason (code : List (BitVec 32)) : Option Nat :=
  if code.isEmpty || code.length > 24 then some 0x01
  else
    match decodeRoutine code with
    | none => some 0x02
    | some is =>
      if is.any offsetBad then some 0x03
      else if is.zipIdx.any fun p => skipBad is.length p.2 p.1 then some 0x04
      else if !(is.getLast?.any endsRoutine) then some 0x05
      else none

/-! Resolving (R305) -/

/-- The expected hash an entry names: hash HIDX of the image's list. -/
def State.expectedHash (s : State) (ctx hidx : Nat) : Option (List Byte) :=
  if hidx ≥ s.blkBits ctx 0x20 60 52 then none
  else match s.ctxLoad ctx (s.blkBits ctx 0x20 51 0 + 48 * hidx) 48 with
    | .ok (bs, _) => some bs
    | _ => none

/-- An entry resolved: RESOLVED and GEN where the hash is the slot's. -/
def State.resolved (s : State) (ctx e : Nat) : Nat :=
  let r := s.routine (bits e 15 8)
  if bit e 63 && r.live && s.expectedHash ctx (bits e 7 0) = some r.hash then putBits (putBits e 62 62 1) 31 16 r.gen
  else putBits e 62 62 0

/-- Resolve entry `m` of a block's map. -/
def State.resolveEntry (s : State) (ctx m : Nat) : State := s.setBlk ctx (0xC0 + 8 * m) (s.resolved ctx (s.blk ctx (0xC0 + 8 * m)))

/-- An entry names slot `k`. -/
def namesSlot (k e : Nat) : Bool := bit e 63 && bits e 15 8 = k

/-! Installing and clearing (R303) -/

/-- RESOLVED goes from every entry that names the slot, in the blocks and in the copies of the cores (step 2). -/
def State.clearResolved (s : State) (k : Nat) : State :=
  let clear (w : Word) : Word := if namesSlot k w.toNat then BitVec.ofNat 64 (putBits w.toNat 62 62 0) else w
  let s1 := { s with blocks := Sparse.mapVals blockReset s.blocks (fun b =>
    b.map (fun p => if 0x18 ≤ p.1 && p.1 < 0x28 then (p.1, clear p.2) else p)) }
  allCores.foldl (fun s n => s.updJob n fun j => { j with rmap := Sparse.mapVals 0 j.rmap clear }) s1

/-- An admitted request of the slot has not completed (step 3). -/
def State.slotRuns (s : State) (k : Nat) : Bool :=
  s.dies.any fun d => d.2.slices.any fun y => y.2.queues.any fun q => q.reqs.any fun r => r.code.isSome && bits r.entry.toNat 15 8 = k

/-- Steps 4 and 5: the slot takes its code and hash, and the entries that name it are resolved again. -/
def State.takeRoutine (s : State) (k : Nat) (code : List (BitVec 32)) : State :=
  let hash := if code.isEmpty then [] else sha384 (code.flatMap fun w => leBytes 4 w.toNat)
  let s1 := s.setRoutine k ⟨!code.isEmpty, ((s.routine k).gen + 1) % 65536, code, hash, none⟩
  s1.blocks.foldl (fun s b => (List.range 16).foldl (fun s m =>
    if namesSlot k (s.blk b.1 (0xC0 + 8 * m)) then s.resolveEntry b.1 m else s) s) s1

/-- Every installation and clearing whose slot no admitted request runs is carried out. -/
def State.finishRoutines (s : State) : State :=
  s.routines.foldl (fun s p => match p.2.next with
    | some code => if s.slotRuns p.1 then s else s.takeRoutine p.1 code
    | none => s) s

/-- Begin an installation, or a clearing where there is no code. -/
def State.beginRoutine (s : State) (k : Nat) (code : List (BitVec 32)) : State :=
  let s1 := s.clearResolved k
  (s1.setRoutine k { s1.routine k with next := some code }).finishRoutines

/-- Firmware installs a routine. Input: `slot`, `code`. -/
def execRoutineInstallation (s0 : State) : Result :=
  runAtOnce .routineInstallation s0 fun x =>
    let s := s0.finishRoutines
    if x.slot ≥ 256 then s.refuse "ROUTINE_INSTALLATION"
    else
      s.answerReason "ROUTINE_INSTALLATION" (match routineReason x.code with
        | some r => .error r
        | none => if (s.routine x.slot).next.isSome then .error 0x06 else .ok (s.beginRoutine x.slot x.code))

/-- Firmware clears a slot. Input: `slot`. -/
def execRoutineClearing (s0 : State) : Result :=
  runAtOnce .routineClearing s0 fun x =>
    let s := s0.finishRoutines
    if x.slot ≥ 256 then s.refuse "ROUTINE_CLEARING"
    else
      s.answerReason "ROUTINE_CLEARING"
        (if (s.routine x.slot).next.isSome then .error 0x06 else .ok (s.beginRoutine x.slot []))

/-- Firmware writes a routine-map entry. Input: `ctx`, `index`, `slot`, `value` (HIDX), `flag` (VALID). -/
def execRoutineMapWrite (s : State) : Result :=
  runAtOnce .routineMapWrite s fun x =>
    let off := 0xC0 + 8 * x.index
    s.answer "ROUTINE_MAP_WRITE" (if x.index < 16 && x.slot < 256 && x.value < 256 then
      some ((s.setBlk x.ctx off (putBits (putBits (putBits (s.blk x.ctx off) 63 63 (b2n x.flag)) 15 8 x.slot) 7 0 x.value)).resolveEntry
        x.ctx x.index) else none)

/-- The slot record (R301). -/
def RoutineSlot.record (r : RoutineSlot) : List Byte :=
  leBytes 8 (packBits [(5, r.code.length), (3, 0), (1, b2n r.live), (7, 0), (16, r.gen)]) ++ padTo 48 r.hash
    ++ padTo 96 (r.code.flatMap fun w => leBytes 4 w.toNat) ++ leBytes 8 0

/-- Input: `slot`. -/
def execSlotRecordRead (s : State) : Result := runAtOnce .slotRecordRead s fun x => s.respond "SLOT_RECORD_READ" 0 (s.routine x.slot).record

end Sys2Proof.Machine
end

