-- ==== Sys2Proof/Machine/System.lean ====
section
/-!
DEFINITION. System registers (R178 to R184, R408, R409, R417, R418), `trap`, `eret`, `yield`, `snap` and `hcall` (R190 to R195),
and the guest context switch (R196 to R198).
-/
namespace Sys2Proof.Machine

/-! Reading -/

/-- A system register as `mfsr` reads it in the job `j` on core `n`. -/
def State.sysReg (s : State) (n : Nat) (j : Job) (x : Nat) : Nat :=
  match x with
  | 0x00 => j.trap.cause + 256 * b2n j.pend
  | 0x01 => j.trap.stream
  | 0x02 => j.trap.sect
  | 0x03 => j.trap.word
  | 0x04 => j.trap.stat
  | 0x05 => j.trap.addr
  | 0x06 => j.trap.aux
  | 0x07 => j.trapctl
  | 0x08 => j.rets.toNat
  | 0x0C => j.prerec.toNat
  | 0x10 => j.identWord
  | 0x11 => j.worldWord
  | 0x18 => j.reprem
  | 0x19 => j.loopsave.toNat
  | 0x40 => j.fpstat.toNat
  | 0x41 => j.fpen.toNat
  | 0x48 => j.srseed.toNat
  | 0x49 => j.srcntv.toNat
  | 0x4A => j.srcntm.toNat
  | 0x4B => j.srcntc.toNat
  | 0x280 => (s.core n).snapseq % 2 ^ 32
  | x =>
    if 0x20 ≤ x && x < 0x28 then j.bobst (x - 0x20)
    else if 0x30 ≤ x && x < 0x38 then (j.ring (x - 0x30)).word
    else if 0x100 ≤ x && x < 0x200 then (j.mon ((x - 0x100) / 32)).word (x % 32)
    else if 0x200 ≤ x && x < 0x208 then (Sparse.get (0 : Word) j.perfsel (x - 0x200)).toNat
    else if 0x208 ≤ x && x < 0x210 then (Sparse.get (0 : Word) j.perfcnt (x - 0x208)).toNat
    else 0

def execMfsr (f : SX) (s : State) : Result :=
  runWord (.mfsr f) f.g [f.d.toNat] [] s fun n _ j =>
    .done (s.setJob n (j.ws f.d.toNat (BitVec.ofNat 64 (s.sysReg n j f.idx.toNat)))) 0

/-! Writing (R6, R181, R182) -/

/-- Clear the bits of `x` that `v` has, within `mask`: a W1C field. -/
def clearOnes (x v : Word) (mask : Nat) : Word := x &&& ~~~(v &&& BitVec.ofNat 64 mask)

/-- Word `k` of a 320-bit quantity replaced. -/
def putPart (x k : Nat) (v : Word) : Nat := x - x / 2 ^ (64 * k) % 2 ^ 64 * 2 ^ (64 * k) + v.toNat * 2 ^ (64 * k)

/-- A write to register `o` of a monitor (R409): none where it traps with cause 0x03. -/
def Monitor.write (m : Monitor) (o : Nat) (v : Word) : Option Monitor :=
  match o with
  | 0 => if calConfigOk v m.base m.lim m.str then some { m with cfg := v } else none
  | 1 => if m.en then none else some { m with base := v }
  | 2 => if m.en then none else some { m with lim := v }
  | 3 => if m.en then none else some { m with str := v }
  | 4 => some { m with bnd := v }
  | 5 => some (if v.getLsbD 0 then { m with acc := 0 } else m)
  | 6 => some { m with stat := clearOnes m.stat v 0xFB }
  | o => some (if 8 ≤ o && o < 13 then { m with ref := putPart m.ref (o - 8) v } else m)

/-- A write of a register whose fields are not Res (R6): none where it traps with cause 0x03; what is RO keeps its value. -/
def Job.writeSys (j : Job) (x : Nat) (v : Word) : Option Job :=
  match x with
  | 0x07 => some { j with skip := v.getLsbD 0 }
  | 0x40 => some { j with fpstat := clearOnes j.fpstat v (2 ^ 64 - 1) }
  | 0x41 => some { j with fpen := v }
  | 0x48 => some { j with srseed := v }
  | 0x49 => some { j with srcntv := v }
  | 0x4A => some { j with srcntm := v }
  | 0x4B => some { j with srcntc := v }
  | x =>
    if 0x100 ≤ x && x < 0x200 then ((j.mon ((x - 0x100) / 32)).write (x % 32) v).map (j.setMon ((x - 0x100) / 32))
    else if 0x200 ≤ x && x < 0x208 then
      (if v.toNat % 256 > 0x0D then none else some { j with perfsel := Sparse.set 0 j.perfsel (x - 0x200) v })
    else if 0x208 ≤ x && x < 0x210 then some { j with perfcnt := Sparse.set 0 j.perfcnt (x - 0x208) v }
    else some j

/-- Every word V, M and C have issued has retired (R182). -/
def Job.enginesDrained (j : Job) : Bool := j.streams.v.drained && j.streams.m.drained && j.streams.c.drained && j.hm.drained

/-- An `mtsr` to one register: a Res bit, then the register's own checks. -/
def runMtsr (i : Instr) (f : SX) (s : State) (ready : Job → Bool) : Result :=
  runWord i f.g [f.a.toNat] [] s fun n _ j =>
    let v := j.rs f.a.toNat
    if setsRes f.idx.toNat v.toNat then .trap (wordTrap 0x02 0 i) s
    else if !ready j then .wait
    else
      match j.writeSys f.idx.toNat v with
      | some j1 => .done (s.setJob n j1) 0
      | none => .trap (wordTrap 0x03 0 i) s

def execMtsr (f : SX) (s : State) : Result := runMtsr (.mtsr f) f s fun _ => true
def execCalcfgWrite (f : SX) (s : State) : Result := runMtsr (.calcfgWrite f) f s fun _ => true
def execCalcmdClr (f : SX) (s : State) : Result := runMtsr (.calcmdClr f) f s fun _ => true
def execPerfselWrite (f : SX) (s : State) : Result := runMtsr (.perfselWrite f) f s fun _ => true
/-- `FPSTAT`, `FPEN` and the draw registers wait for the other engines' words (R182). -/
def execEngineSharedRegisterWrite (f : SX) (s : State) : Result := runMtsr (.engineSharedRegisterWrite f) f s Job.enginesDrained
/-- `TRAPCTL`: in job mode cause 0x05 (R179). -/
def execTrapctlWrite (f : SX) (s : State) : Result :=
  runWord (.trapctlWrite f) f.g [f.a.toNat] [] s fun n _ j =>
    let v := j.rs f.a.toNat
    if !j.hmode then .trap (wordTrap 0x05 0 (.trapctlWrite f)) s
    else if setsRes f.idx.toNat v.toNat then .trap (wordTrap 0x02 0 (.trapctlWrite f)) s
    else .done (s.setJob n { j with skip := v.getLsbD 0 }) 0

/-! `trap` and `eret` -/

/-- `trap` counts as retired: `RETS` names the word after it (R191). In a handler it is a nested trap (R187). -/
def execTrap (f : SX) (s : State) : Result :=
  runWord (.trap f) f.g [] [] s fun n sel j =>
    let t := Machine.trap 0x15 0 f.imm.toNat
    if sel.isHandler then .trap t s
    else
      let r := j.trapRecord sel 0 t
      let j1 := (j.advance .s 0).updStream .s fun st => { st with trapped := true }
      .stay ((s.setJob n j1).deliver n r)

/-- Every handler word before the `eret` has retired (R192). -/
def Job.handlerDrained (j : Job) : Bool := j.hs.drained && j.hm.drained && !j.mqueue.any (·.handler)

/-- `eret`, once every handler word has retired and its accesses have performed (R192, R284). -/
def execEret (f : SX) (s : State) : Result :=
  runWord (.eret f) f.g [] [] s fun n sel j =>
    if !sel.isHandler then .trap (wordTrap 0x05 0 (.eret f)) s
    else if j.msaved = .saved then .trap (wordTrap 0x03 0 (.eret f)) s
    else if !j.handlerDrained || s.unfenced n sel 0xFFFF then .wait
    else .stay ((s.setJob n (j.count 0x02 1)).returnFromTrap n)

/-! `yield` -/

/-- The cores a block may be bound to (R335): a contract's own, else those of the dies its shape takes. -/
def State.wantedCores (s : State) (ctx : Nat) : List Nat :=
  let n := s.groupSize ctx
  let place := s.blkBits ctx 0x50 42 40
  if n ≤ 16 && bit (s.blk ctx 0) 56 then (List.range n).map fun i => 16 * place + n * s.blkBits ctx 0x50 39 36 + i
  else (List.range (max n 16)).map fun i => 16 * place + i

/-- A contract is served in step 1 of R337. -/
def State.contractServed (s : State) (ctx : Nat) : Bool :=
  bit (s.blk ctx 0) 56 && s.blkBits ctx 0x68 31 0 > 0 && !bit (s.blk ctx 0x68) 63

def State.prio (s : State) (ctx : Nat) : Nat := s.blkBits ctx 0 51 48
def State.waiting (s : State) (ctx : Nat) : Bool := s.ctxState ctx = stQueued || s.ctxState ctx = stParked

/-- A contract, or a micro-context of equal or higher priority, is queued for cores of the group (R193). -/
def State.yieldsTo (s : State) (ctx : Nat) : Bool :=
  s.blocks.any fun b => b.1 ≠ ctx && s.waiting b.1 && (s.contractServed b.1 || s.prio b.1 ≥ s.prio ctx) &&
    (s.wantedCores b.1).any (s.coresOf ctx).contains

def execYield (f : SX) (s : State) : Result :=
  runWord (.yield f) f.g [] [] s fun _ _ j => .done (if s.yieldsTo j.ctx then s.preemptGroup j.ctx else s) 0

/-! Snapshots (R194, R418) -/

/-- The record a trigger latches in a core. -/
def Job.snapRecord (j : Job) : List Byte :=
  padTo 256 (allEngines.flatMap (fun e => leBytes 8 (match e with
      | .s => j.savedS
      | e => j.savedAt e))
    ++ leBytes 8 (packBits (allEngines.map fun e => (12, (j.streams.get e).rthru))) ++ leBytes 8 j.prerec.toNat
    ++ (List.range 8).flatMap (fun i => leBytes 8 (Sparse.get (0 : Word) j.perfcnt i).toNat) ++ leBytes 8 j.reprem
    ++ (List.range 8).flatMap (fun r => leBytes 8 (packBits [(8, (j.ring r).count), (1, b2n (j.ring r).exh)]))
    ++ (List.range 8).flatMap (fun b => leBytes 8 (packBits [(8, (j.bobbin b).entries.length), (1, b2n (j.bobbin b).exh)])))

def Core.latch (c : Core) : Core :=
  { c with snap := match c.job with
             | some j => j.snapRecord
             | none => List.replicate 256 0#8
           snapseq := (c.snapseq + 1) % 2 ^ 32 }

/-- A trigger at a scope reaches die `d`: it latches in the cores `cs` unless the last one at this scope came less than 1,024
cycles before. -/
def State.triggerDie (s : State) (d key : Nat) (cs : List Nat) : State :=
  let now := s.cycle d
  let last := Sparse.get 0 (s.die d).lastSnap key
  let s1 := s.updDie d fun x => { x with lastSnap := Sparse.set 0 x.lastSnap key (now + 1) }
  if last ≠ 0 && now < last - 1 + 1024 then s1 else cs.foldl (fun s c => s.updCore (16 * d + c) Core.latch) s1

/-- A snapshot trigger from core `n`: 0 core, 1 die, 2 module, 3 fabric. -/
def State.trigger (s : State) (n scope : Nat) : State :=
  let all := List.range 16
  match scope with
  | 0 => s.triggerDie (n / 16) (16 + n % 16) [n % 16]
  | 1 => s.triggerDie (n / 16) 1 all
  | 2 => allDies.foldl (fun s d => s.triggerDie d 2 all) s
  | _ =>
    let s1 := allDies.foldl (fun s d => s.triggerDie d 3 all) s
    { s1 with hub := { s1.hub with triggers := s1.hub.triggers + 1 } }

def execSnap (f : SX) (s : State) : Result :=
  runWord (.snap f) f.g [] [] s fun n _ _ =>
    if f.imm.toNat > 3 then .trap (wordTrap 0x03 0 (.snap f)) s else .done (s.trigger n f.imm.toNat) 0

/-- A trigger message from outside reaches the module (R194). Input: `core`, `kind` (scope). -/
def execSnapshotTrigger (s : State) : Result :=
  runEvent s fun x => if x.kind ≤ 3 then
    (match x.kind with
      | 3 => allDies.foldl (fun s d => s.triggerDie d 3 (List.range 16)) s
      | k => s.trigger x.core k)
    else s

/-- Firmware reads a core's snapshot record (R418). Input: `core`. -/
def execSnapshotRecordRead (s : State) : Result := runAtOnce .snapshotRecordRead s fun x => s.respond "SNAPSHOT_RECORD_READ" 0 (s.core x.core).snap

/-! `hcall` (R195) -/

/-- The record of an `hcall`: the trap registers keep their values. -/
def Job.hcallRecord (j : Job) (sel : Sel) (imm : Nat) : List Byte :=
  let r := j.trapRecord sel 0 (Machine.trap 0x16 0 imm)
  recordBytes j.pend r (if sel.isHandler then j.rets.toNat else j.streams.s.position)

def execHcall (f : SX) (s : State) : Result :=
  runWord (.hcall f) f.g [f.d.toNat, 1, 2, 3, 4, 5, 6] [] s fun n sel j =>
    match s.trapArea j (j.hcallRecord sel f.imm.toNat) with
    | .stall a => .stall a .write
    | .trap _ _ _ => .stay (s.hcallFails n j)
    | .ok s1 => .stay ((s1.updJob n fun j =>
        { j with swait := .hcall f.d.toNat f.imm.toNat (j.rs 1) (j.rs 2) }.setPendS f.d.toNat true).unstalled n .s)

/-- What the hypervisor does for a call, and the status it returns (R195, R322, R327, R426); none while it cannot be answered yet. -/
def State.hcallStatus (s : State) (ctx imm : Nat) (a1 a2 : Word) (given : Nat) : Option (State × Nat) :=
  if imm = 0x200 then s.attestCall ctx a1.toNat a2.toNat
  else if imm = 0x103 then
    if s.sealWaits ctx a1.toNat a2.toNat then none
    else match s.sealRun ctx a1.toNat a2.toNat with
      | some s1 => some (s1, 0)
      | none => some (s, 1)
  else if 0x100 ≤ imm && imm ≤ 0x102 then
    (if allDies.any (fun d => s.roundOf d ctx || (s.die d).shadow.any (·.ctx = ctx)) then none else some (s, min 1 given))
  else if 0x100 ≤ imm && imm ≤ 0x2FF then some (s, 1)
  else if 0x1000 ≤ imm && imm ≤ 0xFFFF then some (s, given)
  else some (s, 2 ^ 64 - 1)

/-- The write of a report has waited for an ARRIVING page for the arrival bound: that breaks R234, and the status is 1 (R426). -/
def State.reportLate (s : State) (j : Job) (imm : Nat) : Bool := imm = 0x200 && (j.stalls.s.any fun y => s.arrivalOver j.core j y)

/-- The status of a call, once it can be given. -/
def State.hcallReady (s : State) (ctx : Nat) (j : Job) (imm : Nat) (a1 a2 : Word) (given : Nat) : Option (State × Nat) :=
  match s.hcallStatus ctx imm a1 a2 given with
  | none => if s.reportLate j imm then some (s, 1) else none
  | r => r

/-- The write of a report meets a page state: it stalls as the job's own store does, and a read-duplicated page collapses (R226, R426). -/
def State.reportStalls (s : State) (j : Job) (imm : Nat) (a1 : Word) : State :=
  if imm ≠ 0x200 then s
  else if (s.job? j.core).any (fun k => k.ctx = j.ctx && k.gidx = j.gidx && k.child = j.child) then s.stalled j.core .s a1.toNat .write
  else s.collapsePage j.ctx a1.toNat

/-- The job's `hcall` is answered: its status is written and S goes on. -/
def Job.answered (d st : Nat) (j : Job) : Job :=
  ({ j with swait := .none, stalls := j.stalls.set .s none }.ws d (BitVec.ofNat 64 st)).setPendS d false |>.advance (if j.hmode then .hs else .s) 0

/-- The hypervisor answers the outstanding `hcall` of a job, running or parked (R195). Input: `ctx`, `index` (group index), `flag`
(a child), `value` (the status firmware gives). -/
def execHcallReply (s : State) : Result :=
  runEvent s fun x =>
    let mine (j : Job) : Bool := j.gidx = x.index && j.child = x.flag
    let j? := match (s.coresOf x.ctx).filterMap s.job? |>.find? mine with
      | some j => some j
      | none => (s.extra x.ctx).parked.find? mine
    match j? with
    | none => s
    | some j =>
      match j.swait with
      | .hcall d imm a1 a2 =>
        match s.hcallReady x.ctx j imm a1 a2 x.value with
        | none => s.reportStalls j imm a1
        | some (s1, st) =>
          let s2 := s1.jobOf x.ctx x.index x.flag d (Job.answered d st)
          match (s2.coresOf x.ctx).find? (fun n => (s2.job? n).any mine) with
          | some n => s2.deliverHeld n
          | none => s2
      | _ => s

/-! `cxsw` (R196 to R198) -/

/-- V, M and C hold at their points: the quiesce phase has ended. -/
def Job.quiesced (j : Job) (p : Preempt) : Bool := j.holdsAt p .v && j.holdsAt p .m && j.holdsAt p .c

/-- An image lies in the core's own vault, in frames its world owns (R197, step 1); a page that is not mapped faults later. -/
def State.inOwnVault (s : State) (j : Job) (va : Nat) : Bool :=
  (framePieces va contextBytes).all fun p =>
    match s.leafOf j.core j.ctx p.1 with
    | none => true
    | some l =>
      let pa := l.pa + p.1 % 2 ^ l.size
      let e := s.ownerAt pa
      isVault pa && paDie pa = j.core / 16 && paOff pa / 2 ^ 27 = j.core % 16 && ownWid e = j.wid &&
        (ownState e = ownOwned || ownState e = ownMigrating)

/-- The job as the swap saves it: its engines at their points, the trapped word behind it where SKIP says so. -/
def Job.swapOut (j : Job) (p : Preempt) : Job :=
  let j1 := j.atPoints p
  let x := selOfCode j.trap.stream
  if j1.skips && x ≠ .s then j1.skipWord x else j1

/-- The swap phase. -/
def State.swapContext (s : State) (i : Instr) (n : Nat) (j : Job) (p : Preempt) (a b : Nat) : Act :=
  let drop := s.setJob n { j with preempt := none }
  let bad (x : Nat) : Act := .trap (wordTrap 0x03 x i) drop
  if a % 4096 ≠ 0 then .trap (Machine.trap 0x06 a 0) drop
  else if b % 4096 ≠ 0 then .trap (Machine.trap 0x06 b 0) drop
  else if !s.inOwnVault j a then bad a
  else if !s.inOwnVault j b then bad b
  else if j.msaved = .saved then bad 0
  else
    match s.span j.core j.ctx j.wid j.conf .write a contextBytes, s.span j.core j.ctx j.wid j.conf .read b contextBytes with
    | .trap c x y, _ => .trap (Machine.trap c x y) drop
    | .stall x, _ => .stall x .write
    | .register _, _ => bad a
    | _, .trap c x y => .trap (Machine.trap c x y) drop
    | _, .stall x => .stall x .read
    | _, .register _ => bad b
    | .at pa, .at pb =>
      if s.heldLine pa || s.heldLine pb then .wait
      else
      let c0 := s.cells pb
      let word (c : Sparse Byte) : Nat := ctl c 0x248 8 / 2 ^ 52 % 512 - 1
      match controlBad c0, contextQueue c0, contextCopy c0 (word c0) with
      | false, some _, .ok _ =>
        let j1 := { j.swapOut p with preempt := none, swapped := true }
        let s1 := (s.throughPieces pa j.ctx true).writePieces pa j1.contextImage
        let c := s1.cells pb
        match contextQueue c, contextCopy c (word c) with
        | some q, .ok k => .done (((s1.throughPieces pb j.ctx false).setJob n (s1.loadContext j1 c q k).resumeLoop).rereadPatterns n) 0
        | _, _ => bad b
      | _, _, _ => bad b

/-- `cxsw`: the quiesce phase, then the swap, which is a fence of all classes (R197). -/
def execCxsw (f : SX) (s : State) : Result :=
  runWord (.cxsw f) f.g [f.a.toNat, f.b.toNat] [] s fun n sel j =>
    if !sel.isHandler then .trap (wordTrap 0x05 0 (.cxsw f)) s
    else
      match j.preempt with
      | none => .stay ((s.setJob n { j with preempt := some { s.preemptRecord j with swap := true } }).abandonC n)
      | some p =>
        if !j.quiesced p || s.unrun n fun _ => true then .wait
        else s.swapContext (.cxsw f) n j p (j.rs f.a.toNat).toNat (j.rs f.b.toNat).toNat

end Sys2Proof.Machine
end

