-- ==== Sys2Proof/Machine/Start.lean ====
section
/-!
DEFINITION. Entry sets, loop tables and caliper presets as a dispatcher reads them (R333, R344, R345, R415), a job as it starts
(R27, R92, R97, R209), and a micro-context that a structure makes faulted (R333).
-/
namespace Sys2Proof.Machine

/-! Faults that no word raises -/

/-- Write a record to the trap area of a micro-context that no job's entry writes (R333, R431); one that a page state stalls is kept and
written later. -/
def State.putRecord (s : State) (ctx : Nat) (r : TrapRecord) : State :=
  let a := s.blk ctx 0x28
  let keep (t : State) (x : Option TrapRecord) : State := t.updExtra ctx fun y => { y with record := x }
  match (if a = 0 || a % 64 ≠ 0 then .trap 0x06 a 0 else s.ctxStore ctx a (recordBytes false r 0) : Access State) with
  | .ok s1 => keep s1 none
  | .stall _ => keep s (some r)
  | .trap _ _ _ => keep s none

/-- The write of a trap area that stalled is made again; a stall on ARRIVING that outlasts the arrival bound is a fault of it
(R188). With `flag`, the record of R333 that a structure's fault left unwritten. Input: `core`; `flag`, `ctx`. -/
def execTrapAreaWrite (s : State) : Result :=
  runEvent s fun x =>
    if x.flag then ((s.extra x.ctx).record.map (s.putRecord x.ctx)).getD s
    else
    match s.job? x.core with
    | none => s
    | some j =>
      if !j.areaPending || j.preempt.isSome then s
      else
        match j.stalls.s with
        | some y => if s.arrivalOver x.core j y then s.recordFails x.core j else s.writeRecord x.core j
        | none => s.writeRecord x.core j

/-- Write the record of R333 and make the micro-context faulted; the jobs its group has are stopped. -/
def State.faultWith (s : State) (ctx cause addr : Nat) : State :=
  let s2 := (s.putRecord ctx ⟨cause, 0, 0, 0, 0, addr, 0⟩).faultCtx ctx cause
  if bit (s2.blk ctx 0x88) 8 then s2 else s2.updExtra ctx fun x => { x with wanted := false }

/-! Entry sets (R333) -/

/-- An entry set: the four entries and the loop table's address. -/
structure EntrySet where
  s : Nat
  v : Nat
  m : Nat
  c : Nat
  table : Nat
deriving DecidableEq, Repr

def EntrySet.entry (x : EntrySet) : Engine → Nat
  | .s => x.s
  | .v => x.v
  | .m => x.m
  | .c => x.c

/-- The address of set `k`. -/
def State.setVa (s : State) (ctx k : Nat) : Nat := s.blkBits ctx 0x18 51 0 + 64 * k

/-- Read set `k`; one that breaks its layout is a fault of cause 0x03 at its address. An entry that is no multiple of 4 is left to its
stream, which traps with cause 0x06 (R40; log entry 70). -/
def State.readSet (s : State) (ctx k : Nat) : Access EntrySet :=
  (s.ctxLoad ctx (s.setVa ctx k) 64).bind fun (bs, _) =>
    let w (i : Nat) : Nat := fieldNat bs (8 * i) 8
    let bad := (List.range 4).any (fun i => w i ≥ 2 ^ 52) || w 4 % 64 ≠ 0 || w 4 ≥ 2 ^ 52 ||
      [5, 6, 7].any (fun i => w i ≠ 0) || (k = 1 && (w 1 ≠ 0 || w 3 ≠ 0 || w 4 ≠ 0))
    if bad then .trap 0x03 (s.setVa ctx k) 0 else .ok ⟨w 0, w 1, w 2, w 3, w 4⟩

/-! Loop tables (R344, R345) -/

/-- One stream's span of a level. -/
def BodySpan.ofNat (x : Nat) : BodySpan := ⟨bits x 11 0, bits x 23 12, bits x 35 24, bits x 47 36⟩

/-- The level an entry of 64 bytes describes. -/
def LoopLevel.ofBytes (bs : List Byte) : LoopLevel :=
  let w := fieldNat bs 0 8
  let b (i : Nat) : Nat := fieldNat bs (8 + 8 * i) 8
  let sp (i : Nat) : BodySpan := .ofNat (fieldNat bs (0x28 + 6 * i) 6)
  { trip := bits w 63 32, eplen := bits w 27 14, body := ⟨bit w 8, bit w 9, bit w 10, bit w 11⟩, drain := bit w 4, pipe := bit w 3,
    lock := bit w 2, kind := bits w 1 0,
    binds := ((List.range 4).filter fun i => bits (b i) 5 0 ≠ 0).map fun i => (bits (b i) 5 0, sext64 32 (b i / 2 ^ 32)),
    spans := ⟨sp 0, sp 1, sp 2, sp 3⟩ }

/-- The section numbers a level names for a stream. -/
def LoopLevel.named (x : LoopLevel) (e : Engine) : List Nat :=
  let p := x.spans.get e
  [p.pro, p.epi].filter (· ≠ 0xFFF) ++
    (if x.body.get e && p.first ≠ 0xFFF && p.last ≠ 0xFFF then (List.range ((p.last + 4096 - p.first) % 4096 + 1)).map fun i => (p.first + i) % 4096 else [])

/-- An entry that is not all zero breaks R345 on its own. -/
def levelBad (block : Nat) (bs : List Byte) : Bool :=
  let w := fieldNat bs 0 8
  let x := LoopLevel.ofBytes bs
  bits w 31 28 ≠ 0 || bits w 13 12 ≠ 0 || bits w 7 5 ≠ 0 || (List.range 4).any (fun i => bits (fieldNat bs (8 + 8 * i) 8) 31 6 ≠ 0) ||
    x.kind = 3 || (x.lock && x.kind ≠ 1) || (x.pipe && x.body.s) || (x.drain && !x.pipe) || x.eplen > 8192 || x.eplen > block ||
    allEngines.any fun e =>
      let p := x.spans.get e
      (!x.pipe && (p.pro ≠ 0xFFF || p.epi ≠ 0xFFF)) || (p.first ≠ 0xFFF && p.last ≠ 0xFFF && (p.last + 4096 - p.first) % 4096 > 2048)

/-- The levels of a table of 512 bytes, for a block whose BLOCK is given: none where it is malformed. -/
def loopTable (block : Nat) (bs : List Byte) : Option (List LoopLevel) :=
  let es := (List.range 8).map fun n => (bs.drop (64 * n)).take 64
  let used (b : List Byte) : Bool := b.any (· ≠ 0)
  let xs := es.map fun b => if used b then LoopLevel.ofBytes b else .unused
  let twice := (List.range 8).any fun n => (List.range n).any fun m => allEngines.any fun e =>
    let a := (xs.getD n .unused).named e
    used (es.getD n []) && used (es.getD m []) && ((xs.getD m .unused).named e).any a.contains
  if es.any (fun b => used b && levelBad block b) || twice then none else some xs

/-- Read the loop table of a set. -/
def State.readLoops (s : State) (ctx table : Nat) : Access (List LoopLevel) :=
  if table = 0 then .ok []
  else
    (s.ctxLoad ctx table 512).bind fun (bs, _) => match loopTable (s.blkBits ctx 0x60 45 32) bs with
      | some xs => .ok xs
      | none => .trap 0x03 table 0

/-! Presets (R415) -/

/-- A preset record, or none where it breaks R415. -/
def presetOf (bs : List Byte) : Option Monitor :=
  let w (o : Nat) : Word := BitVec.ofNat 64 (fieldNat bs o 8)
  let zero (o n : Nat) : Bool := ((bs.drop o).take n).all (· = 0)
  let res := [(0, 0x00), (1, 0x08), (2, 0x10), (3, 0x18)].any fun p => setsRes (0x100 + p.1) (w p.2).toNat
  if !zero 0x28 8 || !zero 0x58 40 || res || !calConfigOk (w 0) (w 8) (w 0x10) (w 0x18) then none
  else some { Monitor.idle with cfg := w 0, base := w 8, lim := w 0x10, str := w 0x18, bnd := w 0x20, ref := leNat ((bs.drop 0x30).take 40) }

/-- The monitors the enabled presets load. -/
def State.readPresets (s : State) (ctx : Nat) : Access (Sparse Monitor) :=
  let mask := s.blkBits ctx 0x40 59 52
  let base := s.blkBits ctx 0x40 51 0
  (monitorsOf mask).foldl (fun acc m => acc.bind fun ms =>
    (s.ctxLoad ctx (base + 128 * m) 128).bind fun (bs, _) => match presetOf bs with
      | some x => .ok (Sparse.set .idle ms m x)
      | none => .trap 0x03 (base + 128 * m) 0) (.ok [])

/-! A job at its start -/

/-- What a dispatcher reads to start a job from a set. -/
structure Image where
  entries : EntrySet
  handler : EntrySet
  loops   : List LoopLevel
  mons    : Sparse Monitor
deriving DecidableEq, Repr

def State.readImage (s : State) (ctx k : Nat) : Access Image :=
  (s.readSet ctx k).bind fun e => (s.readSet ctx 1).bind fun h => (s.readLoops ctx e.table).bind fun l => (s.readPresets ctx).bind fun m =>
    .ok ⟨e, h, l, m⟩

/-- The routine map of a block. -/
def State.rmapOf (s : State) (ctx : Nat) : Sparse Word :=
  Sparse.ofList 0 0 ((List.range 16).map fun m => BitVec.ofNat 64 (s.blk ctx (0xC0 + 8 * m)))

/-- The park page above a core: the block's park-pool entry (R334); 0 where it cannot be read. -/
def State.parkVa (s : State) (ctx n : Nat) : Nat :=
  if s.blk ctx 0x48 = 0 then 0
  else match s.ctxLoad ctx (s.blk ctx 0x48 + 8 * n) 8 with
    | .ok (bs, _) => leNat bs
    | _ => 0

/-- A ring as its image laid it out: BASE and SIZEM1, unbound (R152). -/
def Job.presetRing (j : Job) (p : RingPreset) : Job := j.setRing p.ring { Ring.idle with base := p.base, sizem1 := p.sizem1 }

/-- A bobbin that its image binds to an affine pattern at job start (R64, R114); a pattern that breaks R256 binds nothing. -/
def Job.presetBobbin (j : Job) (p : BobbinPreset) : Job :=
  let f : CC := ⟨⟨0, 0⟩, 0, 0, 0, 0, 0, 0, 0, BitVec.ofNat 5 p.ty, 0, 0, 0, 0, 0⟩
  if recOk true p.recd && recKind p.recd = 0x51 && (patternTrap (.bobbind f) 0 (tyWidth p.ty) 512 p.recd []).isNone then
    (j.setBobbin p.bobbin ⟨[], false, recDrain p.recd, true⟩).setBinding (8 + p.bobbin) (bindingOf f 0 p.recd [])
  else j

/-- What the image's directives recorded, on a job that starts. -/
def Job.preset (j : Job) (x : CtxExtra) : Job := x.bobbinPresets.foldl Job.presetBobbin (x.ringPresets.foldl Job.presetRing j)

/-- A job as it starts on a core: every register zero but those given, rings and bobbins as its image records them (R27, R92, R97,
R114, R152, R209, R408). -/
def State.newJob (s : State) (ctx n gidx : Nat) (child : Bool) (k : Nat) (x : Image) (seed : Word) (regs : List Word) (drawIdx : Nat) : Job :=
  let g := s.groupSize ctx
  let j : Job :=
    { ctx := ctx, gidx := gidx, gsize := g, ndie := (max g 16) / 16 - 1, child := child, core := n, page := s.parkVa ctx n
      wid := s.ctxWid ctx, conf := s.ctxConf ctx, set := k, handS := x.handler.s, handM := x.handler.m
      s := Sparse.ofList 0 1 regs, p := [], l := [], spend := [], ppend := [], levels := [], loops := x.loops, v := [], k := [], b := []
      repValid := false, repDone := 0, repLeft := 0, tiles := [], accs := [], rings := [], binds := [], mqueue := [], ccmd := none
      fpstat := 0, fpen := 0, srseed := seed, srcntv := 0, srcntm := 0, srcntc := 0, trap := .zero, hmode := false, nest := false
      skip := false, swapped := false, rets := 0, heldv := none, heldm := none, heldc := none, areaPending := false, msaved := .before
      imaged := [], streams := ⟨.start x.entries.s, .start x.entries.v, .start x.entries.m, .start x.entries.c⟩, hs := .empty, hm := .empty
      prerec := 0, loopsave := 0, mons := x.mons, perfsel := [], perfcnt := [], pad := [], ordinal := 0, drawIdx := drawIdx
      rmap := s.rmapOf ctx, swait := .none, waitFrom := none, preempt := none, rebind := [], stalls := .all none, frozen := false }
  j.preset (s.extra ctx)

/-- A core begins with no scratchpad exchange outstanding for a job that starts. -/
def State.placeJob (s : State) (n : Nat) (j : Job) : State := s.updCore n fun c => { c with job := some j, reserved := none }

end Sys2Proof.Machine
end

