-- ==== Sys2Proof/Machine/Dispatcher.lean ====
section
/-!
DEFINITION. The dispatchers' decisions: retirement of jobs, children, the end of a binding, the order of service, binding and
reservations, contract periods and overruns (R23, R24, R30, R334 to R343, R357, R358, R383).
-/
namespace Sys2Proof.Machine

/-! Waiting blocks -/

/-- The numbers of the blocks homed on a die that have ever been installed. -/
def State.homed (s : State) (d : Nat) : List Nat := (s.blocks.map (·.1)).filter (homeDie · = d)

def State.isBound (s : State) (ctx : Nat) : Bool := bit (s.blk ctx 0x88) 8

/-- PASS as a block goes from idle to queued (R338). -/
def State.startPass (s : State) (ctx : Nat) : State :=
  let same := (s.homed (homeDie ctx)).filter fun c =>
    c ≠ ctx && (s.waiting c || s.ctxState c = stBound) && s.prio c = s.prio ctx
  match same.map (s.blk · 0x78) with
  | [] => s
  | p :: r => s.setBlk ctx 0x78 (max (s.blk ctx 0x78) (r.foldl min p))

/-- An idle block whose queue has become non-empty is queued (R23, R24). -/
def State.requestWaits (s : State) (ctx : Nat) : State :=
  if s.ctxState ctx = stIdle then (s.startPass ctx).enterWait ctx stQueued else s

/-! Jobs that retire (R27) and children (R357, R358) -/

/-- Each of the job's four streams has ended. -/
def Job.finished (j : Job) : Bool :=
  allEngines.all (fun e => (j.streams.get e).ended) && !j.hmode && !(j.preempt.any fun p => p.saving)

/-- The finished jobs of a micro-context leave their cores, once the requests their slices have admitted have run (R285). -/
def State.retireJobs (s : State) (ctx : Nat) : State :=
  (s.coresOf ctx).foldl (fun s n => match s.job? n with
    | some j => if j.finished && !s.unrun n (fun _ => true) then s.updCore n fun c => { c with job := none } else s
    | none => s) s

/-- A child record as it lies in memory (R357). -/
def ChildRecord.ofBytes (ctx : Nat) (bs : List Byte) : ChildRecord :=
  let w (i : Nat) : Nat := fieldNat bs (8 * i) 8
  ⟨ctx, bits (w 0) 7 0, bits (w 0) 14 8, w 1, BitVec.ofNat 64 (w 2), BitVec.ofNat 64 (w 3), BitVec.ofNat 64 (w 4)⟩

def State.childBase (s : State) (ctx : Nat) : Nat := s.blkBits ctx 0x30 51 0
def State.childLog (s : State) (ctx : Nat) : Nat := s.blkBits ctx 0x30 59 52

/-- HEAD and the records of the child queue; a header that breaks R357 is a fault of cause 0x13. -/
def State.childState (s : State) (ctx : Nat) : Access (Nat × Nat) :=
  if s.childLog ctx = 0 then .ok (0, 0)
  else
    (s.ctxLoad ctx (s.childBase ctx) 8).bind fun (bs, _) =>
      let head := fieldNat bs 0 4
      let n := (fieldNat bs 4 4 + 2 ^ 32 - head) % 2 ^ 32
      if n > 2 ^ s.childLog ctx then .trap 0x13 (s.childBase ctx) 0 else .ok (head, n)

def State.poolOf (s : State) (ctx : Nat) : List ChildRecord := (s.die (homeDie ctx)).pool.filter (·.ctx = ctx)

/-- Move the oldest queued records into the pool while fewer than 56 entries are in use. -/
def State.refillN : Nat → Nat → State → State
  | 0, _, s => s
  | k + 1, ctx, s =>
    if (s.die (homeDie ctx)).pool.length ≥ 56 then s
    else
      match s.childState ctx with
      | .stall _ => s
      | .trap c a _ => s.faultWith ctx c a
      | .ok (head, n) =>
        if n = 0 then s
        else
          match (s.ctxLoad ctx (s.childBase ctx + 64 + 64 * (head % 2 ^ s.childLog ctx)) 64).bind fun (bs, _) =>
              (s.ctxStore ctx (s.childBase ctx) (leBytes 4 (head + 1))).bind fun s1 => .ok (s1.poolAdd (.ofBytes ctx bs)) with
          | .ok s1 => State.refillN k ctx s1
          | .stall _ => s
          | .trap c a _ => s.faultWith ctx c a

/-- A core of a binding may start a child: it has no job and is in service (R358). -/
def State.idleCore (s : State) (n : Nat) : Bool := (s.core n).job.isNone && (s.core n).alive

/-- Start a child on a core. -/
def State.startChild (s : State) (ctx n : Nat) (r : ChildRecord) (x : Image) : State :=
  let j := s.newJob ctx n (n - s.blkBits ctx 0x88 6 0) true r.set x r.seed [r.arg1, r.arg2, BitVec.ofNat 64 r.ordinal] r.gidx
  (s.placeJob n j).updDie (homeDie ctx) fun d => { d with pool := d.pool.erase r }

/-- The oldest children of the pool start on the free cores of lowest number (R358). -/
def State.startChildrenN : Nat → Nat → State → State
  | 0, _, s => s
  | k + 1, ctx, s =>
    match s.poolOf ctx, (s.groupCores ctx).find? s.idleCore with
    | r :: _, some n =>
      match s.readImage ctx r.set with
      | .stall _ => s
      | .trap c a _ => (s.updDie (homeDie ctx) fun d => { d with pool := d.pool.erase r }).faultWith ctx c a
      | .ok x => State.startChildrenN k ctx (s.startChild ctx n r x)
    | _, _ => s

/-! The end of a binding (R23, R24, R383) -/

/-- The binding's descriptor has not been made current: it is served (R383). -/
def State.serveUnserved (s : State) (ctx : Nat) (q : QArea) : Access State :=
  if (s.extra ctx).servedDesc || q.pending = 0 || q.dhead ≠ (s.extra ctx).bindDesc then .ok s
  else
    (s.descAt ctx q q.dhead).bind fun d =>
      ((s.openStream ctx d).endCurrent ctx q d 0 (s.cycle (homeDie ctx))).bind fun (s1, _) => .ok s1

/-- The current request ends, or the binding's descriptor is served, and the queue is sampled: how many requests remain. -/
def State.closeQueue (s : State) (ctx : Nat) : Access (State × Nat) :=
  if s.queueVa ctx = 0 then .ok (s, 0)
  else
    (s.queueArea ctx).bind fun (q, d) =>
      (match d with
        | some x => (s.endCurrent ctx q x 0 (s.cycle (homeDie ctx))).bind fun (s1, _) => .ok s1
        | none => s.serveUnserved ctx q).bind fun s1 =>
        (s1.queueArea ctx).bind fun (q1, _) => .ok (s1, q1.pending)

/-- Every job of the group has retired: idle, or queued where requests remain (R23). -/
def State.endGroup (s : State) (ctx : Nat) : State :=
  match s.closeQueue ctx with
  | .stall _ => s
  | .trap c a _ => (s.faultWith ctx c a).groupSaved ctx
  | .ok (s1, n) =>
    let s2 := (s1.unbind ctx).endTickets ctx 0
    if n = 0 then s2.setCtxState ctx stIdle else s2.enterWait ctx stQueued

/-- Nothing of a binding is left: no job, no child in the pool or in the queue (R335). -/
def State.groupOver (s : State) (ctx : Nat) : Bool :=
  (s.coresOf ctx).isEmpty && (s.poolOf ctx).isEmpty && match s.childState ctx with
    | .ok (_, n) => n = 0
    | _ => false

/-- The child queue of a bound or parked block moves into the pool (R357). -/
def State.refill (s : State) (ctx : Nat) : State :=
  if s.ctxState ctx = stBound || s.ctxState ctx = stParked then State.refillN 64 ctx s else s

/-- What a decision does for a bound block. -/
def State.tendBound (s : State) (ctx : Nat) : State :=
  if (s.extra ctx).wanted then
    (if s.ctxState ctx = stBound && s.groupOver ctx && (s.extra ctx).parked.isEmpty then s.endGroup ctx else s.groupSaved ctx)
  else
    let s2 := State.startChildrenN 64 ctx s
    if s2.ctxState ctx = stBound && s2.groupOver ctx then s2.endGroup ctx else s2

/-- What a decision does for a block of the die: its finished jobs retire, its child queue moves on, and what its binding has come to. -/
def State.tend (s : State) (ctx : Nat) : State :=
  let s1 := (s.retireJobs ctx).refill ctx
  if s1.isBound ctx then s1.tendBound ctx else s1

/-! Binding (R334, R335) -/

/-- A core's park-pool entry names a page of 4 MiB in its own vault that the world owns (R334): one leaf of that size maps it. -/
def State.parkOk (s : State) (ctx n : Nat) : Bool :=
  let va := s.parkVa ctx n
  va ≠ 0 && va % 0x400000 = 0 && va < 2 ^ 52 && match s.walk ctx va, s.pageFrames ctx va 32 with
    | some l, some fs => decide (l.size = 22) && fs.all fun f =>
        let pa := f * frameBytes
        isVault pa && paDie pa = n / 16 && paOff pa / 2 ^ 27 = n % 16 && ownState (s.ownerAt pa) = ownOwned && ownWid (s.ownerAt pa) = s.ctxWid ctx
    | _, _ => false

/-- A core is free for a block (R334); a reservation the block itself holds does not count. -/
def State.freeFor (s : State) (ctx n : Nat) : Bool :=
  let c := s.core n
  c.job.isNone && c.alive && (s.die (n / 16)).alive && (c.reserved.isNone || c.reserved = some ctx) && s.parkOk ctx n

/-- Where a block's group may stand, lowest first (R25, R335). -/
def State.places (s : State) (ctx : Nat) : List (List Nat) :=
  let n := s.groupSize ctx
  let place := s.blkBits ctx 0x50 42 40
  let run (a : Nat) : List Nat := (List.range n).map (a + ·)
  if n = 0 then []
  else if n > 16 then [run (16 * place)]
  else if bit (s.blk ctx 0) 56 then [run (16 * place + n * s.blkBits ctx 0x50 39 36)]
  else (List.range (16 / n)).map fun j => run (16 * place + n * j)

/-- The six values of a dispatch descriptor (R391). -/
def State.dispatchValues (s : State) (ctx : Nat) (q : QArea) (d : QDesc) : Access (List Word) :=
  ((List.range 12).foldl (fun (acc : Access (List Nat)) i => acc.bind fun ws =>
    (s.queueLoad ctx (q.tokenOff ((d.tstart + i) % 2 ^ 32)) 4).bind fun bs => .ok (ws ++ [leNat bs])) (.ok [])).bind fun ts =>
    .ok ((List.range 6).map fun i => BitVec.ofNat 64 (ts.getD (2 * i) 0 + 2 ^ 32 * ts.getD (2 * i + 1) 0))

/-- What the descriptor at DHEAD gives a binding: its index, SEED, `s1` to `s6` (R77, R92). -/
def State.bindInfo (s : State) (ctx : Nat) : Access (Nat × Word × List Word) :=
  if s.queueVa ctx = 0 then .ok (0, 0, [])
  else
    (s.queueArea ctx).bind fun (q, _) =>
      if q.pending = 0 then .ok (q.dhead, 0, [])
      else
        (s.descAt ctx q q.dhead).bind fun d =>
          if d.kind = 1 then (s.dispatchValues ctx q d).bind fun ws => .ok (q.dhead, BitVec.ofNat 64 d.seed, ws)
          else .ok (q.dhead, BitVec.ofNat 64 d.seed, [])

/-- The block's fields as a binding begins on the cores from `first` on. -/
def State.markBound (s : State) (ctx first : Nat) : State :=
  let now := s.cycle (homeDie ctx)
  (((s.setCtxState ctx stBound).setBlkBits ctx 0x88 6 0 first).setBlkBits ctx 0x88 8 8 1).updExtra ctx fun x =>
    { x with boundAt := now, quantum := now, wanted := false, record := none }

/-- The traps that wait for a binding (R343, R431), and those its jobs hold. -/
def State.bindingTraps (s : State) (ctx : Nat) : State :=
  let x := s.extra ctx
  let s1 := (s.coresOf ctx).foldl (fun s n =>
    let first : Bool := match s.job? n with
      | some j => j.gidx = 0 && !j.child
      | none => false
    ((if first then x.trapZero else []) ++ x.trapAll).foldl (fun s r => s.asyncTrap n r.cause r.addr r.aux) (s.deliverHeld n)) s
  s1.updExtra ctx fun x => { x with trapAll := [], trapZero := [] }

/-- A fresh binding starts set 0 on every core. -/
def State.bindFresh (s : State) (ctx first : Nat) : Access State :=
  (s.bindInfo ctx).bind fun (desc, seed, regs) => (s.readImage ctx 0).bind fun x =>
    let s1 := (s.markBound ctx first).updExtra ctx fun y => { y with servedDesc := false, bindDesc := desc }
    .ok (((List.range (s.groupSize ctx)).foldl (fun s i => s.placeJob (first + i) (s.newJob ctx (first + i) i false 0 x seed regs i)) s1).bindingTraps
      ctx)

/-- A saved job goes on at another core: its page is read, its set and loop table are read again (R333, R334, R353). -/
def State.resumeJob (s : State) (ctx first : Nat) (j : Job) : Access State :=
  let n := first + j.gidx
  (s.readSet ctx j.set).bind fun e => (s.readSet ctx 1).bind fun h => (s.readLoops ctx e.table).bind fun l =>
    let j1 := { s.loadJob { j with loops := l } with
      core := n, page := s.parkVa ctx n, rmap := s.rmapOf ctx, handS := h.s, handM := h.m }
    .ok ((s.placeJob n j1.resumeLoop).rereadPatterns n)

/-- A parked block resumes its saved jobs. -/
def State.bindParked (s : State) (ctx first : Nat) : Access State :=
  let js := (s.extra ctx).parked
  let s1 := s.markBound ctx first
  (js.foldl (fun (acc : Access State) j => acc.bind fun s => s.resumeJob ctx first j) (.ok s1)).bind fun s2 =>
    .ok ((s2.updExtra ctx fun x => { x with parked := [] }).bindingTraps ctx)

/-- Bind a block to the cores from `first` on; a structure that cannot be read, or breaks its layout, makes it faulted. -/
def State.bind (s : State) (ctx first : Nat) : State :=
  match if s.ctxState ctx = stParked then s.bindParked ctx first else s.bindFresh ctx first with
  | .ok s1 => s1
  | .stall _ => s
  | .trap c a _ => s.faultWith ctx c a

/-! Reservations (R30) -/

/-- The dies of a block's shape, ascending. -/
def State.shapeDies (s : State) (ctx : Nat) : List Nat :=
  (List.range ((max (s.groupSize ctx) 16) / 16)).map fun i => s.blkBits ctx 0x50 42 40 + i

/-- The block's group is reserved before it is bound. -/
def State.needsReservation (s : State) (ctx : Nat) : Bool := s.groupSize ctx > 16 || s.blkBits ctx 0x50 42 40 ≠ homeDie ctx

/-- The home dispatcher asks the first die. -/
def State.askFirst (s : State) (ctx : Nat) : State :=
  let h := homeDie ctx
  match s.shapeDies ctx with
  | [] => s
  | d :: r =>
    if (s.die h).reserves.any (·.ctx = ctx) then s
    else
      (s.updDie h fun x => { x with reserves := x.reserves ++ [⟨ctx, none, d :: r, s.cycle h⟩] }).updDie d fun x =>
        { x with asks := x.asks ++ [ctx] }

/-- Every reservation of a block is released. -/
def State.releaseReservations (s : State) (ctx : Nat) : State :=
  let s1 := allCores.foldl (fun s n => if (s.core n).reserved = some ctx then s.updCore n fun c => { c with reserved := none } else s) s
  let s2 := allDies.foldl (fun s d => s.updDie d fun x => { x with asks := x.asks.filter (· ≠ ctx) }) s1
  s2.updDie (homeDie ctx) fun x => { x with reserves := x.reserves.filter (·.ctx ≠ ctx) }

/-- The cores of die `d` a reservation of `ctx` would take: the first of `places` there whose cores are all free. -/
def State.grantable (s : State) (ctx d : Nat) : Option (List Nat) :=
  if s.groupSize ctx > 16 then
    (let cs := (List.range 16).map (16 * d + ·)
     if cs.all (s.freeFor ctx) then some cs else none)
  else (s.places ctx).find? fun cs => cs.all (s.freeFor ctx)

/-- A die grants the request at the head of those that have arrived (R30, step 2); with the last grant the group is bound (step 3).
Input: `ctx`, `die`. -/
def execMultiDieReservationGrant (s : State) : Result :=
  runEvent s fun x =>
    let h := homeDie x.ctx
    match (s.die h).reserves.find? (·.ctx = x.ctx), (s.die x.die).asks with
    | some r, c :: rest =>
      match r.left, s.grantable x.ctx x.die with
      | d :: left, some cs =>
        if c ≠ x.ctx || d ≠ x.die || s.cycle h > r.since + 2048 || !s.waiting x.ctx then s
        else
          let first := r.first.getD (cs.headD 0)
          let s1 := (cs.foldl (fun s n => s.updCore n fun k => { k with reserved := some x.ctx }) s).updDie x.die fun y => { y with asks := rest }
          match left with
          | [] => (s1.updDie h fun y => { y with reserves := y.reserves.filter (·.ctx ≠ x.ctx) }).bind x.ctx first
          | e :: _ =>
            (s1.updDie h fun y =>
              { y with reserves := y.reserves.map fun (z : Reservation) => if z.ctx = x.ctx then { z with first := some first, left := left } else z }).updDie
              e fun y => { y with asks := y.asks ++ [x.ctx] }
      | _, _ => s
    | _, _ => s

/-- The reservation has outlasted 2,048 cycles: everything held is released (R30, step 4). Input: `ctx`. -/
def execMultiDieReservationTimeout (s : State) : Result :=
  runEvent s fun x =>
    match (s.die (homeDie x.ctx)).reserves.find? (·.ctx = x.ctx) with
    | some r => if s.cycle (homeDie x.ctx) > r.since + 2048 then s.releaseReservations x.ctx else s
    | none => s

/-! The order of service (R337 to R339) -/

/-- The block bound to a core. -/
def State.ownerOf (s : State) (n : Nat) : Option Nat :=
  (s.blocks.map (·.1)).find? fun c => s.isBound c && (s.groupCores c).contains n

/-- A bound group that is best-effort or demoted. -/
def State.bestEffort (s : State) (g : Nat) : Bool := !bit (s.blk g 0) 56 || bit (s.blk g 0x68) 63

/-- The steps of R337 in which a block is served. -/
inductive Step3 where
  | contract | starved | other
deriving DecidableEq, Repr

def State.dline (s : State) (c : Nat) : Nat := s.blk c 0x140

/-- A waiting block pre-empts a bound group at once; one that is being pre-empted already gives its cores in any case. -/
def State.mayPreempt (s : State) (st : Step3) (ctx g : Nat) : Bool :=
  (s.extra g).wanted || match st with
    | .contract => s.bestEffort g || s.dline g > s.dline ctx
    | .starved => s.bestEffort g
    | .other => false

/-- The group's quantum has ended, and the block's PRIO and PASS are better (R337, step 3). -/
def State.beatsAtQuantum (s : State) (ctx g : Nat) : Bool :=
  s.bestEffort g && (s.prio ctx > s.prio g || (s.prio ctx = s.prio g && s.blk ctx 0x78 < s.blk g 0x78))

/-- Pre-empt the groups on a place, and keep its cores for the block. -/
def State.claim (s : State) (ctx : Nat) (cs gs : List Nat) : State :=
  cs.foldl (fun s n => s.updCore n fun c => { c with reserved := some ctx }) (gs.foldl State.preemptGroup s)

/-- The bound groups on a place, where no other block has claimed a core of it. -/
def State.groupsOn (s : State) (ctx : Nat) (cs : List Nat) : Option (List Nat) :=
  if cs.any (fun n => !((s.core n).reserved.isNone || (s.core n).reserved = some ctx)) then none
  else some (cs.filterMap s.ownerOf).eraseDups

/-- The place whose cores a waiting block takes: the first where it pre-empts every group; where there is none, and the block pre-empts at
once, the first where it pre-empts some (R337 lets it pre-empt each on its own). -/
def State.claimable (s : State) (st : Step3) (ctx : Nat) : Option (List Nat) :=
  let on (p : List Nat → Bool) (cs : List Nat) : Bool := match s.groupsOn ctx cs with
    | some gs => !gs.isEmpty && p gs
    | none => false
  ((s.places ctx).find? (on fun gs => gs.all (s.mayPreempt st ctx))).or
    (if st = .other then none else (s.places ctx).find? (on fun gs => gs.any (s.mayPreempt st ctx)))

/-- Serve a waiting block. -/
def State.serve (s : State) (st : Step3) (ctx : Nat) : State :=
  if !s.waiting ctx then s
  else
    match (s.places ctx).find? (fun cs => cs.all (s.freeFor ctx)) with
    | some cs => if s.needsReservation ctx then s.askFirst ctx else s.bind ctx (cs.headD 0)
    | none =>
      match s.claimable st ctx with
      | some cs => s.claim ctx cs (((s.groupsOn ctx cs).getD []).filter (s.mayPreempt st ctx))
      | none => s

/-- The waiting block that comes first of a list, by a comparison. -/
def firstBy (lt : Nat → Nat → Bool) : List Nat → Option Nat
  | [] => none
  | x :: r => match firstBy lt r with
    | some y => some (if lt y x then y else x)
    | none => some x

/-- Serve blocks one after another in the order of a comparison. -/
def serveN (lt : State → Nat → Nat → Bool) (st : Step3) : Nat → List Nat → State → State
  | 0, _, s => s
  | k + 1, l, s =>
    match firstBy (lt s) l with
    | none => s
    | some c => serveN lt st k (l.filter (· ≠ c)) (s.serve st c)

/-- Earlier DLINE, then lower number. -/
def byDline (s : State) (a b : Nat) : Bool := s.dline a < s.dline b || (s.dline a = s.dline b && a < b)
/-- Older QSINCE, then lower number. -/
def byWait (s : State) (a b : Nat) : Bool := s.blk a 0x80 < s.blk b 0x80 || (s.blk a 0x80 = s.blk b 0x80 && a < b)
/-- Higher PRIO, then lower PASS, then lower number. -/
def byPass (s : State) (a b : Nat) : Bool :=
  s.prio a > s.prio b || (s.prio a = s.prio b && (s.blk a 0x78 < s.blk b 0x78 || (s.blk a 0x78 = s.blk b 0x78 && a < b)))

/-- The claims that a decision of die `d` makes again, in the order of service: those of its own blocks that no request of R30 holds, and
those of blocks that no longer wait. -/
def State.dropClaims (s : State) (d : Nat) : State :=
  allCores.foldl (fun s n => match (s.core n).reserved with
    | some c =>
      if s.waiting c && !(homeDie c = d && !(s.die d).reserves.any (·.ctx = c)) then s else s.updCore n fun k => { k with reserved := none }
    | none => s) s

/-- A dispatcher decides (R337): what its bound blocks have come to, then the waiting blocks in the order of service. -/
def State.decide (s : State) (d : Nat) : State :=
  let s1 := ((s.homed d).foldl State.tend s).dropClaims d
  let wait := (s1.homed d).filter s1.waiting
  let one := wait.filter s1.contractServed
  let two := wait.filter fun c => !s1.contractServed c && (s1.extra c).starved
  let three := wait.filter fun c => !s1.contractServed c && !(s1.extra c).starved
  serveN byPass .other three.length three (serveN byWait .starved two.length two (serveN byDline .contract one.length one s1))

/-- Input: `die`. -/
def execDispatcherDecision (s : State) : Result := runEvent s fun x => if (s.die x.die).alive then s.finishRoutines.decide x.die else s

/-- The quantum of a bound best-effort group ends: the first block in the order of service that beats it takes its cores, or a new
quantum begins (R337, step 3). Where the place holds other groups, each has to be one that the block beats too, and it goes on to its own
quantum's end (DESIGN CHOICE; log entry 73). Input: `ctx`. -/
def execQuantumEnd (s : State) : Result :=
  runEvent s fun x =>
    let d := homeDie x.ctx
    let e := s.extra x.ctx
    if s.ctxState x.ctx ≠ stBound || !s.bestEffort x.ctx || e.wanted || s.cycle d < e.quantum + (s.die d).quant then s
    else
      let fits (c : Nat) : Option (List Nat) := (s.places c).find? fun cs => match s.groupsOn c cs with
        | some gs => gs.contains x.ctx && s.beatsAtQuantum c x.ctx && gs.all fun g => (s.extra g).wanted || s.beatsAtQuantum c g
        | none => false
      let cand := (s.blocks.map (·.1)).filter fun c => s.waiting c && !s.contractServed c && (fits c).isSome
      match firstBy (byPass s) cand with
      | some c =>
        s.claim c ((fits c).getD []) [x.ctx]
      | none => s.updExtra x.ctx fun y => { y with quantum := s.cycle d }

/-- A block has waited STARVE cycles since QSINCE (R339). Input: `ctx`. -/
def execStarvation (s : State) : Result :=
  runEvent s fun x =>
    let d := homeDie x.ctx
    if s.waiting x.ctx && s.cycle d ≥ s.blk x.ctx 0x80 + (s.die d).starve then s.updExtra x.ctx fun y => { y with starved := true } else s

/-! Contract periods (R342, R343) -/

def State.admitted (s : State) (ctx : Nat) : Bool := bit (s.blk ctx 0) 56

/-- DLINE has passed while the block is queued, parked or bound: an overrun (R343). -/
def State.overrun (s : State) (ctx : Nat) : State :=
  let x := s.extra ctx
  if !s.admitted ctx || x.dlDone || s.cycle (homeDie ctx) < s.dline ctx then s
  else
    let s1 := s.updExtra ctx fun y => { y with dlDone := true }
    if !(s.waiting ctx || s.ctxState ctx = stBound) then s1
    else
      let s2 := s1.setBlkBits ctx 0x68 47 32 (min 0xFFFF (s.blkBits ctx 0x68 47 32 + 1))
      if !bit (s.blk ctx 0) 55 then s2
      else
        let aux := x.usedB - s.blkBits ctx 0x58 63 32
        match (s.coresOf ctx).find? (fun n => match s.job? n with
          | some j => j.gidx = 0 && !j.child
          | none => false) with
        | some n => s2.asyncTrap n 0x0F 0 aux
        | none => s2.updExtra ctx fun y => { y with trapZero := y.trapZero ++ [⟨0x0F, 0, 0, 0, 0, 0, aux⟩] }

/-- Input: `ctx`. -/
def execDeadlineOverrun (s : State) : Result := runEvent s fun x => s.overrun x.ctx

/-- A period of an admitted contract is released (R342). Input: `ctx`. -/
def execPeriodRelease (s : State) : Result :=
  runEvent s fun x =>
    let c := x.ctx
    if !s.admitted c || s.cycle (homeDie c) < s.blk c 0x70 then s
    else
      let s1 := s.overrun c
      let rel := s.blk c 0x70
      let s2 := (s1.setBlkBits c 0x68 31 0 (s.blkBits c 0x58 63 32)).setBlk c 0x140 ((rel + s.blkBits c 0x60 31 0) % 2 ^ 64)
      ((s2.setBlk c 0x70 ((rel + s.blkBits c 0x58 31 0) % 2 ^ 64)).setBlkBits c 0x68 63 63 0).updExtra c fun y =>
        { y with usedB := 0, dlDone := false }

/-- BUDLEFT has reached 0: DEMOTED (R342). Input: `ctx`. -/
def execBudgetExhausted (s : State) : Result :=
  runEvent s fun x =>
    if s.admitted x.ctx && s.isBound x.ctx && s.blkBits x.ctx 0x68 31 0 = 0 then s.setBlkBits x.ctx 0x68 63 63 1 else s

end Sys2Proof.Machine
end

