-- ==== Sys2Proof/Machine/Append.lean ====
section
/-!
DEFINITION. Appending a descriptor to a queue (R31, R377, R380), dispatches (R391), replay records (R432, R433), and the requests on their
way that a retirement still appends (R24).
-/
namespace Sys2Proof.Machine

/-! Appending (R380) -/

/-- The outcome of an append. -/
inductive Append (α : Type) where
  | ok (x : α)
  /-- no free descriptor, or too few free tokens -/
  | full
  /-- QUEUE is zero, the area breaks R378, or an access to it faults -/
  | bad
  /-- a page state stalls an access to the area -/
  | stall
deriving DecidableEq, Repr

def Append.ofAccess {α : Type} : Access α → Append α
  | .ok x => .ok x
  | .stall _ => .stall
  | .trap _ _ _ => .bad

def Append.bind {α β : Type} (x : Append α) (f : α → Append β) : Append β :=
  match x with
  | .ok y => f y
  | .full => .full
  | .bad => .bad
  | .stall => .stall

/-- The area of a micro-context with room for `n` tokens in one descriptor. -/
def State.appendArea (s : State) (ctx n : Nat) : Append QArea :=
  if s.queueVa ctx = 0 then .bad
  else
    (Append.ofAccess (s.queueArea ctx)).bind fun (q, _) =>
      if q.pending ≥ 2 ^ q.dlog || (q.ttail + 2 ^ 32 - q.thead) % 2 ^ 32 + n > 2 ^ q.tlog then .full else .ok q

/-- Write tokens into the ring from index `k` on, in two runs where they pass its end. -/
def State.writeTokens (s : State) (ctx : Nat) (q : QArea) (k : Nat) (ts : List Nat) : Access State :=
  let n := min ts.length (2 ^ q.tlog - k % 2 ^ q.tlog)
  let put (s : State) (k : Nat) (l : List Nat) : Access State :=
    if l.isEmpty then .ok s else s.queueStore ctx (q.tokenOff k) (l.flatMap (leBytes 4))
  (put s k (ts.take n)).bind fun s1 => put s1 (k + n) (ts.drop n)

/-- Tokens, then the descriptor, then DTAIL and TTAIL (R380). -/
def State.writeAppend (s : State) (ctx : Nat) (q : QArea) (ts : List Nat) (d : QDesc) : Access State :=
  (s.writeTokens ctx q q.ttail ts).bind fun s1 =>
    (s1.queueStore ctx (q.descOff q.dtail) d.bytes).bind fun s2 =>
      s2.queueStore ctx 0x04 (leBytes 4 ((q.dtail + 1) % 2 ^ 32) ++ leBytes 4 q.thead ++ leBytes 4 ((q.ttail + ts.length) % 2 ^ 32))

/-! Replay records (R432, R433) -/

/-- The replay area's header. -/
structure ReplayArea where
  rhead : Nat
  rtail : Nat
  bhead : Nat
  btail : Nat
  rlog  : Nat
  blog  : Nat
  drops : Nat
  /-- its layout holds -/
  good  : Bool
deriving DecidableEq, Repr

def ReplayArea.ofBytes (bs : List Byte) : ReplayArea :=
  let rlog := fieldNat bs 0x18 1
  let blog := fieldNat bs 0x19 1
  ⟨fieldNat bs 0 4, fieldNat bs 4 4, fieldNat bs 8 8, fieldNat bs 0x10 8, rlog, blog, fieldNat bs 0x1C 4,
    4 ≤ rlog && rlog ≤ 16 && 16 ≤ blog && blog ≤ 30 && fieldNat bs 0x1A 2 = 0 && fieldNat bs 0x20 32 = 0⟩

/-- Where record `n` lies in the area, and byte `k` of the text ring. -/
def ReplayArea.recordOff (r : ReplayArea) (n : Nat) : Nat := 64 + 256 * (n % 2 ^ r.rlog)
def ReplayArea.textOff (r : ReplayArea) (k : Nat) : Nat := 64 + 256 * 2 ^ r.rlog + k % 2 ^ r.blog

/-- Room for one record and `n` text bytes. -/
def ReplayArea.room (r : ReplayArea) (n : Nat) : Bool :=
  r.good && (r.rtail + 2 ^ 32 - r.rhead) % 2 ^ 32 < 2 ^ r.rlog && (r.btail + 2 ^ 64 - r.bhead) % 2 ^ 64 + n ≤ 2 ^ r.blog

/-- A record's 256 bytes. -/
def State.replayRecord (s : State) (ctx : Nat) (d : QDesc) (bstart : Nat) (msg : List Byte) (values : List Word) : List Byte :=
  padTo 256 (leBytes 4 d.reqid ++ leBytes 4 d.kind ++ leBytes 8 d.seed ++ s.meas ctx ++ s.cfgh ctx ++ leBytes 8 d.version
    ++ leBytes 8 (if d.kind = 1 then 0 else bstart) ++ leBytes 4 msg.length ++ leBytes 4 0 ++ padTo 48 (values.flatMap fun v => leBytes 8 v.toNat))

def State.replayVa (s : State) (ctx : Nat) : Nat := s.blk ctx 0x38

/-- Write a request's record before its append; without room DROPS rises. What cannot be accessed is left as it is. -/
def State.recordReplay (s : State) (ctx : Nat) (d : QDesc) (msg : List Byte) (values : List Word) : Access State :=
  if !bit (s.blk ctx 0) 60 then .ok s
  else if s.cfghStalls ctx then .stall (s.replayVa ctx)
  else
    let a := s.replayVa ctx
    let store (s : State) (off : Nat) (bs : List Byte) : Access State := if bs.isEmpty then .ok s else s.ctxStore ctx (a + off) bs
    let all := (s.ctxLoad ctx a 64).bind fun (bs, _) =>
      let r := ReplayArea.ofBytes bs
      if !r.room msg.length then store s 0x1C (leBytes 4 (min (2 ^ 32 - 1) (r.drops + 1)))
      else
        let n := min msg.length (2 ^ r.blog - r.btail % 2 ^ r.blog)
        (store s (r.textOff r.btail) (msg.take n)).bind fun s1 => (store s1 (r.textOff (r.btail + n)) (msg.drop n)).bind fun s2 =>
          (store s2 (r.recordOff r.rtail) (s.replayRecord ctx d r.btail msg values)).bind fun s3 =>
            (store s3 4 (leBytes 4 ((r.rtail + 1) % 2 ^ 32))).bind fun s4 => store s4 0x10 (leBytes 8 ((r.btail + msg.length) % 2 ^ 64))
    match all with
    | .trap _ _ _ => .ok s
    | x => x

/-! The whole append -/

/-- Append a descriptor with its tokens: the record of R433 first, then the queue, then the block waits (R23). The descriptor takes the
next request sequence number (R379). -/
def State.append (s : State) (ctx : Nat) (ts : List Nat) (d : QDesc) (msg : List Byte) (values : List Word) : Append State :=
  (s.appendArea ctx ts.length).bind fun q =>
    let d1 := { d with tstart := q.ttail, tcount := ts.length, reqid := (s.extra ctx).reqseq }
    (Append.ofAccess (s.recordReplay ctx d1 msg values)).bind fun s1 =>
      (Append.ofAccess (s1.writeAppend ctx q ts d1)).bind fun s2 =>
        .ok ((s2.updExtra ctx fun x => { x with reqseq := (x.reqseq + 1) % 2 ^ 32 }).requestWaits ctx)

/-- The vocabulary version a descriptor of KIND 1 holds (R391). -/
def State.vocabVersion (s : State) (ctx : Nat) : Nat :=
  if bit (s.blk ctx 0x50) 46 then vocVersion (Sparse.get .empty s.hub.vocab (s.blkBits ctx 0x50 45 43)).image else 0

/-- A ticket number that no die holds: which one is not stated. -/
def State.freshTicket (s : State) : Nat :=
  let held := s.dies.flatMap fun d => d.2.tickets.map (·.number)
  let c := Config.freeNat s.tick 22
  ((List.range 2049).map fun i => (c + i) % (2 ^ 31 - 1) + 1).find? (fun t => !held.contains t) |>.getD 1

/-- The descriptor index the next append takes. -/
def State.nextDesc (s : State) (ctx : Nat) : Nat :=
  match s.queueArea ctx with
  | .ok (q, _) => q.dtail
  | _ => 0

/-- Append a KIND 1 descriptor and take a ticket (R391). -/
def State.appendDispatch (s : State) (ctx : Nat) (values : List Word) (seed version : Nat) : Append (State × Nat) :=
  let d : QDesc := ⟨0, 0, 1048576, 0, 0, 0, seed, 0, 1, version, 0⟩
  let ts := values.flatMap fun v => [v.toNat % 2 ^ 32, v.toNat / 2 ^ 32]
  let n := s.nextDesc ctx
  (s.append ctx ts d [] values).bind fun s1 =>
    let t := s.freshTicket
    .ok (s1.updDie (homeDie ctx) fun x => { x with tickets := x.tickets ++ [⟨t, ctx, n, false, none⟩] }, t)

/-! Requests on their way (R31, R377) -/

/-- Replace request `k` of the hub, or remove it. -/
def State.setRequest (s : State) (k : Nat) (r : Option Request) : State :=
  { s with hub := { s.hub with requests := s.hub.requests.take k ++ r.toList ++ s.hub.requests.drop (k + 1) } }

/-- The descriptor of a request (R379). -/
def Request.desc (r : Request) : QDesc :=
  ⟨0, 0, r.field 0x18 4, r.field 0x1C 4, r.field 0x20 4, r.field 0x24 4, r.field 0x28 8, 0, 0, r.version, 0⟩

def Request.isAppended (r : Request) : Bool :=
  match r.stage with
  | .appended _ => true
  | _ => false

/-- A request with no open stream is answered with a final chunk. -/
def State.answerRequest (s : State) (r : Request) (status aux : Nat) : State :=
  s.sendChunk r.conn (chunkBytes 1 status (r.field 0x30 8) 0 aux [])

/-- The tokens of a request's text under the vocabulary bound at its classification (R365, R366). -/
def State.tokensOf (s : State) (r : Request) : List Nat := hackle (Sparse.get .empty s.hub.vocab r.slot).image (r.message.drop (r.field 2 2))

/-- Append a tokenised request, number `k` of the hub, or answer it (R377); none while a page state stalls the queue area. -/
def State.appendRequest (s : State) (k : Nat) (r : Request) : Option State :=
  match s.append r.ctx r.tokens r.desc r.message [] with
  | .stall => none
  | .full => some ((s.setRequest k none).answerRequest r 0x06 0)
  | .bad => some ((s.setRequest k none).answerRequest r 0x07 0)
  | .ok s1 => some (s1.setRequest k (some { r with stage := .appended (s.extra r.ctx).reqseq, tokens := [] }))

/-- Take every request of a micro-context that has been looked up, `n` at most, to its append or its answer, in their order (R24, R31). -/
def State.takeInFlight : Nat → Nat → State → Option State
  | 0, _, s => some s
  | n + 1, ctx, s =>
    match s.hub.requests.findIdx? fun r => r.ctx = ctx && !r.isAppended with
    | none => some s
    | some k =>
      match s.hub.requests[k]? with
      | none => some s
      | some r =>
        let ts := if r.stage = .tokenised then r.tokens else s.tokensOf r
        if ts.length > 1048576 then State.takeInFlight n ctx ((s.setRequest k none).answerRequest r 0x04 0x02)
        else (s.appendRequest k { r with tokens := ts }).bind (State.takeInFlight n ctx)

/-- Every request on its way to the micro-context's queue. -/
def State.landRequests (s : State) (ctx : Nat) : Option State := State.takeInFlight s.hub.requests.length ctx s

end Sys2Proof.Machine
end

