-- ==== Sys2Proof/Machine/Block.lean ====
section
/-!
DEFINITION. Firmware's commands on control blocks (R23, R24, R36, R328 to R332, R336, R340, R341): writes, contracts, retirement,
installation, the clearing of a fault, dispatcher parameters.
-/
namespace Sys2Proof.Machine

/-! Fields (R328 to R331) -/

/-- The bits of the word at a byte offset of a block that firmware's writes set. -/
def blockWritable (off : Nat) : Nat :=
  if off = 0 then 0x1E8FFFFF00000000
  else if 0x10 ≤ off && off ≤ 0x60 then 2 ^ 64 - 1
  else if 0xC0 ≤ off && off < 0x140 then 0x800000000000FFFF
  else 0

/-- The fields of a word that hold zero, high and low bit. -/
def blockReserved (off : Nat) : List (Nat × Nat) :=
  match off with
  | 0x00 => [(54, 52), (31, 8)]
  | 0x10 => [(63, 52)]
  | 0x18 => [(63, 60)]
  | 0x20 => [(63, 61)]
  | 0x28 => [(63, 52)]
  | 0x30 => [(63, 60)]
  | 0x38 => [(63, 52)]
  | 0x40 => [(63, 60)]
  | 0x48 => [(63, 52)]
  | 0x50 => [(35, 20)]
  | 0x60 => [(63, 46)]
  | off => if 0xC0 ≤ off && off < 0x140 then [(61, 32)] else if 0x148 ≤ off then [(63, 0)] else []

/-- A field of a word lies outside its range (R328, R330). -/
def blockFieldBad (off v : Nat) : Bool :=
  match off with
  | 0x18 => v % 64 ≠ 0 || bits v 59 52 < 2
  | 0x20 => bits v 60 52 > 256
  | 0x30 => v % 64 ≠ 0 || bits v 59 52 > 16
  | 0x48 => v % 8 ≠ 0
  | 0x50 => bits v 19 0 = 0
  | _ => false

/-- SHAPE, PLACE and POS are legal together (R331). -/
def placementLegal (shape place pos : Nat) : Bool :=
  if shape ≤ 4 then pos < 16 / 2 ^ shape
  else if shape ≤ 7 then pos = 0 && place % 2 ^ (shape - 4) = 0
  else false

/-- A write of words of a block, by byte offset. -/
abbrev BlockWrite := List (Nat × Nat)

def BlockWrite.covers (w : BlockWrite) (off : Nat) : Bool := w.any (·.1 = off)
def BlockWrite.raw (w : BlockWrite) (off : Nat) : Nat := ((w.find? (·.1 = off)).map (·.2)).getD 0

/-- What a word of the block is after a write. -/
def State.merged (s : State) (ctx : Nat) (w : BlockWrite) (off : Nat) : Nat :=
  let old := s.blk ctx off
  if w.covers off then old ^^^ ((old ^^^ w.raw off) &&& blockWritable off) else old

/-! Refusals, in the order of R340 -/

/-- A write names a change of STATE. -/
def State.newState (s : State) (ctx : Nat) (w : BlockWrite) : Option Nat :=
  if w.covers 0 && bits (w.raw 0) 63 61 ≠ s.ctxState ctx then some (bits (w.raw 0) 63 61) else none

/-- Firmware may make the change: retire, clear a fault, install (R23). A faulted micro-context whose group is still being saved (R187) is
neither retired nor cleared: R23 and R187 say nothing of such an early command, and reason 0x07 is the model's choice (DESIGN CHOICE; log
entry 74). -/
def State.mayChange (s : State) (ctx st : Nat) : Bool :=
  let now := s.ctxState ctx
  if st = stRetired then now ≠ stBound && now ≠ stRetired && !s.isBound ctx
  else if st = stIdle then (now = stFaulted && !s.isBound ctx) || now = stRetired
  else st = stQueued && now = stFaulted && !s.isBound ctx

/-- A locked field changes (R332). -/
def State.lockedChanged (s : State) (ctx : Nat) (w : BlockWrite) : Bool :=
  let diff (off hi lo : Nat) : Bool := bits (s.merged ctx w off) hi lo ≠ bits (s.blk ctx off) hi lo
  diff 0 47 32 || diff 0 58 58 || diff 0x18 63 0 || diff 0x30 63 0 || diff 0x48 63 0 || diff 0x50 42 36

/-- Reason 0x07. -/
def State.writeLocked (s : State) (ctx : Nat) (w : BlockWrite) : Bool :=
  (s.lockedChanged ctx w && s.ctxState ctx ≠ stIdle && s.ctxState ctx ≠ stRetired) || match s.newState ctx w with
    | some st => !s.mayChange ctx st
    | none => false

/-- The write submits a contract (R340). -/
def State.submits (s : State) (ctx : Nat) (w : BlockWrite) : Bool := (w.covers 0x58 || w.covers 0x60) && bit (s.merged ctx w 0) 57

/-- Reason 0x06. -/
def State.writeInvalid (s : State) (ctx : Nat) (w : BlockWrite) : Bool :=
  let ctl := s.merged ctx w 0
  let sched := s.merged ctx w 0x50
  let own := w.covers 0 || s.submits ctx w
  w.any (fun p => (blockReserved p.1).any (fun r => bits p.2 r.1 r.2 ≠ 0) || blockFieldBad p.1 (s.merged ctx w p.1)) ||
    ((own || w.covers 0x50) && !placementLegal (bits ctl 47 44) (bits sched 42 40) (bits sched 39 36)) ||
    (own && (bits ctl 43 32 = 0 || (bit ctl 57 && bits ctl 47 44 > 4)))

/-- The terms of a contract: period, budget, deadline. -/
structure Terms where
  p : Nat
  b : Nat
  d : Nat
deriving DecidableEq, Repr

def Terms.of (t0 t1 : Nat) : Terms := ⟨bits t0 31 0, bits t0 63 32, bits t1 31 0⟩

/-- The cores a contract block covers (R341). -/
def coveredCores (shape place pos : Nat) : List Nat := (List.range (2 ^ shape)).map fun i => 16 * place + 2 ^ shape * pos + i
def State.covered (s : State) (ctx : Nat) : List Nat :=
  coveredCores (s.blkBits ctx 0 47 44) (s.blkBits ctx 0x50 42 40) (s.blkBits ctx 0x50 39 36)

/-- The sum of B / P, as a numerator and a denominator. -/
def utilisation (ts : List Terms) : Nat × Nat := ts.foldl (fun (a : Nat × Nat) t => (a.1 * t.p + t.b * a.2, a.2 * t.p)) (0, 1)

/-- The terms of every other admitted contract that covers a core, and the new ones. -/
def State.termsAt (s : State) (ctx : Nat) (new : Terms) (c : Nat) : List Terms :=
  (((s.blocks.map (·.1)).filter fun k => k ≠ ctx && s.admitted k && (s.covered k).contains c).map fun k => .of (s.blk k 0x58) (s.blk k 0x60))
    ++ [new]

/-- The admission tests on the covered cores (R341): the first that fails. -/
def State.admissionReason (s : State) (ctx : Nat) (w : BlockWrite) (new : Terms) : Option Nat :=
  let sched := s.merged ctx w 0x50
  let place := s.die (bits sched 42 40)
  let cores := coveredCores (bits (s.merged ctx w 0) 47 44) (bits sched 42 40) (bits sched 39 36)
  let beta := place.bcap + 3600
  let exceeds (c : Nat) : Bool :=
    let u := utilisation (s.termsAt ctx new c)
    u.1 * 1000 > place.ubound * u.2
  let blocked (c : Nat) : Bool :=
    let ts := s.termsAt ctx new c
    let u := utilisation ts
    ts.any fun t => (u.1 * t.d + beta * u.2) * 1000 > place.ubound * (u.2 * t.d)
  if cores.any exceeds then some 0x02 else if cores.any blocked then some 0x03 else none

/-- Contracts in a die's table. -/
def State.tableCount (s : State) (ctx : Nat) : Nat := ((s.homed (homeDie ctx)).filter fun k => k ≠ ctx && s.admitted k).length

/-- The first reason to refuse a write (R340). -/
def State.writeReason (s : State) (ctx : Nat) (w : BlockWrite) : Option Nat :=
  let t := Terms.of (s.merged ctx w 0x58) (s.merged ctx w 0x60)
  let sub := s.submits ctx w
  if s.writeLocked ctx w then some 0x07
  else if s.writeInvalid ctx w then some 0x06
  else if sub && !(1 ≤ t.b && t.b ≤ t.d && t.d ≤ t.p) then some 0x01
  else if w.covers 0x60 && bits (s.merged ctx w 0x60) 45 32 > (s.die (homeDie ctx)).bcap then some 0x05
  else if !sub then none
  else if s.tableCount ctx ≥ 256 then some 0x04
  else s.admissionReason ctx w t

/-! Writing -/

/-- The routine-map entries of a write are resolved (R305). -/
def State.resolveWritten (s : State) (ctx : Nat) (w : BlockWrite) : State :=
  (List.range 16).foldl (fun s m => if w.covers (0xC0 + 8 * m) then s.resolveEntry ctx m else s) s

/-- A contract is admitted: its first period is released at once (R340). -/
def State.admitCtx (s : State) (ctx : Nat) : State :=
  ((s.setBlkBits ctx 0 56 56 1).setBlk ctx 0x70 (s.cycle (homeDie ctx) % 2 ^ 64)).updExtra ctx fun x => { x with dlDone := true }

/-- The words of an accepted write. -/
def State.putBlock (s : State) (ctx : Nat) (w : BlockWrite) : State :=
  let s1 := w.foldl (fun (t : State) p => t.setBlk ctx p.1 (s.merged ctx w p.1)) s
  let s2 := if s.submits ctx w then s1.admitCtx ctx else if bit (s1.blk ctx 0) 57 then s1 else s1.setBlkBits ctx 0 56 56 0
  s2.resolveWritten ctx w

/-! Retirement (R23, R24, R39) -/

/-- The entries of a world's frames, by die. -/
def State.worldFrames (s : State) (wid : Nat) : List (Nat × Nat) :=
  s.dies.flatMap fun d => d.2.owner.filterMap fun p =>
    let e := s.ownerEntry d.1 p.1
    if ownState e ≠ ownFree && ownState e ≠ ownScrub && ownWid e = wid then some (d.1, p.1) else none

/-- A page of the world is in a move, in sharing or still arriving: no transition of R325 takes it to SCRUB yet. -/
def State.worldMoves (s : State) (wid : Nat) : Bool :=
  (s.worldFrames wid).any fun p =>
    let e := s.ownerEntry p.1 p.2
    ownState e = ownMigrating || (ownState e = ownArriving && !ownFail e)

/-- The world leaves the sharer sets (R430). -/
def State.leaveShares (s : State) (wid : Nat) : State :=
  { s with hub := { s.hub with shared := s.hub.shared.map fun g => { g with sharers := g.sharers.filter (· ≠ wid) } } }

/-- Every page of the world enters the scrub path, a SHARED one of its own too (R39, R325); which ones the slot waits for. -/
def State.scrubWorld (s : State) (ctx wid : Nat) : State :=
  let s1 := s.leaveShares wid
  let fs := s1.worldFrames wid
  (fs.foldl (fun (t : State) p => t.scrubFrame p.1 p.2 none) s1).updExtra ctx fun x => { x with scrubbing := fs }

/-- The open reply stream of a micro-context that retires: its pend is released as by `spflush`, and its final chunk takes status 0x03,
also where it had stopped (R24). -/
def State.cutStream (s : State) (ctx : Nat) : State :=
  match s.stream? ctx with
  | none => s
  | some r =>
    let s1 := s.flush r (s.cycle (homeDie ctx))
    match s1.stream? ctx with
    | none => s1
    | some y => s1.setStream { y with stopped := some (0x03, 0) }

/-- What is left of a micro-context's requests at its retirement: the current one ends with status 0x03, each waiting one is answered
so, and the descriptors leave the queue (R24). -/
def State.endRequests (s0 : State) (ctx : Nat) : State :=
  let s := s0.cutStream ctx
  let now := s.cycle (homeDie ctx)
  let s1 := if s.queueVa ctx = 0 then s else
    match s.queueArea ctx with
    | .ok (q, some d) => (match s.endCurrent ctx q d 0x03 now with
      | .ok (t, _) => t
      | _ => s)
    | _ => s
  let s2 := match s1.stream? ctx with
    | some r => s1.closeStream r 0x03 now
    | none => s1
  let mine := s2.hub.requests.filter (·.ctx = ctx)
  let s3 := mine.foldl (fun (t : State) r => t.answerRequest r 0x03 0) { s2 with hub := { s2.hub with requests := s2.hub.requests.filter (·.ctx ≠ ctx) } }
  if s.queueVa ctx = 0 then s3 else
    match s3.queueArea ctx with
    | .ok (q, _) => (match s3.queueStore ctx 0 { q with dhead := q.dtail, thead := q.ttail, cpos := 0, cur := 0 }.bytes with
      | .ok t => t
      | _ => s3)
    | _ => s3

/-- Tickets at retirement (R391): a descriptor that waited takes 2; one whose binding had begun takes no stated value. -/
def State.retireTickets (s : State) (ctx : Nat) : State :=
  s.updDie (homeDie ctx) fun d =>
    { d with tickets := d.tickets.map fun t =>
        if t.ctx ≠ ctx || t.status.isSome then t
        else { t with status := some (if t.served then Config.freeNat s.tick 21 % 2 ^ 64 else 2) } }

/-- The children of a micro-context leave the pool. -/
def State.dropChildren (s : State) (ctx : Nat) : State := s.updDie (homeDie ctx) fun d => { d with pool := d.pool.filter (·.ctx ≠ ctx) }

/-- The classifier stops mapping the micro-context's context key (R24). -/
def State.unkey (s : State) (ctx : Nat) : State := { s with hub := { s.hub with keys := s.hub.keys.filter fun p => p.2 ≠ some ctx } }

/-- Retire a micro-context: requests looked up before are still appended, then every request left is answered (R24). -/
def State.retireCtx (s : State) (ctx : Nat) : State :=
  let wid := s.ctxWid ctx
  let faulted := s.ctxState ctx = stFaulted
  let s0 := s.unkey ctx
  let s1 := ((s0.landRequests ctx).getD s0).endRequests ctx
  let s2 := ((if faulted then s1.endTickets ctx (0x100 + s.blkBits ctx 0 7 0) else s1).retireTickets ctx).dropChildren ctx
  let s3 := ((s2.releaseReservations ctx).setExtra ctx CtxExtra.none).setCtxState ctx stRetired
  ((s3.setBlkBits ctx 0 57 56 0).flushIdentifier ctx).scrubWorld ctx wid

/-- The retirement waits for pages of the world that no transition takes to SCRUB yet, and for appends that a page state stalls. -/
def State.retireWaits (s : State) (ctx : Nat) : Bool := s.worldMoves (s.ctxWid ctx) || ((s.unkey ctx).landRequests ctx).isNone

/-! Clearing a fault, installing -/

/-- Firmware clears the fault (R23, R383): the current request, or the binding's descriptor that nothing has read, and the tickets of the
faulted binding end, and nothing of its jobs is left. None while a page state stalls the queue. -/
def State.clearFault (s : State) (ctx : Nat) : Option State :=
  let closed : Access (State × Nat) :=
    if s.queueVa ctx = 0 then .ok (s, 0)
    else
      (s.queueArea ctx).bind fun (q, d) => match d with
        | some x => (s.endCurrent ctx q x 0 (s.cycle (homeDie ctx))).bind fun (s1, q1) => .ok (s1, q1.pending)
        | none => (s.serveUnserved ctx q).bind fun s1 => (s1.queueArea ctx).bind fun (q1, _) => .ok (s1, q1.pending)
  match closed with
  | .stall _ => none
  | .trap c a _ => some (s.faultWith ctx c a)
  | .ok (s1, n) =>
    let s2 := ((s1.endTickets ctx (0x100 + s.blkBits ctx 0 7 0)).dropChildren ctx).updExtra ctx fun x =>
      { x with parked := [], failed := [], wanted := false, record := none }
    some (if n = 0 then s2.setCtxState ctx stIdle else s2.enterWait ctx stQueued)

/-- The flush of the slot's identifier has not completed, or pages its retirement freed are still in SCRUB (R23, R319). -/
def State.installWaits (s : State) (ctx : Nat) : Bool :=
  allDies.any (s.roundOf · ctx) || (s.extra ctx).scrubbing.any fun p => ownState (s.ownerEntry p.1 p.2) = ownScrub

/-- A new block stands in the slot: what firmware wrote, every dispatcher-owned field zero, state idle (R23, R328). -/
def State.installBlock (s : State) (ctx : Nat) (w : BlockWrite) : State :=
  let s1 := ([0x68, 0x70, 0x78, 0x80, 0x88, 0x140] ++ (List.range 6).map fun k => 0x90 + 8 * k).foldl (fun (t : State) off => t.setBlk ctx off 0) s
  (((s1.setBlk ctx 0 (putBits (s1.blk ctx 0) 7 0 0)).setExtra ctx CtxExtra.none).putBlock ctx w).setCtxState ctx stIdle

/-! Commands -/

/-- Carry out an accepted write with the change of state it names; none while the change waits. -/
def State.carryWrite (s : State) (ctx : Nat) (w : BlockWrite) : Option State :=
  match s.newState ctx w with
  | none => some (s.putBlock ctx w)
  | some st =>
    if s.ctxState ctx = stRetired then (if s.installWaits ctx then none else some (s.installBlock ctx w))
    else if st = stRetired then (if s.retireWaits ctx then none else some ((s.putBlock ctx w).retireCtx ctx))
    else (s.putBlock ctx w).clearFault ctx

/-- A write command: refused with its reason, carried out, or waiting. -/
def State.writeBlock (s : State) (command : String) (ctx : Nat) (w : BlockWrite) : Ran :=
  match s.writeReason ctx w with
  | some r => .done (s.respond command r [])
  | none => match s.carryWrite ctx w with
    | some s1 => .done (s1.respond command 0 [])
    | none => .wait s

/-- What is left of a write whose submission is refused: `CTERMS0`, `CTERMS1` and CONTRACT stay as they are (R340). -/
def State.withoutTerms (s : State) (ctx : Nat) (w : BlockWrite) : BlockWrite :=
  (w.filter fun p => p.1 ≠ 0x58 && p.1 ≠ 0x60).map fun p => if p.1 = 0 then (0, putBits p.2 57 57 (s.blkBits ctx 0 57 57)) else p

/-- A write of other fields beside a submission (R332, R340): a refused submission leaves the terms and ADMIT, and answers its reason;
the other fields take effect. -/
def State.writeFields (s : State) (command : String) (ctx : Nat) (w : BlockWrite) : Ran :=
  match s.writeReason ctx w with
  | some r =>
    if 1 ≤ r && r ≤ 4 then
      (match s.carryWrite ctx (s.withoutTerms ctx w) with
        | some s1 => .done (s1.respond command r [])
        | none => .wait s)
    else .done (s.respond command r [])
  | none => s.writeBlock command ctx w

/-- The words of a run of bytes from byte offset `off` on. -/
def blockWords (off : Nat) (bs : List Byte) : BlockWrite := (List.range (bs.length / 8)).map fun k => (off + 8 * k, fieldNat bs (8 * k) 8)

/-- Firmware writes words of a block. Input: `ctx`, `index` (byte offset), `data`. -/
def execControlBlockWrite (s : State) : Result :=
  runCommand .controlBlockWrite s fun x =>
    if x.ctx ≥ 8192 || x.index % 8 ≠ 0 || x.data.length % 8 ≠ 0 || x.index + x.data.length > 512 then .done (s.refuse "CONTROL_BLOCK_WRITE")
    else s.writeFields "CONTROL_BLOCK_WRITE" x.ctx (blockWords x.index x.data)

/-- Input: `ctx`. -/
def execControlBlockRead (s : State) : Result := runAtOnce .controlBlockRead s fun x => s.respond "CONTROL_BLOCK_READ" 0 (s.blkBytes x.ctx 0 512)

/-- Firmware submits a contract (R340). Input: `ctx`, `data` (CTERMS0 and CTERMS1). -/
def execContractSubmission (s : State) : Result :=
  runCommand .contractSubmission s fun x =>
    if x.ctx ≥ 8192 then .done (s.refuse "CONTRACT_SUBMISSION")
    else
      s.writeBlock "CONTRACT_SUBMISSION" x.ctx
        [(0, putBits (s.blk x.ctx 0) 57 57 1), (0x58, fieldNat x.data 0 8), (0x60, fieldNat x.data 8 8)]

/-- Firmware withdraws a contract (R340). Input: `ctx`. -/
def execContractWithdrawal (s : State) : Result :=
  runCommand .contractWithdrawal s fun x =>
    if x.ctx ≥ 8192 then .done (s.refuse "CONTRACT_WITHDRAWAL")
    else s.writeBlock "CONTRACT_WITHDRAWAL" x.ctx [(0, putBits (s.blk x.ctx 0) 57 57 0)]

/-- Firmware retires a micro-context (R23). Input: `ctx`. -/
def execMicroContextRetire (s : State) : Result :=
  runCommand .microContextRetire s fun x =>
    if x.ctx ≥ 8192 || !s.mayChange x.ctx stRetired then .done (s.respond "MICRO_CONTEXT_RETIRE" 0x07 [])
    else if s.retireWaits x.ctx then .wait (s.unkey x.ctx)
    else .done ((s.retireCtx x.ctx).respond "MICRO_CONTEXT_RETIRE" 0 [])

/-- Firmware clears a fault (R23). Input: `ctx`. -/
def execFaultClear (s : State) : Result :=
  runCommand .faultClear s fun x =>
    if x.ctx ≥ 8192 || s.ctxState x.ctx ≠ stFaulted || s.isBound x.ctx then .done (s.respond "FAULT_CLEAR" 0x07 [])
    else match s.clearFault x.ctx with
      | some s1 => .done (s1.respond "FAULT_CLEAR" 0 [])
      | none => .wait s

/-- The records of an image's `.ring` directives: bits 2:0 the ring, 10:3 BASE, 15:11 SIZEM1 (log entry 24). -/
def ringPresetOf (x : Nat) : RingPreset := ⟨bits x 2 0, bits x 10 3, bits x 15 11⟩

/-- The records of an image's `.bobbin` directives, 136 bytes each: bobbin, type, six zero bytes, the pattern record (log entry 24). -/
def bobbinPresetsOf (bs : List Byte) : List BobbinPreset :=
  (List.range (bs.length / 136)).map fun k =>
    let b := (bs.drop (136 * k)).take 136
    ⟨fieldNat b 0 1 % 8, fieldNat b 1 1 % 32, b.drop 8⟩

/-- A block that now stands in its slot comes with what its image's directives recorded. -/
def State.withPresets (s : State) (x : Input) : State :=
  if s.ctxState x.ctx = stRetired then s
  else s.updExtra x.ctx fun y => { y with ringPresets := x.nats.map ringPresetOf, bobbinPresets := bobbinPresetsOf x.extra }

/-- Firmware installs a whole block in a retired slot (R23). Input: `ctx`, `data` (512 bytes); `nats` and `extra`, what the image's
`.ring` and `.bobbin` directives recorded. -/
def execControlBlockInstall (s : State) : Result :=
  runCommand .controlBlockInstall s fun x =>
    let w := (blockWords 0 x.data).map fun p => if p.1 = 0 then (0, putBits p.2 63 61 stIdle) else p
    if x.ctx ≥ 8192 || x.data.length ≠ 512 then .done (s.refuse "CONTROL_BLOCK_INSTALL")
    else if s.ctxState x.ctx ≠ stRetired then .done (s.respond "CONTROL_BLOCK_INSTALL" 0x07 [])
    else (s.writeFields "CONTROL_BLOCK_INSTALL" x.ctx w).map (·.withPresets x)

/-- Firmware pre-empts a bound group (R36). Input: `ctx`. -/
def execPreemptCommand (s : State) : Result :=
  runAtOnce .preemptCommand s fun x =>
    if s.ctxState x.ctx = stBound then (s.preemptGroup x.ctx).respond "PREEMPT_COMMAND" 0 [] else s.respond "PREEMPT_COMMAND" 0x07 []

/-- A dispatcher parameter set (R336): none where the value lies outside its range. -/
def Die.setParameter (d : Die) (k v : Nat) : Option Die :=
  match k with
  | 0 => if v ≤ 900 then some { d with ubound := v } else none
  | 1 => if v ≤ 8192 then some { d with bcap := v } else none
  | 2 => if 1 ≤ v && v ≤ 2 ^ 24 then some { d with starve := v } else none
  | 3 => if 4096 ≤ v && v ≤ 2 ^ 24 then some { d with quant := v } else none
  | _ => none

/-- Input: `die`, `index` (0 UBOUND, 1 BCAP, 2 STARVE, 3 QUANT), `value`. -/
def execDispatcherParameterWrite (s : State) : Result :=
  runAtOnce .dispatcherParameterWrite s fun x =>
    s.answerReason "DISPATCHER_PARAMETER_WRITE" (match (s.die x.die).setParameter x.index x.value with
      | some d => .ok (s.setDie x.die d)
      | none => .error 0x01)

end Sys2Proof.Machine
end

