-- ==== Sys2Proof/Machine/Request.lean ====
section
/-!
DEFINITION. Request messages on their way to a queue (R31, R32, R374 to R377) and the replay of a record (R434).
-/
namespace Sys2Proof.Machine

/-! Messages (R374 to R377) -/

/-- The micro-context a context key names, where it is live (R32). -/
def State.keyed (s : State) (key : Nat) : Option Nat :=
  match Sparse.get none s.hub.keys key with
  | some c => if s.ctxState c = stRetired then none else some c
  | none => none

/-- The header's own fields break R376 (the first row of R377). -/
def headerMalformed (m : List Byte) : Bool :=
  let f (off n : Nat) : Nat := fieldNat m off n
  m.length < 64 || f 0 2 ≠ 1 || f 2 2 < 64 || f 2 2 > m.length || f 4 4 > 1 || f 0x39 7 ≠ 0 || f 0x18 4 = 0 || f 0x18 4 > 1048576

/-- The stop-string set breaks R371 or R376 (the third row). -/
def stopsMalformed (m : List Byte) : Bool :=
  let n := fieldNat m 0x38 1
  n > 8 || fieldNat m 2 2 ≠ 64 + 40 * n || (List.range n).any fun i =>
    let o := 0x40 + 40 * i
    let k := fieldNat m o 1
    k = 0 || k > 32 || fieldNat m (o + 1) 7 ≠ 0 || ((m.drop (o + 8 + k)).take (32 - k)).any (· ≠ 0)

/-- TAG of a message; of one too short to hold it, free. -/
def State.messageTag (s : State) (m : List Byte) : Nat := if m.length < 0x38 then Config.freeNat s.tick 23 % 2 ^ 64 else fieldNat m 0x30 8

/-- Answer a message with an error. -/
def State.answerMessage (s : State) (conn : Conn) (m : List Byte) (status aux : Nat) : State :=
  s.sendChunk (some conn) (chunkBytes 1 status (s.messageTag m) 0 aux [])

/-- Classify a message: its errors in the order of R377, else it waits for a Hackle engine under the vocabulary bound here (R365). -/
def State.classify (s : State) (conn : Conn) (m : List Byte) : State :=
  if headerMalformed m then s.answerMessage conn m 0x05 0
  else
    match s.keyed (fieldNat m 8 16) with
    | none => s.answerMessage conn m 0x03 0
    | some ctx =>
      if stopsMalformed m then s.answerMessage conn m 0x04 0x04
      else
        match s.vocabSlot ctx with
        | none => s.answerMessage conn m 0x04 0x01
        | some k =>
          let v := vocVersion (Sparse.get .empty s.hub.vocab k).image
          { s with hub := { s.hub with requests := s.hub.requests ++ [⟨ctx, some conn, m, k, v, .classified, []⟩] } }

/-- A message of an option that is not supported is dropped and counted (R374). -/
def State.drop (s : State) : State := { s with hub := { s.hub with dropped := s.hub.dropped + 1 } }

/-- The delivery mode of a message that arrives. -/
def deliveryOf (k : Nat) : Delivery :=
  match k with
  | 0 => .rod
  | 1 => .rud
  | 2 => .rudi
  | _ => .uud

/-- The options of a message that R374 supports: ROD or RUD, a send, at most 1,048,576 bytes, packets of at most 9,000, one of 65,536
connections. -/
def messageSupported (x : Input) (m : List Byte) : Bool :=
  (deliveryOf x.kind = .rod || deliveryOf x.kind = .rud) && x.value = 0 && m.length ≤ 1048576 && x.nats.all (· ≤ 9000) && x.index < 65536

/-- A message arrives whole, its packets acknowledged and sent again as needed (log entry 105): one that fails authentication, or uses an
option that is not supported, is dropped, any other is classified (R374). -/
def State.arrive (s : State) (conn : Conn) (x : Input) : State :=
  let plain := if x.flag then (match Sparse.get [] s.hub.transport x.slot with
    | [] => none
    | key => Config.openBytes key x.extra x.data) else some x.data
  match plain with
  | none => s.drop
  | some m => if messageSupported x m then s.classify conn m else s.drop

/-- A message arrives at an Ethernet port. Input: `port`, `index` (connection), `kind` (delivery: 0 ROD, 1 RUD, 2 RUDI, 3 UUD), `value` (0 a
send), `nats` (the lengths of its packets), `flag` (secured, under the key of domain `slot` with nonce `extra`), `data`. -/
def execRequestMessage (s : State) : Result :=
  runEvent s fun x => if x.port > 3 then s.drop else s.arrive (.ethernet (65536 * x.port + x.index)) x

/-- A host sends a message on virtio-net, exactly as on Ethernet (R396); the function has to be DRIVER_OK. Input: as of an Ethernet
message, but `port`. -/
def execVirtioNetMessage (s : State) : Result :=
  runEvent s fun x => if !bit (Sparse.get 0 s.hub.devStatus 0) 2 then s else s.arrive (.virtio x.index) x

/-- A Hackle engine has tokenised a request's text (R366); one of too many tokens is answered (R369). Input: `index`. -/
def execHackleTokenisation (s : State) : Result :=
  runEvent s fun x =>
    match s.hub.requests[x.index]? with
    | none => s
    | some r =>
      if r.stage ≠ .classified then s
      else
        let ts := s.tokensOf r
        if ts.length > 1048576 then (s.setRequest x.index none).answerRequest r 0x04 0x02
        else s.setRequest x.index (some { r with stage := .tokenised, tokens := ts })

/-- A tokenised request is appended once every earlier one of its micro-context has been (R31), or answered (R377). Input: `index`. -/
def execRequestAppend (s : State) : Result :=
  runEvent s fun x =>
    match s.hub.requests[x.index]? with
    | none => s
    | some r =>
      if r.stage ≠ .tokenised || (s.hub.requests.take x.index).any (fun y => y.ctx = r.ctx && !y.isAppended) then s
      else
        (s.appendRequest x.index r).getD s

/-- An open data chunk is 2,048 cycles old (R389). Input: `ctx`. -/
def execChunkTimeout (s : State) : Result :=
  runEvent s fun x =>
    match s.stream? x.ctx with
    | none => s
    | some r =>
      if r.chunk.isEmpty || s.cycle (homeDie x.ctx) < r.chunkAt + 2048 then s
      else
        let p := s.closeChunk r
        p.1.setStream p.2

/-! Replay (R434) -/

/-- A slot that holds a version. -/
def State.slotOf (s : State) (version : Nat) : Option Nat :=
  (List.range 8).find? fun k =>
    let v := Sparse.get .empty s.hub.vocab k
    v.state = 2 && vocVersion v.image = version

/-- The record firmware names, and its message. -/
def State.replayed (s : State) (ctx n : Nat) : Access (List Byte × List Byte) :=
  let a := s.replayVa ctx
  (s.ctxLoad ctx a 64).bind fun (h, _) =>
    let r := ReplayArea.ofBytes h
    (s.ctxLoad ctx (a + r.recordOff n) 256).bind fun (bs, _) =>
      let k := fieldNat bs 0x78 8
      let len := fieldNat bs 0x80 4
      let m := min len (2 ^ r.blog - k % 2 ^ r.blog)
      if len = 0 then .ok (bs, [])
      else
        (s.ctxLoad ctx (a + r.textOff k) m).bind fun (x, _) =>
          if len ≤ m then .ok (bs, x) else (s.ctxLoad ctx (a + r.textOff (k + m)) (len - m)).bind fun (y, _) => .ok (bs, x ++ y)

/-- A message with another seed in its header. -/
def withSeed (m : List Byte) (seed : List Byte) : List Byte := m.take 0x28 ++ seed ++ m.drop 0x30

/-- Replay a record into a target (R434): the ticket of a dispatch. None while a page state stalls the queue. -/
def State.replay (s : State) (bs msg : List Byte) (target : Nat) : Option (Except Nat (State × List Byte)) :=
  let kind := fieldNat bs 4 4
  let version := fieldNat bs 0x70 8
  if s.meas target ≠ (bs.drop 0x10).take 48 then some (.error 0x01)
  else if s.cfghStalls target then none
  else if s.cfgh target ≠ (bs.drop 0x40).take 48 then some (.error 0x02)
  else
    match s.slotOf version, (kind = 1 && version = 0 : Bool) with
    | none, false => some (.error 0x03)
    | k, _ =>
      if s.ctxState target ≠ stIdle then some (.error 0x04)
      else if kind = 1 then
        let values := (List.range 6).map fun i => BitVec.ofNat 64 (fieldNat bs (0x88 + 8 * i) 8)
        match s.appendDispatch target values (fieldNat bs 8 8) version with
        | .ok (s1, t) => some (.ok (s1, leBytes 8 t))
        | .stall => none
        | .full => some (.error 0x05)
        | .bad => some (.error (6 + Config.freeNat s.tick 20 % 250))
      else
        let m := withSeed msg ((bs.drop 8).take 8)
        some (.ok ({ s with hub := { s.hub with requests := s.hub.requests ++ [⟨target, none, m, k.getD 0, version, .classified, []⟩] } }, []))

/-- Firmware replays a record. Input: `ctx` (whose replay area holds it), `index` (its number), `dest` (the target). -/
def execReplayCommand (s : State) : Result :=
  runCommand .replayCommand s fun x =>
    match s.replayed x.ctx x.index with
    | .stall _ => .wait s
    | .trap _ _ _ => .done (s.refuse "REPLAY_COMMAND")
    | .ok (bs, msg) =>
      match s.replay bs msg x.dest with
      | none => .wait s
      | some (.error c) => .done (s.respond "REPLAY_COMMAND" c [])
      | some (.ok (s1, d)) => .done (s1.respond "REPLAY_COMMAND" 0 d)

end Sys2Proof.Machine
end

