-- ==== Sys2Proof/Machine/Firmware.lean ====
section
/-!
DEFINITION. The rest of firmware's commands: vocabulary slots (R359, R364, R365), context and transport keys (R374, R375), the fabric
group table (R392), Vudric Link run lengths (R394), the counters of a micro-context (R416); and the flits, hot resets and device
status of the ports (R393 to R397).
-/
namespace Sys2Proof.Machine

/-! Vocabulary slots -/

def State.vocabAt (s : State) (k : Nat) : VocabSlot := Sparse.get .empty s.hub.vocab k
def State.setVocab (s : State) (k : Nat) (v : VocabSlot) : State := { s with hub := { s.hub with vocab := Sparse.set .empty s.hub.vocab k v } }

/-- USERS of a slot (R359). -/
def State.vocabUsers (s : State) (k : Nat) : Nat :=
  (s.blocks.filter fun b => bit (s.blk b.1 0x50) 46 && s.blkBits b.1 0x50 45 43 = k).length
    + (s.hub.requests.filter fun r => r.stage = .classified && r.slot = k).length
    + (s.hub.streams.filter fun r => r.slot = some k).length

/-- Firmware loads an image (R364): the command ends with the copy and the checks. Input: `slot`, `va` (its physical address), `len`. -/
def execVocabularyLoad (s : State) : Result :=
  runCommand .vocabularyLoad s fun x =>
    if x.slot ≥ 8 then .done (s.refuse "VOCABULARY_LOAD")
    else if (s.vocabAt x.slot).loader = some ⟨.vocabularyLoad, x⟩ then .wait s
    else if (s.vocabAt x.slot).state ≠ 0 then .done (s.respond "VOCABULARY_LOAD" 0x01 [])
    else .wait (s.setVocab x.slot ⟨1, x.va, x.len, [], some ⟨.vocabularyLoad, x⟩⟩)

/-- The hub has copied and checked the image of a slot that loads: firmware's command is answered (R364). Input: `slot`. -/
def execVocabularyLoadEnd (s : State) : Result :=
  runEvent s fun x =>
    let v := s.vocabAt x.slot
    if v.state ≠ 1 then s
    else
      let img := s.readPa v.source (min v.length (2 ^ 24))
      let c := v.loader.getD ⟨.vocabularyLoad, x⟩
      match vocCheck img v.length with
      | some r => ((s.setVocab x.slot .empty).respondTo c.input "VOCABULARY_LOAD" r []).ringDone c
      | none => ((s.setVocab x.slot { v with state := 2, image := img, loader := none }).respondTo c.input "VOCABULARY_LOAD" 0 []).ringDone c

/-- Firmware unloads a slot (R365): an accepted command takes it to STATE 3, and, as it is run from its ring again, to empty. Input:
`slot`. -/
def execVocabularyUnload (s : State) : Result :=
  runCommand .vocabularyUnload s fun x =>
    let v := s.vocabAt x.slot
    if v.state = 3 && v.loader = some ⟨.vocabularyUnload, x⟩ then .done ((s.setVocab x.slot .empty).respond "VOCABULARY_UNLOAD" 0 [])
    else if v.state ≠ 2 then .done (s.respond "VOCABULARY_UNLOAD" 0x08 [])
    else if s.vocabUsers x.slot ≠ 0 then .done (s.respond "VOCABULARY_UNLOAD" 0x07 [])
    else .wait (s.setVocab x.slot { v with state := 3, image := [], loader := some ⟨.vocabularyUnload, x⟩ })

/-- Firmware reads VSTAT (R359). Input: `slot`. -/
def execVstatRead (s : State) : Result :=
  runAtOnce .vstatRead s fun x => s.respond "VSTAT_READ" 0 (leBytes 8 (packBits [(2, (s.vocabAt x.slot).state), (14, 0), (20, s.vocabUsers x.slot)]))

/-! Keys, groups, counters -/

/-- Firmware maps a context key to a micro-context, or removes it where `flag` is set (R375). Input: `data` (16 bytes), `ctx`, `flag`. -/
def execContextKeyInstall (s : State) : Result :=
  runAtOnce .contextKeyInstall s fun x =>
    let k := leNat (x.data.take 16)
    let known := (Sparse.get none s.hub.keys k).isSome
    s.answer "CONTEXT_KEY_INSTALL" (if x.data.length ≠ 16 || x.ctx ≥ 8192 || (!x.flag && !known && s.hub.keys.length ≥ 65536) then none
      else some { s with hub := { s.hub with keys := Sparse.set none s.hub.keys k (if x.flag then none else some x.ctx) } })

/-- Firmware installs the key of a security domain (R374). Input: `slot`, `data` (32 bytes). -/
def execTransportKeyInstall (s : State) : Result :=
  runAtOnce .transportKeyInstall s fun x =>
    s.answer "TRANSPORT_KEY_INSTALL" (if x.data.length = 32 then
      some { s with hub := { s.hub with transport := Sparse.set [] s.hub.transport x.slot x.data } } else none)

/-- Firmware writes an entry of the fabric group table, and its list in hub memory (R392). Input: `index`, `va` (where the list lies in hub
memory), `nats` (its members in order). -/
def execFabricGroupWrite (s : State) : Result :=
  runAtOnce .fabricGroupWrite s fun x =>
    s.answer "FABRIC_GROUP_WRITE" (if x.index < 1024 && x.nats.length ≤ 1024 && x.nats.all (· < 65536) then
      some { s with hub := { s.hub with
        groups := Sparse.set .empty s.hub.groups x.index ⟨x.nats.length, x.va⟩
        memory := Sparse.blit 0#8 s.hub.memory x.va (x.nats.flatMap (leBytes 2)) } } else none)

def State.linkPort (s : State) (k : Nat) : LinkPort := Sparse.get .reset s.hub.ports k
def State.setLinkPort (s : State) (k : Nat) (p : LinkPort) : State := { s with hub := { s.hub with ports := Sparse.set .reset s.hub.ports k p } }

/-- Firmware sets a port's run length (R394). Input: `port`, `value`. -/
def execRunLengthSet (s : State) : Result :=
  runAtOnce .runLengthSet s fun x =>
    s.answer "RUN_LENGTH_SET" (if x.port < 32 && 1 ≤ x.value && x.value ≤ 64 then
      some (s.setLinkPort x.port { s.linkPort x.port with runLength := x.value }) else none)

/-- Firmware reads a counter of a micro-context (R416). Input: `ctx`, `die` (of a slice counter), `index`. -/
def execCounterRead (s : State) : Result :=
  runAtOnce .counterRead s fun x =>
    match s.counter x.die x.ctx x.index with
    | some v => s.respond "COUNTER_READ" 0 (leBytes 8 v)
    | none => s.refuse "COUNTER_READ"

/-! Vudric Link (R393 to R395) -/

/-- The devices of the fabric a command reads or writes. -/
def fabricDevices (c : CCommand) : List Nat :=
  match c.instr with
  | .fget _ => [bits c.sa.toNat 61 52]
  | .fput _ => [bits c.sd.toNat 61 52]
  | .cgsum _ => c.members
  | .fsum _ => c.members
  | _ => []

/-- The job's running command has an access that a port carries. -/
def Job.waitsOnPort (j : Job) (port : Nat) : Bool :=
  j.ccmd.any fun c => c.started && !c.held &&
    (fabricDevices c).any fun d => d ≠ Config.deviceNumber && Config.linkRoute d = port

/-- The accesses that wait on a port that has gone down end with cause 0x17 (R394). -/
def State.endPortAccesses (s : State) (addr port : Nat) : State :=
  allCores.foldl (fun (t : State) n => if (t.job? n).any (·.waitsOnPort port) then t.cTrap n (trap 0x17 addr 0x20) else t) s

/-- A port goes down (R394, R428). -/
def State.portDown (s : State) (port : Nat) : State :=
  let p := s.linkPort port
  let s1 := s.setLinkPort port { LinkPort.reset with runLength := p.runLength, expected := p.expected, up := false, nextSeq := p.nextSeq }
  let s2 := { s1 with platform := { s1.platform with resets := s1.platform.resets ++ [(⟨0x20, port⟩ : Partition)] } }
  s2.endPortAccesses (Config.freeNat s.tick 24 % 2 ^ 64) port

/-- The virtual channel of a flit, and its 224 payload bytes (R393). -/
def flitChannel (flit : List Byte) : Nat := bits (fieldNat flit 0 8) 32 31
def flitPayload (flit : List Byte) : List Byte := (flit.drop 8).take 224

/-- A flit's CRC-64 (R393): which polynomial is not stated. -/
def flitCrcHolds (flit : List Byte) : Bool := Config.crc64 (flit.take 248) = flit.drop 248

/-- A flit is laid out as R393 says, at place `pos` of its run; one that is not is sent again like one with a CRC error (log entry
104). -/
def flitLegal (pos : Nat) (flit : List Byte) : Bool :=
  let h := fieldNat flit 0 8
  bits h 29 24 = pos && bits h 35 33 = 0 && bits h 63 40 = 0 && (bit h 30 || ((flit.drop 232).take 16).all (· = 0))

/-- What a run's tag covers: the headers and payloads of its flits (R394). -/
def runCovered (run : List (List Byte)) : List Byte := run.flatMap (·.take 232)

/-- The tag in the last flit of a run verifies. -/
def runHolds (port : Nat) (run : List (List Byte)) (flit : List Byte) : Bool :=
  leBytes 16 (Config.linkTag port (runCovered (run ++ [flit]))).toNat = (flit.drop 232).take 16

/-- Flits a virtual channel's buffer holds. -/
def LinkPort.level (p : LinkPort) (vc : Nat) : Nat :=
  (Sparse.get [] p.delivered vc).length + (p.run.filter (flitChannel · = vc)).length

/-- A virtual channel is paused as its buffer passes the high mark and released at the low mark (R395). -/
def LinkPort.flow (p : LinkPort) : LinkPort :=
  { p with paused := (List.range 4).filter fun vc => p.level vc > Config.linkHigh || (p.paused.contains vc && p.level vc > Config.linkLow) }

/-- A verified run is delivered. -/
def LinkPort.deliver (p : LinkPort) (run : List (List Byte)) : LinkPort :=
  { p with delivered := run.foldl (fun d f => Sparse.set [] d (flitChannel f) (Sparse.get [] d (flitChannel f) ++ [flitPayload f])) p.delivered }

/-- A flit arrives (R394): one with a CRC error is sent again; the last of a run checks the run's tag, whose failure discards the run; no
flit of a run is delivered before. -/
def State.receiveFlit (s : State) (port : Nat) (flit : List Byte) : State :=
  let p := s.linkPort port
  let h := fieldNat flit 0 8
  if flit.length ≠ 256 || !flitCrcHolds flit || bits h 23 0 ≠ p.expected || !flitLegal p.run.length flit then s
  else if !bit h 30 then s.setLinkPort port { p with expected := (p.expected + 1) % 2 ^ 24, run := p.run ++ [flit] }.flow
  else if runHolds port p.run flit then
    s.setLinkPort port ({ p with expected := (p.expected + 1) % 2 ^ 24, run := [], failures := 0 }.deliver (p.run ++ [flit])).flow
  else if p.failures + 1 ≥ 8 then s.portDown port
  else s.setLinkPort port { p with expected := (p.expected + 2 ^ 24 - p.run.length) % 2 ^ 24, run := [], failures := p.failures + 1 }.flow

/-- The port sends a flit: its header, its payload, in the last of a run the run's tag, its CRC (R393, R394). -/
def LinkPort.send (p : LinkPort) (port vc type : Nat) (payload : List Byte) : LinkPort :=
  let run := if p.sent.getLast?.any (fun f => !bit (fieldNat f 0 8) 30) then p.sent else []
  let last := p.runLength ≤ run.length + 1
  let body := leBytes 8 (packBits [(24, p.nextSeq), (6, run.length), (1, b2n last), (2, vc), (3, 0), (4, type), (24, 0)]) ++ padTo 224 payload
  let tag := if last then leBytes 16 (Config.linkTag port (runCovered (run ++ [body]))).toNat else List.replicate 16 0#8
  { p with
    sent := run ++ [body ++ tag ++ Config.crc64 (body ++ tag)], nextSeq := (p.nextSeq + 1) % 2 ^ 24
    stopping := Sparse.set none p.stopping vc ((Sparse.get none p.stopping vc).map (· - 1)) }

/-- What happens at a port of Vudric Link. Input: `port`, `kind`: 0, a flit arrives (`data`, 256 bytes); 1, the port sends a flit (`data`,
the payload; `slot`, the virtual channel; `unit`, the flit type), but not in a channel that has been paused; 2, the device takes `len`
payloads of channel `slot`; 3, the peer pauses channel `slot`, after which at most four flits follow, or with `flag` releases it
(R395). -/
def execVudricFlitReceive (s : State) : Result :=
  runEvent s fun x =>
    let p := s.linkPort x.port
    let vc := x.slot % 4
    if x.port ≥ 32 || !p.up then s
    else
      match x.kind with
      | 0 => s.receiveFlit x.port x.data
      | 1 => if Sparse.get none p.stopping vc = some 0 then s else s.setLinkPort x.port (p.send x.port vc (x.unit % 16) x.data)
      | 2 => s.setLinkPort x.port { p with delivered := Sparse.set [] p.delivered vc ((Sparse.get [] p.delivered vc).drop x.len) }.flow
      | 3 => s.setLinkPort x.port { p with stopping := Sparse.set none p.stopping vc (if x.flag then none else some (Config.freeNat s.tick 26 % 5)) }
      | _ => s

/-! The host port (R397) -/

/-- A virtio function of the host port: its device ID, the feature bits it offers, the entries of its largest queue (R396). -/
structure VirtioFunction where
  deviceId : Nat
  features : List Nat
  queueMax : Nat
deriving DecidableEq, Repr

/-- VIRTIO_F_VERSION_1, VIRTIO_F_ACCESS_PLATFORM and VIRTIO_F_RING_PACKED (R396; their bits are virtio's, log entry 106). -/
def virtioFeatures : List Nat := [32, 33, 34]

/-- virtio-net, virtio-vsock and virtio-console (R396). -/
def virtioFunctions : List VirtioFunction := [⟨1, virtioFeatures, 1024⟩, ⟨19, virtioFeatures, 1024⟩, ⟨3, virtioFeatures, 1024⟩]

/-- The device keeps FEATURES_OK where the driver accepts VERSION_1 and nothing that is not offered (log entry 106). -/
def virtioStatus (offered accepted : List Nat) (v : Nat) : Nat :=
  if bit v 3 && !(accepted.contains 32 && accepted.all offered.contains) then v % 256 - 8 else v % 256

/-- The host's driver writes the device status of a virtio function. Input: `index` (0 net, 1 vsock, 2 console), `value`, `nats` (the
feature bits the driver accepts). -/
def execVirtioDeviceStatus (s : State) : Result :=
  runEvent s fun x =>
    match virtioFunctions[x.index]? with
    | none => s
    | some f =>
      { s with hub := { s.hub with devStatus := Sparse.set 0 s.hub.devStatus x.index (virtioStatus f.features x.nats x.value) } }

end Sys2Proof.Machine
end

