-- ==== Sys2Proof/Machine/Platform.lean ====
section
/-!
DEFINITION. The start of the module (R419 to R423), resets (R397, R420, R435), throttling (R213), partitions in reset and blast sets
(R428 to R431).
-/
namespace Sys2Proof.Machine

/-! Resets -/

/-- The module after a reset: nothing but boot flash survives (R4, R420, R435). -/
def State.resetModule (s : State) : State :=
  let p := s.platform
  { s with
    clock := 0, resets := s.resets + 1, dies := [], hub := .reset, mem := [], blocks := [], extras := [], routines := []
    platform := { Platform.reset with record := p.record, recordB := p.recordB, flash := p.flash, trip := p.tripped } }

/-! The boot step record (R421) -/

/-- Write a record to the copy that is not current, with SEQ one greater. -/
def Platform.writeRecord (p : Platform) (trip : Bool) (status alt : Nat) : Platform :=
  let seq := (recordSeq p.current.1 + 1) % 2 ^ 32
  let r := bootRecord (b2n trip + 2 ^ 32 * seq) status alt
  if p.current.2 then { p with recordB := r } else { p with record := r }

/-- Record the status of a step, and whether it runs from its alternate image. -/
def Platform.recordStep (p : Platform) (n st : Nat) (alt : Bool) : Platform :=
  let q := p.writeRecord p.trip (putBits (p.word 1) (4 * n + 3) (4 * n) st) (putBits (p.word 2) n n (b2n alt))
  { q with bootSeq := recordSeq q.current.1 }

/-! Images (R419) -/

/-- The image of a step in boot flash. -/
def Platform.image (p : Platform) (n : Nat) (alt : Bool) : List Byte :=
  match Sparse.get [] p.flash (2 * n + b2n alt) with
  | [] => Config.bootImage n alt
  | bs => bs

/-- The image bytes after the header. -/
def imageBody (img : List Byte) : List Byte := (img.drop 128).take (fieldNat img 8 8)

/-- An image passes verification for a step. -/
def imageHolds (n : Nat) (img : List Byte) : Bool :=
  fieldNat img 0 4 = n && fieldNat img 4 4 ≥ Config.svnMinimum n && fieldNat img 0x70 16 = 0 && img.length = 128 + fieldNat img 8 8 &&
    Config.signatureHolds ((img.drop 0x10).take 96) (sha384 (img.take 16 ++ imageBody img))

/-! Boot steps (R420 to R422) -/

def stepOptional (n : Nat) : Bool := n = 4 || n = 6 || n = 7 || n = 8 || n = 9

/-- What the record found says of a step at a start: a step left started has failed. -/
def Platform.foundStatus (p : Platform) (n : Nat) : Nat :=
  if p.stepStatus n = 1 then (if p.stepAlt n then 6 else 3) else p.stepStatus n

/-- Treat the next step: skip it, enter recovery, or start it. -/
def Platform.treatStep (p : Platform) : Platform :=
  let n := p.step
  let st := p.foundStatus n
  if (st = 3 || st = 6) && stepOptional n then { p.recordStep n 4 (p.stepAlt n) with step := n + 1 }
  else if st = 4 then { p with step := n + 1 }
  else if st = 6 then { p with recovery := true }
  else { p.recordStep n 1 (p.stepAlt n || st = 3) with running := true }

/-- The work of a step that passes: with step 3 the compute dies begin to count (R4), and every frame and bank is SCRUB (R211, R420). -/
def State.stepWork (s : State) (n : Nat) : State :=
  if n = 3 then { s with clock := 0, dies := s.dies.map fun d => (d.1, { d.2 with owner := [], tags := [] }) } else s

/-- The step that runs ends: its work is done. A failure is recorded and resets the module. -/
def State.endStep (s : State) (passed : Bool) : State :=
  let p := s.platform
  let n := p.step
  let img := p.image n (p.stepAlt n)
  let ok := imageHolds n img
  let q := if ok then { p with fwm := sha384 (p.fwm ++ sha384 (imageBody img)) } else p
  if ok && passed then
    { s.stepWork n with
             platform := { q.recordStep n (if p.stepAlt n then 5 else 2) (p.stepAlt n) with step := n + 1, running := false } }
  else { s with platform := q.recordStep n (if p.stepAlt n then 6 else 3) (p.stepAlt n) }.resetModule

/-- The secure element's ROM runs, a step is skipped or started, or the step that runs ends. Input: `flag` (its work succeeds). -/
def execBootStep (s : State) : Result :=
  runEvent s fun x =>
    let p := s.platform
    if p.held || p.recovery || p.step > 9 then s
    else if p.step = 0 then { s with platform := { p with step := 1, fwm := List.replicate 48 0 } }
    else if p.running then s.endStep x.flag
    else { s with platform := p.treatStep }

/-- STATUS and ALT of a step are cleared (R422). -/
def Platform.clearStep (p : Platform) (n : Nat) : Platform :=
  p.writeRecord (bit (p.word 0) 0) (putBits (p.word 1) (4 * n + 3) (4 * n) 0) (putBits (p.word 2) n n 0)

/-- A signed image for the failed step arrives in recovery, on virtio-console, or on NVMe root port 0 where no host port works: the step
goes on from it (R422). Input: `data`. -/
def execRecoveryImage (s : State) : Result :=
  runEvent s fun x =>
    let p := s.platform
    if p.recovery && imageHolds p.step x.data then
      { s with platform := { p.clearStep p.step with flash := Sparse.set [] p.flash (2 * p.step) x.data, recovery := false } }
    else s

/-- Firmware clears a step's status, or installs an image for it (R422). Input: `index` (step), `flag` (an image), `kind` (1: the
alternate), `data`. -/
def execBootStepClear (s : State) : Result :=
  runAtOnce .bootStepClear s fun x =>
    let p := s.platform
    s.answer "BOOT_STEP_CLEAR" (if x.index = 0 || x.index > 9 then none
      else
        let q := p.clearStep x.index
        some { s with platform := if x.flag then { q with flash := Sparse.set [] q.flash (2 * x.index + x.kind % 2) x.data } else q })

/-- The module resets and the boot steps begin (R420); so does one that was held, or whose power comes back. -/
def execModuleReset (s : State) : Result := runEvent s fun _ => s.resetModule

/-- Module power is lost: every unit stops (R422). -/
def execPowerLoss (s : State) : Result :=
  runEvent s fun _ =>
    let s1 := s.resetModule
    { s1 with platform := { s1.platform with held := true, tripped := s.platform.held && s.platform.tripped } }

/-- A junction reaches 120 °C, or coolant flow is lost: every engine stops and the module is held in reset (R435). -/
def execThermalTrip (s : State) : Result :=
  runEvent s fun _ =>
    let p := s.platform
    let q := p.writeRecord true (p.word 1) (p.word 2)
    let s1 := { s with platform := q }.resetModule
    { s1 with platform := { s1.platform with held := true, tripped := true } }

/-- An upstream hot reset (R397): it resets the module where that serves a host, else every virtio function alone. -/
def execHotReset (s : State) : Result :=
  runEvent s fun _ => if Config.hosted then s.resetModule else { s with hub := { s.hub with devStatus := [] } }

/-! Heat (R213) -/

/-- A bank's sensor reads a temperature. Input: `core`, `index` (bank), `value` (degrees C). -/
def execBankThrottle (s : State) : Result :=
  runEvent s fun x =>
    s.updCore x.core fun c =>
      let hot := if x.value > 100 then (if c.hot.contains x.index then c.hot else c.hot ++ [x.index]) else c.hot.filter (· ≠ x.index)
      { c with
        hot := hot
        throttle := if x.value ≥ 112 then 2 else if x.value ≥ 105 then max 1 c.throttle else if hot.isEmpty then 0 else c.throttle }

/-! Blast sets (R430, R431) -/

/-- The sharer set of the segment a frame belongs to. -/
def State.sharersOf (s : State) (pa : Nat) : List Nat :=
  ((s.hub.shared.filter fun g => g.frames.contains (pa / frameBytes)).flatMap (·.sharers))

/-- The worlds of a frame: its owner, or the sharer set of a SHARED one, also while it moves. -/
def State.frameWorlds (s : State) (d i : Nat) : List Nat :=
  let e := s.ownerEntry d i
  if ownState e = ownFree || ownState e = ownScrub then []
  else if ownChecked e = ownShared then ownWid e :: s.sharersOf (framePa d i)
  else [ownWid e]

/-- The worlds of the frames of a die that a test picks. -/
def State.worldsOfFrames (s : State) (d : Nat) (pick : Nat → Bool) : List Nat :=
  (s.die d).owner.flatMap fun p => if pick p.1 then s.frameWorlds d p.1 else []

/-- Entry number `i` is a frame of HBM stack `k` (0 or 1 of the die). -/
def entryOfStack (k i : Nat) : Bool := 0x4000 + 1048576 * k ≤ i && i < 0x4000 + 1048576 * (k + 1)

/-- The blast set of a partition (R430). -/
def State.blastSet (s : State) (kind unit : Nat) : List Nat :=
  let liveWorlds (p : Nat → Bool) : List Nat :=
    ((s.blocks.map (·.1)).filter fun c => s.ctxState c ≠ stRetired && p c).map s.ctxWid
  match kind with
  | 0x02 =>
    let y := s.slice (unit / 32) (unit % 32)
    (y.lines.flatMap fun l => match l.attr with
      | some c => [s.ctxWid c]
      | none => s.sharersOf (64 * l.line)) ++ y.queues.flatMap fun q => q.reqs.map (·.wid)
  | 0x03 => s.worldsOfFrames (unit / 2048) fun i => i / 8 = unit % 2048
  | 0x04 => s.worldsOfFrames (unit / 64) fun i => entryOfStack (unit / 32 % 2) i && (i - 0x4000) % 32 = unit % 32
  | 0x05 =>
    let d := s.die unit
    (d.objects.filterMap fun o => match s.record o.1 with
      | .phaser p => some (s.ctxWid p.ctx)
      | _ => none) ++ d.waiters.flatMap fun w => w.2.filterMap fun y => (s.job? y.core).map (·.wid)
  | 0x06 => s.worldsOfFrames (unit / 2) (entryOfStack (unit % 2))
  | 0x07 => liveWorlds fun c => homeDie c = unit || (s.coresOf c).any fun n => n / 16 = unit
  | _ => []

/-- Deliver an error to a micro-context (R431): a bound one's jobs trap; the record of one that is not bound is written, and it is
delivered at the next binding: there a micro-context without a handler, or whose record cannot be written, is faulted (R23, R188). -/
def State.deliverError (s : State) (addr kind ctx : Nat) : State :=
  match s.coresOf ctx with
  | n :: r => (n :: r).foldl (fun (t : State) m => t.asyncTrap m 0x17 addr kind) s
  | [] =>
    let rec_ : TrapRecord := ⟨0x17, 0, 0, 0, 0, addr, kind⟩
    (s.putRecord ctx rec_).updExtra ctx fun x => { x with trapAll := x.trapAll ++ [rec_] }

/-- Deliver an error to the blast set. -/
def State.blast (s : State) (addr kind : Nat) (worlds : List Nat) : State :=
  ((s.blocks.map (·.1)).filter fun c => s.ctxState c ≠ stRetired && worlds.contains (s.ctxWid c)).foldl
    (fun (t : State) c => t.deliverError addr kind c) s

/-! What a reset does to its partition (R428, R429) -/

/-- The slices' requests of a core whose job has ended: they run, and nothing is returned (R290, R429). -/
def State.orphanRequests (s : State) (n : Nat) : State :=
  let free (r : SliceRequest) : SliceRequest := if r.core = n then { r with core := noCore } else r
  { s with dies := s.dies.map fun d => (d.1, { d.2 with slices := d.2.slices.map fun y =>
      (y.1, { y.2 with queues := y.2.queues.map fun q => { q with reqs := q.reqs.map free } }) }) }

/-- The phasers of a micro-context that a failed job had registered with are marked, and their waiters trap (R407). -/
def State.markPhasers (s : State) (ctx gidx : Nat) : State :=
  allDies.foldl (fun (t : State) d => (t.die d).objects.foldl (fun (t : State) o => match t.record o.1 with
    | .phaser p => if p.ctx = ctx && p.sig.testBit gidx then (t.putPhaser o.1 (t.markFailed p)).settle o.1 else t
    | _ => t) t) s

/-- An unrecoverable fault in a core ends its job: the micro-context is faulted and its partners are told (R429). -/
def State.coreFault (s : State) (n : Nat) : State :=
  let dead (t : State) : State := t.updCore n fun c => { Core.idle with alive := false, reserved := c.reserved }
  match s.job? n with
  | none => dead s
  | some j =>
    let s1 := (((s.cancelRequest n).abandonS n).abandonC n).orphanRequests n
    let s2 := (dead s1).updExtra j.ctx fun x => { x with failed := x.failed ++ [(j.gidx, n)] }
    let s3 := if s2.ctxState j.ctx = stFaulted then s2 else s2.faultCtx j.ctx 0x17
    s3.markPhasers j.ctx j.gidx

/-- A slice resets: lines that check clean are written back, and the line in error is discarded: its page keeps what it held. A held
line in error ends its requests with cause 0x17 (R291, R428). -/
def State.sliceFault (s : State) (unit addr : Nat) (bad : Option Nat) : State :=
  let d := unit / 32
  let i := unit % 32
  let y := s.slice d i
  let lost := y.lines.filter fun l => bad = some l.line && l.dirty
  let hit := (y.queues.filter fun q => bad = some q.line).flatMap (·.reqs)
  let s1 := lost.foldl (fun (t : State) l => t.writePa (64 * l.line) l.stale) s
  let s2 := s1.updSlice d i fun y =>
    { y with lines := [], rm := .idle, queues := (y.queues.filter fun q => bad ≠ some q.line).map fun q => { q with filled := false } }
  hit.foldl (fun (t : State) r => if r.nr then t else t.replyTrap d i r { trap 0x17 addr 0x02 with estat := remoteEstat r.core r.va }) s2

/-- The synchronisation engine drops its resident objects, whose records keep what was last written back; the words that wait there
start again. -/
def State.syncFault (s : State) (d : Nat) : State :=
  let os := (s.die d).objects
  let s1 := os.foldl (fun (t : State) o => t.writePa o.1 o.2) s
  let ws := (s1.die d).waiters.flatMap fun w => w.2
  let s2 := s1.updDie d fun x => { x with objects := [], waiters := [], captures := [] }
  ws.foldl (fun (t : State) w => match w.sel with
    | .c => t.updJob w.core fun j => { j with ccmd := j.ccmd.map fun c => { c with started := false } }
    | _ => t.updJob w.core fun j => match j.swait with
      | .object _ => { j with swait := .none }
      | _ => j) s2

/-- The frames of a bank enter the scrub path; a move from one has ended (R231). -/
def State.bankFault (s : State) (unit : Nat) : State :=
  let d := unit / 2048
  (List.range 8).foldl (fun (t : State) k => t.enterScrub d (unit % 2048 * 8 + k) none) (s.abortMoves d fun i => i / 8 = unit % 2048)

/-- An address lies in an HBM channel: 32 times its stack, plus the frame number modulo 32 (R428). -/
def inChannel (unit pa : Nat) : Bool :=
  (paTier pa = 1 || paTier pa = 2) && 2 * paDie pa + paTier pa - 1 = unit / 32 && paOff pa / frameBytes % 32 = unit % 32

/-- The words in error of an HBM channel hold what no rule states; a move from their frame has ended (R231). -/
def State.channelFault (s : State) (unit pa n : Nat) : State :=
  let s1 := s.abortMoves (unit / 64) fun i =>
    inChannel unit (framePa (unit / 64) i) && pa < framePa (unit / 64) i + frameBytes && framePa (unit / 64) i < pa + n
  s1.writePa pa ((List.range n).map fun i => if inChannel unit (pa + i) then Config.freeByte s.tick (pa + i) else s.byte (pa + i))

/-- The physical unit address of an error (R208, R309): that of the line, the bank or the word in error; what no rule states for the
other kinds. -/
def State.unitAddress (s : State) (x : Input) : Nat :=
  match x.kind with
  | 0x00 => x.va % 2 ^ 52
  | 0x02 => if x.flag then 64 * x.line % 2 ^ 52 else Config.freeNat s.tick 25 % 2 ^ 52
  | 0x03 => framePa (x.unit / 2048) (x.unit % 2048 * 8)
  | 0x04 => x.va % 2 ^ 52
  | _ => Config.freeNat s.tick 25 % 2 ^ 52

/-- An error in data that an engine of a core reads (R208): the stream whose word reads it traps, in handler mode the handler's. An error
of a trap-area write ends the trap entry (R188). -/
def State.readError (s : State) (n : Nat) (e : Engine) (addr kind va : Nat) : State :=
  match s.job? n with
  | none => s
  | some j =>
    let sel : Sel := if e = .s && j.hmode then .hs else .ofEngine e
    if e = .s && j.areaPending then s.recordFails n j
    else if e = .s && j.atHcall sel then s.hcallFails n j
    else s.engineTrap n sel .read { trap 0x17 addr kind with estat := j.sentRemote sel n va }

/-- A compute die resets: every job on it is parked with its group. -/
def State.dieFault (s : State) (d : Nat) : State :=
  let jobs := (List.range 16).filterMap fun c => (s.job? (16 * d + c)).map (·.ctx)
  (jobs.foldl (fun (t : State) c => t.preemptGroup c) s).updDie d fun x => { x with alive := false }

/-- An uncorrectable error (R208, R428 to R431). Input: `kind`, `unit` (core; 32 die + slice; 2,048 die + 128 vault + bank; 32 stack +
channel; die; stack; die; port), `flag` with `line` (a slice line in error), `va` with `len` (words in error of a channel), `nats` (cores
whose accesses wait on a port). Kind 0 is an error in data at the physical address `va` that engine `engine` of core `core` reads, in a
unit of kind `value`, by an access to the virtual address `dest`. -/
def execUncorrectableError (s : State) : Result :=
  runEvent s fun x =>
    let addr := s.unitAddress x
    let worlds := s.blastSet x.kind x.unit
    let s1 := { s with platform := { s.platform with resets := s.platform.resets ++ [(⟨x.kind, x.unit⟩ : Partition)] } }
    match x.kind with
    | 0x00 => s.readError x.core x.engine addr x.value x.dest
    | 0x01 => s1.coreFault x.unit
    | 0x02 => (s1.blast addr 0x02 worlds).sliceFault x.unit addr (if x.flag then some x.line else none)
    | 0x03 => (s1.blast addr 0x03 worlds).bankFault x.unit
    | 0x04 => (s1.blast addr 0x04 worlds).channelFault x.unit x.va x.len
    | 0x05 => (s1.blast addr 0x05 worlds).syncFault x.unit
    | 0x06 => s1.blast addr 0x06 worlds
    | 0x07 => (s1.blast addr 0x07 worlds).dieFault x.unit
    | 0x20 => s.portDown x.unit
    | _ => s

/-- A partition is back in service (R428). Input: `kind`, `unit`. -/
def execPartitionBackInService (s : State) : Result :=
  runEvent s fun x =>
    if !s.down x.kind x.unit then s
    else
      let s1 := { s with platform := { s.platform with resets := s.platform.resets.filter (· ≠ ⟨x.kind, x.unit⟩) } }
      match x.kind with
      | 0x01 => s1.updCore x.unit fun c => { c with alive := true }
      | 0x07 => s1.updDie x.unit fun d => { d with alive := true }
      | 0x20 => s1.setLinkPort x.unit { s1.linkPort x.unit with up := true }
      | _ => s1

end Sys2Proof.Machine
end

