-- ==== Sys2Proof/Machine/Service.lean ====
section
/-!
DEFINITION. The service cores' two instructions (R391).
-/
namespace Sys2Proof.Machine

def State.service (s : State) (n : Nat) : ServiceCore := Sparse.get .reset s.hub.services n
def State.setService (s : State) (n : Nat) (c : ServiceCore) : State :=
  { s with hub := { s.hub with services := Sparse.set .reset s.hub.services n c } }

/-- `x0` reads as zero and discards what is written. -/
def ServiceCore.rx (c : ServiceCore) (r : Nat) : Word := if r = 0 then 0 else Sparse.get 0 c.x r
def ServiceCore.wx (c : ServiceCore) (r : Nat) (v : Word) : ServiceCore := if r = 0 then c else { c with x := Sparse.set 0 c.x r v }

/-- The word has been executed. -/
def ServiceCore.retire (c : ServiceCore) : ServiceCore := { c with pc := (c.pc + 4) % 2 ^ 64 }

/-- A negative answer. -/
def minus (k : Nat) : Word := BitVec.ofNat 64 (2 ^ 64 - k)

/-- The illegal-instruction exception of RV64 (log entry 9). -/
def ServiceCore.illegal (c : ServiceCore) (word : Nat) : ServiceCore :=
  { c with mepc := c.pc, mcause := 2, mtval := word, pc := c.mtvec / 4 * 4 }

/-- Run a word on the service core whose turn it is. -/
def runService (s : State) (f : Nat → ServiceCore → State) : Result :=
  match s.turn with
  | .service n => .next (f n (s.service n))
  | _ => .next s

/-- Outstanding tickets of a die. -/
def State.ticketsFull (s : State) (ctx : Nat) : Bool := (s.die (homeDie ctx)).tickets.length ≥ 256

/-- `gj.dispatch`: the descriptor is appended and rd takes its ticket, or why there is none. -/
def execGjDispatch (d a b : BitVec 5) (s : State) : Result :=
  runService s fun n c =>
    let x := (c.rx a.toNat).toNat
    let answer (t : State) (v : Word) : State := t.setService n ((c.wx d.toNat v).retire)
    if x ≥ 8192 then s.setService n (c.illegal (Instr.gjDispatch d a b).bits)
    else if s.ctxState x = stRetired then answer s (minus 1)
    else
      match s.appendArea x 12 with
      | .stall => s
      | .bad => answer s (minus 4)
      | .full => answer s (minus 2)
      | .ok _ =>
        if s.ticketsFull x then answer s (minus 3)
        else
          match s.appendDispatch x ((List.range 6).map fun i => c.rx (10 + i)) (c.rx b.toNat).toNat (s.vocabVersion x) with
          | .stall => s
          | .bad => answer s (minus 4)
          | .full => answer s (minus 2)
          | .ok (s1, t) => answer s1 (BitVec.ofNat 64 t)

/-- The ticket of a number, and the die that holds it. -/
def State.ticket (s : State) (t : Nat) : Option (Nat × Ticket) :=
  s.dies.findSome? fun d => (d.2.tickets.find? (·.number = t)).map fun x => (d.1, x)

/-- A waiting join ends with a status. -/
def State.endJoin (s : State) (n : Nat) (d : Nat) (v : Word) : State :=
  let c := s.service n
  s.setService n (({ c with join := none }.wx d v).retire)

/-- `gj.join`: the status of a ticket whose binding has ended, which is freed; else the core waits. -/
def execGjJoin (d a b : BitVec 5) (s : State) : Result :=
  runService s fun n c =>
    let t := (c.rx a.toNat).toNat
    match s.ticket t with
    | none => s.endJoin n d.toNat (minus 1)
    | some (k, x) =>
      match x.status with
      | some v => (s.updDie k fun y => { y with tickets := y.tickets.filter (·.number ≠ t) }).endJoin n d.toNat (BitVec.ofNat 64 v)
      | none => s.setService n { c with join := some (d.toNat, t, if b.toNat = 0 then none else some (c.rx b.toNat).toNat) }

/-- The timeout of a waiting join passes: rd takes 1 and the ticket stays (R391). Input: `index` (service core). -/
def execGjJoinTimeout (s : State) : Result :=
  runEvent s fun x =>
    match (s.service x.index).join with
    | some (d, t, some _) =>
      if (s.ticket t).any (fun y => y.2.status.isNone) then s.endJoin x.index d 1 else s
    | _ => s

/-- An interrupt abandons a waiting join, which is executed again afterwards (R391). Input: `index`. -/
def execServiceCoreInterrupt (s : State) : Result :=
  runEvent s fun x => s.setService x.index { s.service x.index with join := none }

end Sys2Proof.Machine
end

