-- ==== Sys2Proof/Machine/Vector.lean ====
section
/-!
DEFINITION. The VR words: arithmetic, comparisons, conversions, masks, reductions, scans, ranking, random numbers and the
permute slot (R119 to R140).
-/
namespace Sys2Proof.Machine

/-- What a VR word produces. -/
structure VOut where
  /-- the pattern for VD -/
  v     : Option Nat := none
  /-- further registers written -/
  regs  : List (Nat × Nat) := []
  /-- the mask for KD -/
  k     : Option Nat := none
  /-- the scalar for SREG -/
  sc    : Option Nat := none
  flags : Nat := 0
  /-- destination elements of a rounding word (R78) -/
  draws : Nat := 0

/-- A VR word's rounding mode; the checks of R52 leave no other code. -/
def vrMode (f : VR) : Rnd := (Rnd.ofCode f.rnd.toNat).getD .rne

/-- The scalars a VR word names: SREG where an operand holds code 48 or the entry uses it. -/
def vrRegs (f : VR) (codes : List Nat) (sreg : Bool) : List Nat := if sreg || codes.contains 48 then [f.sreg.toNat] else []

/-- The bobbins of a word as the bits of ESTAT 23:16 (R185). -/
def bobbinEstat (srcs : List Nat) : Nat := srcs.foldl (fun a b => a + 2 ^ (16 + b)) 0

/-- Run a word that names vector operands: the bobbin test (R116, R117), its effect, its flags (R76), then its pops, its
writes and its push. `early` is a trap no operand value decides. -/
def runVector (i : Instr) (g : Guard) (regs : List Nat) (codes dsts : List Nat) (early : Option Trap) (s : State)
    (body : Nat → Job → VOut) (vd kd sreg : Nat) (m : Rnd) : Result :=
  runWord i g regs [] s fun n _ j =>
    let srcs := bobbinsOf codes
    match early, j.bobbinGate srcs (bobbinsOf dsts) with
    | some t, _ => .trap t s
    | none, .breach b => .trap (trap 0x10 0 (8 + b)) s
    | none, .wait => .wait
    | none, .ready =>
      let o := body n j
      let j1 := j.raise .v o.flags
      if j.fpTraps .v o.flags then .trap { trap 0x11 0 o.flags with estat := bobbinEstat srcs } (s.setJob n j1)
      else
        let j2 := srcs.foldl (·.popBobbin) j1
        let j3 := match o.v with
          | some x => j2.vdest vd x
          | none => j2
        let j4 := o.regs.foldl (fun j p => j.wv p.1 p.2) j3
        let j5 := match o.k with
          | some x => j4.wk kd x
          | none => j4
        let j6 := match o.sc with
          | some x => j5.ws sreg (BitVec.ofNat 64 x)
          | none => j5
        .done (s.setJob n (j6.drawnIf .v m o.draws)) 0

/-- A VR word with the operand fields `codes` and, where `vd` says so, the destination VD. -/
def runVR (i : Instr) (f : VR) (codes : List (BitVec 6)) (vd sreg : Bool) (early : Option Trap) (s : State)
    (body : Job → (Nat → Nat) → VOut) : Result :=
  let cs := codes.map (·.toNat)
  runVector i f.g (vrRegs f cs sreg) cs (if vd then [f.vd.toNat] else []) early s
    (fun _ j => body j (fun p => j.vsource f.ty.toNat f.sreg.toNat f.ctl.toNat (cs.getD p 0)))
    f.vd.toNat f.kd.toNat f.sreg.toNat (vrMode f)

/-- The draw of lane `e`, where the word rounds with `.sr`. -/
def vrDraw (f : VR) (j : Job) (e : Nat) : Nat := if vrMode f = .sr then j.draw .v e else 0

def vrMask (f : VR) (j : Job) : Nat := j.maskOf f.m.toNat f.k.toNat

/-- The old pattern of VD, where it names a register. -/
def vrOld (f : VR) (j : Job) : Nat := if f.vd.toNat < 32 then j.rv f.vd.toNat else 0

/-- Merge lanes into VD (R120). -/
def vrMerge (f : VR) (j : Job) (w n : Nat) (op : Nat → Rounded) : Nat × Nat :=
  mapLanes w n (vrMask f j) (vrOld f j) (f.vd.toNat < 32) op

/-- A word computed element by element (R120). -/
def runLanes (i : Instr) (f : VR) (codes : List (BitVec 6)) (op : Elem → Rounded) (s : State) : Result :=
  runVR i f codes true false none s fun j src =>
    let t := f.ty.toNat
    let w := tyWidth t
    let n := laneCount t
    let a := src 0
    let b := src 1
    let c := src 2
    let r := vrMerge f j w n fun e => op ⟨t, vrMode f, f.sat = 1, vrDraw f j e, e, lane w a e, lane w b e, lane w c e⟩
    { v := some r.1, flags := r.2, draws := n }

/-! Arithmetic (R126, R127) -/

def execVadd (f : VR) (s : State) : Result := runLanes (.vadd f) f [f.va, f.vb] Elem.add s
def execVsub (f : VR) (s : State) : Result := runLanes (.vsub f) f [f.va, f.vb] Elem.sub s
def execVmul (f : VR) (s : State) : Result := runLanes (.vmul f) f [f.va, f.vb] Elem.mul s
def execVfma (f : VR) (s : State) : Result := runLanes (.vfma f) f [f.va, f.vb, f.vc] Elem.fma s
def execVfms (f : VR) (s : State) : Result := runLanes (.vfms f) f [f.va, f.vb, f.vc] Elem.fms s
def execVfnma (f : VR) (s : State) : Result := runLanes (.vfnma f) f [f.va, f.vb, f.vc] Elem.fnma s
def execVdiv (f : VR) (s : State) : Result := runLanes (.vdiv f) f [f.va, f.vb] Elem.divide s
def execVsqrt (f : VR) (s : State) : Result := runLanes (.vsqrt f) f [f.va] (Elem.fn1 .sqrt) s
def execVrsqrt (f : VR) (s : State) : Result := runLanes (.vrsqrt f) f [f.va] (Elem.fn1 .rsqrt) s
def execVrcp (f : VR) (s : State) : Result := runLanes (.vrcp f) f [f.va] (Elem.fn1 .rcp) s
def execVexp2 (f : VR) (s : State) : Result := runLanes (.vexp2 f) f [f.va] (Elem.fn1 .exp2) s
def execVlog2 (f : VR) (s : State) : Result := runLanes (.vlog2 f) f [f.va] (Elem.fn1 .log2) s
def execVmin (f : VR) (s : State) : Result := runLanes (.vmin f) f [f.va, f.vb] (Elem.minMax false) s
def execVmax (f : VR) (s : State) : Result := runLanes (.vmax f) f [f.va, f.vb] (Elem.minMax true) s
def execVabs (f : VR) (s : State) : Result := runLanes (.vabs f) f [f.va] Elem.absolute s
def execVneg (f : VR) (s : State) : Result := runLanes (.vneg f) f [f.va] Elem.negate s
def execVand (f : VR) (s : State) : Result := runLanes (.vand f) f [f.va, f.vb] Elem.and s
def execVor (f : VR) (s : State) : Result := runLanes (.vor f) f [f.va, f.vb] Elem.or s
def execVxor (f : VR) (s : State) : Result := runLanes (.vxor f) f [f.va, f.vb] Elem.xor s
def execVnot (f : VR) (s : State) : Result := runLanes (.vnot f) f [f.va] Elem.not s
def execVshl (f : VR) (s : State) : Result := runLanes (.vshl f) f [f.va, f.vb] Elem.shl s
def execVshr (f : VR) (s : State) : Result := runLanes (.vshr f) f [f.va, f.vb] Elem.shr s
def execVmulh (f : VR) (s : State) : Result := runLanes (.vmulh f) f [f.va, f.vb] Elem.mulh s
def execVclz (f : VR) (s : State) : Result := runLanes (.vclz f) f [f.va] Elem.clz s
def execVpopc (f : VR) (s : State) : Result := runLanes (.vpopc f) f [f.va] Elem.popc s
def execVtanh (f : VR) (s : State) : Result := runLanes (.vtanh f) f [f.va] (Elem.fn1 .tanh) s
def execVerf (f : VR) (s : State) : Result := runLanes (.verf f) f [f.va] (Elem.fn1 .erf) s
def execVmov (f : VR) (s : State) : Result := runLanes (.vmov f) f [f.va] Elem.mov s
def execViota (f : VR) (s : State) : Result := runLanes (.viota f) f [f.va] Elem.iota s

/-! Comparisons and selection (R128 to R130) -/

/-- A comparison into KD; masked-off lanes and bits N to 511 become 0. -/
def runVCompare (i : Instr) (f : VR) (c : VCmp) (s : State) : Result :=
  runVR i f [f.va, f.vb] false false none s fun j src =>
    let t := f.ty.toNat
    let w := tyWidth t
    let a := src 0
    let b := src 1
    let m := vrMask f j
    let rs := (List.range (laneCount t)).map fun e =>
      if m.testBit e then cmpElem c ⟨t, .rne, false, 0, e, lane w a e, lane w b e, 0⟩ else (false, 0)
    { k := some (packLanes 1 (rs.map fun r => b2n r.1)), flags := rs.foldl (fun x r => x ||| r.2) 0 }

def execVcmpeq (f : VR) (s : State) : Result := runVCompare (.vcmpeq f) f .eq s
def execVcmpne (f : VR) (s : State) : Result := runVCompare (.vcmpne f) f .ne s
def execVcmplt (f : VR) (s : State) : Result := runVCompare (.vcmplt f) f .lt s
def execVcmple (f : VR) (s : State) : Result := runVCompare (.vcmple f) f .le s
def execVcmpun (f : VR) (s : State) : Result := runVCompare (.vcmpun f) f .un s
def execVclass (f : VR) (s : State) : Result := runLanes (.vclass f) f [f.va] Elem.classify s

/-- `vsel`: the mask chooses between two sources for every lane. -/
def execVsel (f : VR) (s : State) : Result :=
  runVR (.vsel f) f [f.va, f.vb] true false none s fun j src =>
    let w := tyWidth f.ty.toNat
    let a := src 0
    let b := src 1
    let m := j.rk f.k.toNat
    { v := some (packLanes w ((List.range (laneCount f.ty.toNat)).map fun e => if m.testBit e then lane w a e else lane w b e)) }

/-! Conversions (R131 to R133) -/

/-- Part of a conversion: CTL bits 1:0. -/
def vrPart (f : VR) : Nat := f.ctl.toNat % 4

def execVcvt (f : VR) (s : State) : Result :=
  let st := f.ty.toNat
  let dt := f.dty.toNat
  runVR (.vcvt f) f [f.va] true false (if (vrPart f) < cvtRatio st dt then none else some (wordTrap 0x03 0 (.vcvt f))) s fun j src =>
    let r := cvtAll st dt (vrMode f) (f.sat = 1) (vrPart f) (vrMask f j) (vrOld f j) (f.vd.toNat < 32) (vrDraw f j) (src 0)
    { v := some r.1, flags := r.2, draws := cvtLanes st dt }

/-- `vmxq` writes the block scales into the register VB and the elements into VD. -/
def execVmxq (f : VR) (s : State) : Result :=
  let st := f.ty.toNat
  let bad := f.vb.toNat ≥ 32 || (vrPart f) ≥ 512 / laneCount st
  runVR (.vmxq f) f [f.va] true false (if bad then some (wordTrap 0x03 0 (.vmxq f)) else none) s fun j src =>
    let same := f.vd = f.vb
    let r := mxQuantise st f.dty.toNat (vrMode f) (vrPart f) (vrDraw f j) (src 0) (vrOld f j) (j.rv f.vb.toNat) same
    { v := some r.1, regs := if same then [] else [(f.vb.toNat, r.2.1)], flags := r.2.2, draws := laneCount st }

/-- `vmxd`; a scalar in VB gives every scale byte. -/
def execVmxd (f : VR) (s : State) : Result :=
  let dt := f.dty.toNat
  let bad := (vrPart f) ≥ 512 / laneCount dt
  runVR (.vmxd f) f [f.va, f.vb] true false (if bad then some (wordTrap 0x03 0 (.vmxd f)) else none) s fun j src =>
    let b := if f.vb.toNat = 48 then j.vsource 8 f.sreg.toNat 0 48 else src 1
    let r := mxDequantise f.ty.toNat dt (vrMode f) (f.sat = 1) (vrPart f) (vrDraw f j) (src 0) b
    { v := some r.1, flags := r.2, draws := laneCount dt }

/-! Masks (R134) -/

/-- A mask word: `k[VA]` and `k[VB]` to `k[KD]`, all 512 bits. -/
def runMask (i : Instr) (f : VR) (regs : List Nat) (s : State) (out : Job → (a b : Nat) → VOut) : Result :=
  runVector i f.g regs [] [] none s (fun _ j => out j (j.rk (f.va.toNat % 8)) (j.rk (f.vb.toNat % 8))) 0 f.kd.toNat f.sreg.toNat .rne

def execKand (f : VR) (s : State) : Result := runMask (.kand f) f [] s fun _ a b => { k := some (a &&& b) }
def execKor (f : VR) (s : State) : Result := runMask (.kor f) f [] s fun _ a b => { k := some (a ||| b) }
def execKxor (f : VR) (s : State) : Result := runMask (.kxor f) f [] s fun _ a b => { k := some (a ^^^ b) }
def execKnot (f : VR) (s : State) : Result := runMask (.knot f) f [] s fun _ a _ => { k := some (2 ^ 512 - 1 - a) }
def execKmov (f : VR) (s : State) : Result := runMask (.kmov f) f [] s fun _ a _ => { k := some a }
def execKmovFromScalar (f : VR) (s : State) : Result :=
  runMask (.kmovFromScalar f) f [f.sreg.toNat] s fun j _ _ => { k := some (j.rs f.sreg.toNat).toNat }
def execKmovToScalar (f : VR) (s : State) : Result :=
  runMask (.kmovToScalar f) f [f.sreg.toNat] s fun _ a _ => { sc := some (a % 2 ^ 64) }
def execKpop (f : VR) (s : State) : Result :=
  runMask (.kpop f) f [f.sreg.toNat] s fun _ a _ => { sc := some (((List.range (laneCount f.ty.toNat)).filter a.testBit).length) }

/-! Reductions, scans, ranking and random numbers (R135 to R139) -/

/-- A reduction: its result in element 0, every other element 0. -/
def runReduce (i : Instr) (f : VR) (red : (mask v : Nat) → Rounded) (s : State) : Result :=
  runVR i f [f.va] true false none s fun j src =>
    let r := red (vrMask f j) (src 0)
    { v := some r.1, flags := r.2 }

def execVredsum (f : VR) (s : State) : Result := runReduce (.vredsum f) f (redSum f.ty.toNat (vrMode f) (f.sat = 1)) s
def execVredmax (f : VR) (s : State) : Result := runReduce (.vredmax f) f (redMinMax f.ty.toNat true) s
def execVredmin (f : VR) (s : State) : Result := runReduce (.vredmin f) f (redMinMax f.ty.toNat false) s

/-- A scan; masked-off elements keep their destination values. -/
def runScan (i : Instr) (f : VR) (scan : (ex : Bool) → (mask v : Nat) → List Nat × Nat) (s : State) : Result :=
  runVR i f [f.va] true false none s fun j src =>
    let r := scan (f.ctl.getLsbD 0) (vrMask f j) (src 0)
    let xs := r.1.toArray
    { v := some (vrMerge f j (tyWidth f.ty.toNat) (laneCount f.ty.toNat) fun e => (xs.getD e 0, 0)).1, flags := r.2 }

def execVscan (f : VR) (s : State) : Result := runScan (.vscan f) f (scanSum f.ty.toNat (vrMode f) (f.sat = 1)) s
def execVscanmax (f : VR) (s : State) : Result := runScan (.vscanmax f) f (scanMax f.ty.toNat) s

def execVtopk (f : VR) (s : State) : Result :=
  let t := f.ty.toNat
  let m := f.ctl.toNat % 1024
  let bad := m = 0 || m > laneCount t || (tyWidth t = 8 && m > 256) || f.vd.toNat > 30
  runVR (.vtopk f) f [f.va] true false (if bad then some (wordTrap 0x03 0 (.vtopk f)) else none) s fun j src =>
    let r := topk t (f.ctl.getLsbD 10) m (vrMask f j) (src 0)
    { v := some r.1, regs := [(f.vd.toNat + 1, r.2)] }

def execVargmax (f : VR) (s : State) : Result :=
  runVR (.vargmax f) f [f.va] false true none s fun j src =>
    { sc := some (argmax f.ty.toNat (f.ctl.getLsbD 0) (vrMask f j) (src 0)) }

def execVrng (f : VR) (s : State) : Result :=
  runVR (.vrng f) f [f.va] true true none s fun j src =>
    let key := (j.rs f.sreg.toNat).toNat
    let pos := src 0 % 2 ^ 128
    { v := some (vrMerge f j 32 128 fun e => (rngElem f.ty.toNat key pos e, 0)).1 }

/-! The permute slot (R140) -/

/-- A permute word: element `e` from the patterns of the sources, merged under the mask. -/
def runPermute (i : Instr) (f : VR) (codes : List (BitVec 6)) (pick : (w n a b c e : Nat) → Nat) (s : State) : Result :=
  runVR i f codes true false none s fun j src =>
    let w := tyWidth f.ty.toNat
    let n := laneCount f.ty.toNat
    let a := src 0
    let b := src 1
    let c := src 2
    { v := some (vrMerge f j w n fun e => (pick w n a b c e, 0)).1 }

def execVperm (f : VR) (s : State) : Result := runPermute (.vperm f) f [f.va, f.vb, f.vc] permElem s
def execVrot (f : VR) (s : State) : Result :=
  runPermute (.vrot f) f [f.va, f.vb] (fun w n a b _ e => rotElem w n a b e) s
def execVzip (f : VR) (s : State) : Result :=
  runPermute (.vzip f) f [f.va, f.vb] (fun w n a b _ e => zipElem w n a b (f.ctl.toNat % 2) e) s
def execVunzip (f : VR) (s : State) : Result :=
  runPermute (.vunzip f) f [f.va, f.vb] (fun w n a b _ e => unzipElem w n a b (f.ctl.toNat % 2) e) s
def execVtrn (f : VR) (s : State) : Result :=
  runPermute (.vtrn f) f [f.va, f.vb] (fun w _ a b _ e => trnElem w a b (f.ctl.toNat % 2) e) s

/-- `vcompress`: every element of VD is written. -/
def execVcompress (f : VR) (s : State) : Result :=
  runVR (.vcompress f) f [f.va] true true none s fun j src =>
    let r := compress (tyWidth f.ty.toNat) (laneCount f.ty.toNat) (j.rk f.k.toNat) (src 0)
    { v := some r.1, sc := some r.2 }
def execVexpand (f : VR) (s : State) : Result :=
  runVR (.vexpand f) f [f.va] true false none s fun j src =>
    let a := src 0
    let m := j.rk f.k.toNat
    { v := some (vrMerge f j (tyWidth f.ty.toNat) (laneCount f.ty.toNat) fun e => (expandElem (tyWidth f.ty.toNat) m a e, 0)).1 }
def execVrev (f : VR) (s : State) : Result :=
  runPermute (.vrev f) f [f.va] (fun w n a _ _ e => revElem w n a e) s

end Sys2Proof.Machine
end

