-- ==== Sys2Proof/Machine/VectorMove.lean ====
section
/-!
DEFINITION. The VS words: scratchpad and tile moves (R141 to R144); the repeat prefix and its repetitions (R122 to R125).
-/
namespace Sys2Proof.Machine

/-! Scratchpad moves (R141, R142) -/

/-- The bytes of an element of the word's type. -/
def vsSize (f : VS) : Nat := tyWidth f.ty.toNat / 8

/-- The code of the index operand of `vgld` and `vgst` (R142). -/
def gatherCode (f : VS) : Nat := f.top.toNat / 512

/-- The offset of element `e` for the form of move, modulo 2^64. -/
def vsOffset (i : Instr) (f : VS) (j : Job) (e : Nat) : Nat :=
  let base := (j.rs f.sbase.toNat + f.disp.signExtend 64).toNat
  let idx := (j.rs f.sidx.toNat).toNat
  let step : Nat := match i with
    | .vldx _ => e * idx
    | .vstx _ => e * idx
    | .vgld _ => lane (tyWidth f.ty.toNat) (j.vsource f.ty.toNat 0 0 (gatherCode f)) e * vsSize f
    | .vgst _ => lane (tyWidth f.ty.toNat) (j.vsource f.ty.toNat 0 0 (gatherCode f)) e * vsSize f
    | _ => idx + e * vsSize f
  (base + step) % 2 ^ 64

/-- The two checks of R141 over the enabled elements, alignment first. -/
def padCheck (i : Instr) (size : Nat) (offs : List Nat) : Option Trap :=
  let least (xs : List Nat) : Nat := xs.foldl min (xs.headD 0)
  match offs.filter (fun o => o % size ≠ 0) with
  | [] =>
    match offs.filter (fun o => !padFits o size) with
    | [] => none
    | xs => some (wordTrap 0x03 (least xs) i)
  | xs => some (trap 0x06 (least xs) 0)

/-- Enabled lanes of a move. -/
def vsLanes (f : VS) (j : Job) : List Nat :=
  let m := j.maskOf f.m.toNat f.k.toNat
  (List.range (laneCount f.ty.toNat)).filter m.testBit

/-- Put values in the enabled lanes of V's old pattern; a bobbin entry starts from zero (R120). -/
def vsMerge (f : VS) (j : Job) (ps : List (Nat × Nat)) : Nat :=
  putLanes (tyWidth f.ty.toNat) (if f.v.toNat < 32 then j.rv f.v.toNat else 0) ps

/-- A scratchpad move: `load` says which way; `codes` are its vector sources. -/
def runPadMove (i : Instr) (f : VS) (load : Bool) (codes : List Nat) (s : State) : Result :=
  runWord i f.g [f.sbase.toNat, f.sidx.toNat] [] s fun n _ j =>
    let srcs := bobbinsOf codes
    match j.bobbinGate srcs (if load then bobbinsOf [f.v.toNat] else []) with
    | .breach b => .trap (trap 0x10 0 (8 + b)) s
    | .wait => .wait
    | .ready =>
      let size := vsSize f
      let w := tyWidth f.ty.toNat
      let es := vsLanes f j
      let offs := es.map (vsOffset i f j)
      match padCheck i size offs with
      | some t => .trap { t with estat := bobbinEstat srcs } s
      | none =>
        if offs.any fun o => s.padStalls n o size then .wait
        else if load then
          let x := vsMerge f j ((es.zip offs).map fun p => (p.1, j.padNat p.2 size))
          .done (s.setJob n ((srcs.foldl (·.popBobbin) j).vdest f.v.toNat x)) 0
        else
          let v := j.vsource f.ty.toNat 0 0 f.v.toNat
          let j1 := (es.zip offs).foldl (fun j p => j.padWrite p.2 (leBytes size (lane w v p.1))) j
          .done (s.setJob n (srcs.foldl (·.popBobbin) j1)) 0

def execVld (f : VS) (s : State) : Result := runPadMove (.vld f) f true [] s
def execVst (f : VS) (s : State) : Result := runPadMove (.vst f) f false [f.v.toNat] s
def execVldx (f : VS) (s : State) : Result := runPadMove (.vldx f) f true [] s
def execVstx (f : VS) (s : State) : Result := runPadMove (.vstx f) f false [f.v.toNat] s
def execVgld (f : VS) (s : State) : Result := runPadMove (.vgld f) f true [gatherCode f] s
def execVgst (f : VS) (s : State) : Result := runPadMove (.vgst f) f false [gatherCode f, f.v.toNat] s

/-! Tile moves (R143, R144) -/

/-- A tile move: the lease, the index range, then the bobbin of V. -/
def runTileMove (i : Instr) (f : VS) (load : Bool) (s : State) : Result :=
  runWord i f.g (topRegs f.top) [] s fun n _ j =>
    let t := topTile f.top
    let w := tyWidth f.ty.toNat
    let d := topDir f.top
    let x := j.topIndex f.top
    let srcs := if load then [] else bobbinsOf [f.v.toNat]
    if j.tileLeased t then .trap (trap 0x04 0 t) s
    else if x + linesPerVector w d > lineCount w d then .trap (wordTrap 0x03 0 i) s
    else
      match j.bobbinGate srcs (if load then bobbinsOf [f.v.toNat] else []) with
      | .breach b => .trap (trap 0x10 0 (8 + b)) s
      | .wait => .wait
      | .ready =>
        if load then
          let v := tileLoad w (j.tile t) d x
          .done (s.setJob n (j.vdest f.v.toNat (vsMerge f j ((vsLanes f j).map fun e => (e, lane w v e))))) 0
        else
          let v := j.vsource f.ty.toNat 0 0 f.v.toNat
          let j1 := j.setTile t (tileStore w (j.tile t) d x (j.maskOf f.m.toNat f.k.toNat) v)
          .done (s.setJob n (srcs.foldl (·.popBobbin) j1)) 0

def execTld (f : VS) (s : State) : Result := runTileMove (.tld f) f true s
def execTst (f : VS) (s : State) : Result := runTileMove (.tst f) f false s
def execTzero (f : VS) (s : State) : Result :=
  runWord (.tzero f) f.g [] [] s fun n _ j =>
    let t := topTile f.top
    if j.tileLeased t then .trap (trap 0x04 0 t) s else .done (s.setJob n (j.setTile t 0)) 0

/-! The repeat prefix (R122 to R125) -/

/-- The meaning of a V word of format VR or VS; none for any other instruction. -/
def runRepeated : Instr → Option (State → Result)
  | .vadd f => some (execVadd f)
  | .vsub f => some (execVsub f)
  | .vmul f => some (execVmul f)
  | .vfma f => some (execVfma f)
  | .vfms f => some (execVfms f)
  | .vfnma f => some (execVfnma f)
  | .vdiv f => some (execVdiv f)
  | .vsqrt f => some (execVsqrt f)
  | .vrsqrt f => some (execVrsqrt f)
  | .vrcp f => some (execVrcp f)
  | .vexp2 f => some (execVexp2 f)
  | .vlog2 f => some (execVlog2 f)
  | .vmin f => some (execVmin f)
  | .vmax f => some (execVmax f)
  | .vabs f => some (execVabs f)
  | .vneg f => some (execVneg f)
  | .vand f => some (execVand f)
  | .vor f => some (execVor f)
  | .vxor f => some (execVxor f)
  | .vnot f => some (execVnot f)
  | .vshl f => some (execVshl f)
  | .vshr f => some (execVshr f)
  | .vmulh f => some (execVmulh f)
  | .vclz f => some (execVclz f)
  | .vpopc f => some (execVpopc f)
  | .vtanh f => some (execVtanh f)
  | .verf f => some (execVerf f)
  | .vmov f => some (execVmov f)
  | .viota f => some (execViota f)
  | .vcmpeq f => some (execVcmpeq f)
  | .vcmpne f => some (execVcmpne f)
  | .vcmplt f => some (execVcmplt f)
  | .vcmple f => some (execVcmple f)
  | .vcmpun f => some (execVcmpun f)
  | .vclass f => some (execVclass f)
  | .vsel f => some (execVsel f)
  | .vcvt f => some (execVcvt f)
  | .vmxq f => some (execVmxq f)
  | .vmxd f => some (execVmxd f)
  | .kand f => some (execKand f)
  | .kor f => some (execKor f)
  | .kxor f => some (execKxor f)
  | .knot f => some (execKnot f)
  | .kmov f => some (execKmov f)
  | .kmovFromScalar f => some (execKmovFromScalar f)
  | .kmovToScalar f => some (execKmovToScalar f)
  | .kpop f => some (execKpop f)
  | .vredsum f => some (execVredsum f)
  | .vredmax f => some (execVredmax f)
  | .vredmin f => some (execVredmin f)
  | .vscan f => some (execVscan f)
  | .vscanmax f => some (execVscanmax f)
  | .vtopk f => some (execVtopk f)
  | .vargmax f => some (execVargmax f)
  | .vrng f => some (execVrng f)
  | .vperm f => some (execVperm f)
  | .vrot f => some (execVrot f)
  | .vzip f => some (execVzip f)
  | .vunzip f => some (execVunzip f)
  | .vtrn f => some (execVtrn f)
  | .vcompress f => some (execVcompress f)
  | .vexpand f => some (execVexpand f)
  | .vrev f => some (execVrev f)
  | .vld f => some (execVld f)
  | .vst f => some (execVst f)
  | .vldx f => some (execVldx f)
  | .vstx f => some (execVstx f)
  | .tld f => some (execTld f)
  | .tst f => some (execTst f)
  | .vgld f => some (execVgld f)
  | .vgst f => some (execVgst f)
  | .tzero f => some (execTzero f)
  | _ => none

/-- The five steps of a prefix: DSTEP, ASTEP, BSTEP, CSTEP, TSTEP. -/
def repSteps (f : VP) : List Int := [f.dstep.toInt, f.astep.toInt, f.bstep.toInt, f.cstep.toInt, f.tstep.toInt]

/-- The fields of a VR word that an entry uses, by step: VD, VA, VB, VC. -/
def vrUsed (i : Instr) : List Bool :=
  let vd := match i with
    | .vcmpeq _ | .vcmpne _ | .vcmplt _ | .vcmple _ | .vcmpun _ | .vargmax _ | .kand _ | .kor _ | .kxor _ | .knot _ | .kmov _
    | .kmovFromScalar _ | .kmovToScalar _ | .kpop _ => false
    | _ => true
  let vb := match i with
    | .vadd _ | .vsub _ | .vmul _ | .vfma _ | .vfms _ | .vfnma _ | .vdiv _ | .vmin _ | .vmax _ | .vand _ | .vor _ | .vxor _
    | .vshl _ | .vshr _ | .vmulh _ | .vcmpeq _ | .vcmpne _ | .vcmplt _ | .vcmple _ | .vcmpun _ | .vsel _ | .vmxq _ | .vmxd _
    | .vperm _ | .vrot _ | .vzip _ | .vunzip _ | .vtrn _ | .kand _ | .kor _ | .kxor _ => true
    | _ => false
  let vc := match i with
    | .vfma _ | .vfms _ | .vfnma _ | .vperm _ => true
    | _ => false
  [vd, true, vb, vc]

/-- The VR or VS fields of a V word. -/
inductive VWord where
  | vr (f : VR)
  | vs (f : VS)

def vWord (i : Instr) : Option VWord :=
  match i with
  | .vadd f | .vsub f | .vmul f | .vfma f | .vfms f | .vfnma f | .vdiv f | .vsqrt f | .vrsqrt f | .vrcp f | .vexp2 f | .vlog2 f
  | .vmin f | .vmax f | .vabs f | .vneg f | .vand f | .vor f | .vxor f | .vnot f | .vshl f | .vshr f | .vmulh f | .vclz f
  | .vpopc f | .vtanh f | .verf f | .vmov f | .viota f | .vcmpeq f | .vcmpne f | .vcmplt f | .vcmple f | .vcmpun f | .vclass f
  | .vsel f | .vcvt f | .vmxq f | .vmxd f | .kand f | .kor f | .kxor f | .knot f | .kmov f | .kmovFromScalar f
  | .kmovToScalar f | .kpop f | .vredsum f | .vredmax f | .vredmin f | .vscan f | .vscanmax f | .vtopk f | .vargmax f | .vrng f
  | .vperm f | .vrot f | .vzip f | .vunzip f | .vtrn f | .vcompress f | .vexpand f | .vrev f => some (.vr f)
  | .vld f | .vst f | .vldx f | .vstx f | .tld f | .tst f | .vgld f | .vgst f | .tzero f => some (.vs f)
  | _ => none

/-- A register field that holds a code from 0 to 31 and stays there over repetitions 0 to `last` (R123). -/
def stepFits (x : Nat) (step : Int) (last top : Nat) : Bool :=
  step = 0 || (x ≤ 31 && 0 ≤ (x : Int) + last * step && (x : Int) + last * step ≤ top)

/-- The checks a prefix makes of every repetition (R123). -/
def repChecks (p : VP) (i : Instr) (count : Nat) : Bool :=
  let last := count - 1
  let st (k : Nat) : Int := (repSteps p).getD k 0
  match vWord i with
  | some (.vr f) =>
    let top := match i with
      | .vtopk _ => 30
      | _ => 31
    let u := vrUsed i
    let field (k x t : Nat) : Bool := st k = 0 || (u.getD k false && stepFits x (st k) last t)
    let dest := match i with
      | .vtopk _ => f.vd.toNat ≤ 30
      | _ => true
    dest && field 0 f.vd.toNat top && field 1 f.va.toNat 31 && field 2 f.vb.toNat 31 && field 3 f.vc.toNat 31 && st 4 = 0
  | some (.vs f) =>
    let tile := match i with
      | .tld _ | .tst _ | .tzero _ => true
      | _ => false
    let line := match i with
      | .tld _ | .tst _ => true
      | _ => false
    let w := tyWidth f.ty.toNat
    let d := topDir f.top
    let x := bits f.top.toNat 7 0
    let inRange (y : Int) : Bool := !grpMove.contains f.ty.toNat || (0 ≤ y && y + linesPerVector w d ≤ lineCount w d)
    let t : Int := (topTile f.top : Int) + last * st 4
    (st 0 = 0 || ((match i with
      | .tzero _ => false
      | _ => true) && stepFits f.v.toNat (st 0) last 31)) &&
    (st 1 = 0 || (line && !topIk f.top && inRange x && inRange ((x : Int) + last * st 1))) &&
    (st 2 = 0 || !tile) && st 3 = 0 && (st 4 = 0 || (tile && 0 ≤ t && t ≤ 15))
  | none => true

/-- Add to a field of a word, within its width. -/
def addField (w hi lo : Nat) (x : Int) : Nat := putBits w hi lo (wrapTo (hi + 1 - lo) ((bits w hi lo : Int) + x))

/-- Repetition `k` of a word (R124): each stepped field moved by `k` steps. -/
def stepWord (p : VP) (k : Nat) (i : Instr) : Instr :=
  let st (n : Nat) : Int := k * (repSteps p).getD n 0
  match vWord i with
  | some (.vr _) =>
    candidate .v (addField (addField (addField (addField i.bits 78 73 (st 0)) 72 67 (st 1)) 66 61 (st 2)) 60 55 (st 3))
  | some (.vs _) =>
    candidate .v (addField (addField (addField (addField i.bits 78 73 (st 0)) 53 46 (st 1)) 31 0 (512 * st 2)) 60 57 (st 4))
  | none => i

/-- Address of word `k` of the head section (R40). -/
def Stream.wordAt (st : Stream) (k : Nat) : Nat := st.hdr + 8 + 12 * (k - 1)

/-- What follows a `rep` in its section (R52): a word of format VR or VS, or a breach. -/
inductive RepNext where
  | word (w : Nat)
  | bad
  | stall (va : Nat)
  | trap (t : Trap)
deriving DecidableEq, Repr

def State.repNext (s : State) (j : Job) : RepNext :=
  let st := j.streams.v
  match st.header with
  | none => .bad
  | some h =>
    if st.word ≥ hLength h.toNat then .bad
    else
      match s.fetch j (st.wordAt (st.word + 1)) 12 with
      | .ok bs => if (vWord (candidate .v (leNat bs))).isSome then .word (leNat bs) else .bad
      | .stall a => .stall a
      | .trap c a x => .trap (trap c a x)

/-- `rep` with its count and the word after it (R122 to R125); with a count of 0 that word is decoded and does nothing else. -/
def runRep (f : VP) (w : Nat) (s : State) : Result :=
  runWord (.rep f) f.g [f.creg.toNat] [] s fun n sel j =>
    let count := if f.creg ≠ 0 then (j.rs f.creg.toNat).toNat else f.count.toNat
    let j1 := j.advance .v 0
    if count > 65535 then .trap (wordTrap 0x03 0 (.rep f)) s
    else
      match decode .v w with
      | .ok i =>
        if count = 0 then .stay (s.setJob n (j1.advance .v 0))
        else if !repChecks f i count then .trap (wordTrap 0x03 0 (.rep f)) s
        else .stay (s.setJob n { j1 with repValid := true, repDone := 0, repLeft := count })
      | .error r =>
        if count = 0 then .stay ((s.setJob n j1).takeTrap n sel (trap r.cause 0 (w / 2 ^ 32)))
        else if !repChecks f (candidate .v w) count then .trap (wordTrap 0x03 0 (.rep f)) s
        else .stay (s.setJob n { j1 with repValid := true, repDone := 0, repLeft := count })

def execRep (f : VP) (s : State) : Result :=
  match s.turn with
  | .stream n sel =>
    match s.job? n with
    | none => .next s
    | some j =>
      if !j.mayIssue sel then .next s
      else
        match s.repNext j with
        | .word w => runRep f w s
        | .bad => .next (s.takeTrap n sel (wordTrap 0x01 0 (.rep f)))
        | .stall a => .next (s.stalled n .v a .fetch)
        | .trap t => .next (s.takeTrap n sel t)
  | _ => .next s

/-- One repetition of the word the V stream stands at (R124, R125): the prefix is read again, and the word runs with its fields
stepped. -/
def execRepetition (s : State) : Result :=
  match s.turn with
  | .stream n .v =>
    match s.job? n with
    | none => .next s
    | some j =>
      match j.streams.v.fetched with
      | none => .next s
      | some w =>
        if !j.mayIssue .v || !j.repValid then .next s
        else
          match s.fetch j (j.streams.v.wordAt (j.streams.v.word - 1)) 12 with
          | .stall a => .next (s.stalled n .v a .fetch)
          | .trap c a x => .next (s.takeTrap n .v (trap c a x))
          | .ok bs =>
            match decode .v w.toNat, candidate .v (leNat bs) with
            | .error r, _ => .next (s.takeTrap n .v (trap r.cause 0 (w.toNat / 2 ^ 32)))
            | .ok i, .rep p =>
              match runRepeated (stepWord p j.repDone i) with
              | some run => run s
              | none => .next (s.takeTrap n .v (wordTrap 0x01 0 i))
            | .ok i, _ =>
              match runRepeated i with
              | some run => run s
              | none => .next (s.takeTrap n .v (wordTrap 0x01 0 i))
  | _ => .next s

end Sys2Proof.Machine
end

