-- ==== Sys2Proof/Machine/Dispatch.lean ====
section
/-!
DEFINITION. The meaning of each instruction: one arm per constructor, one direct call each. Words, slice words and service words first,
then the events.
-/
namespace Sys2Proof.Machine
open Sys2Proof

/-- The meaning of an instruction. -/
def exec (i : Instr) (s : State) : Host.Outcome State Fault Refusal :=
  match i with
  | .nop e g => Sys2Proof.Machine.execNop e g s
  | .rdv e g => Sys2Proof.Machine.execRdv e g s
  | .add f => Sys2Proof.Machine.execAdd f s
  | .sub f => Sys2Proof.Machine.execSub f s
  | .mul f => Sys2Proof.Machine.execMul f s
  | .mulh f => Sys2Proof.Machine.execMulh f s
  | .madd f => Sys2Proof.Machine.execMadd f s
  | .div f => Sys2Proof.Machine.execDiv f s
  | .rem f => Sys2Proof.Machine.execRem f s
  | .neg f => Sys2Proof.Machine.execNeg f s
  | .abs f => Sys2Proof.Machine.execAbs f s
  | .min f => Sys2Proof.Machine.execMin f s
  | .max f => Sys2Proof.Machine.execMax f s
  | .and f => Sys2Proof.Machine.execAnd f s
  | .or f => Sys2Proof.Machine.execOr f s
  | .xor f => Sys2Proof.Machine.execXor f s
  | .not f => Sys2Proof.Machine.execNot f s
  | .shl f => Sys2Proof.Machine.execShl f s
  | .shr f => Sys2Proof.Machine.execShr f s
  | .rol f => Sys2Proof.Machine.execRol f s
  | .ror f => Sys2Proof.Machine.execRor f s
  | .clz f => Sys2Proof.Machine.execClz f s
  | .ctz f => Sys2Proof.Machine.execCtz f s
  | .popc f => Sys2Proof.Machine.execPopc f s
  | .bext f => Sys2Proof.Machine.execBext f s
  | .bins f => Sys2Proof.Machine.execBins f s
  | .sel f => Sys2Proof.Machine.execSel f s
  | .cmpeq f => Sys2Proof.Machine.execCmpeq f s
  | .cmpne f => Sys2Proof.Machine.execCmpne f s
  | .cmplt f => Sys2Proof.Machine.execCmplt f s
  | .cmple f => Sys2Proof.Machine.execCmple f s
  | .pand f => Sys2Proof.Machine.execPand f s
  | .por f => Sys2Proof.Machine.execPor f s
  | .pxor f => Sys2Proof.Machine.execPxor f s
  | .pnot f => Sys2Proof.Machine.execPnot f s
  | .mkva f => Sys2Proof.Machine.execMkva f s
  | .li f => Sys2Proof.Machine.execLi f s
  | .lih f => Sys2Proof.Machine.execLih f s
  | .addi f => Sys2Proof.Machine.execAddi f s
  | .andi f => Sys2Proof.Machine.execAndi f s
  | .ori f => Sys2Proof.Machine.execOri f s
  | .xori f => Sys2Proof.Machine.execXori f s
  | .shli f => Sys2Proof.Machine.execShli f s
  | .shri f => Sys2Proof.Machine.execShri f s
  | .cmpeqi f => Sys2Proof.Machine.execCmpeqi f s
  | .cmplti f => Sys2Proof.Machine.execCmplti f s
  | .br f => Sys2Proof.Machine.execBr f s
  | .brx f => Sys2Proof.Machine.execBrx f s
  | .call f => Sys2Proof.Machine.execCall f s
  | .ret f => Sys2Proof.Machine.execRet f s
  | .lpentReg f => Sys2Proof.Machine.execLpentReg f s
  | .lpentImm f => Sys2Proof.Machine.execLpentImm f s
  | .lpentTable f => Sys2Proof.Machine.execLpentTable f s
  | .lpbrk f => Sys2Proof.Machine.execLpbrk f s
  | .lget f => Sys2Proof.Machine.execLget f s
  | .lset f => Sys2Proof.Machine.execLset f s
  | .spawn f => Sys2Proof.Machine.execSpawn f s
  | .ld f => Sys2Proof.Machine.execLd f s
  | .st f => Sys2Proof.Machine.execSt f s
  | .prf f => Sys2Proof.Machine.execPrf f s
  | .clean f => Sys2Proof.Machine.execClean f s
  | .atadd f => Sys2Proof.Machine.execAtadd f s
  | .atand f => Sys2Proof.Machine.execAtand f s
  | .ator f => Sys2Proof.Machine.execAtor f s
  | .atxor f => Sys2Proof.Machine.execAtxor f s
  | .atmin f => Sys2Proof.Machine.execAtmin f s
  | .atmax f => Sys2Proof.Machine.execAtmax f s
  | .atswp f => Sys2Proof.Machine.execAtswp f s
  | .atcas f => Sys2Proof.Machine.execAtcas f s
  | .atfadd f => Sys2Proof.Machine.execAtfadd f s
  | .atfmax f => Sys2Proof.Machine.execAtfmax f s
  | .atfmin f => Sys2Proof.Machine.execAtfmin f s
  | .lathe f => Sys2Proof.Machine.execLathe f s
  | .fence f => Sys2Proof.Machine.execFence f s
  | .phreg f => Sys2Proof.Machine.execPhreg f s
  | .phdrop f => Sys2Proof.Machine.execPhdrop f s
  | .phsig f => Sys2Proof.Machine.execPhsig f s
  | .phwait f => Sys2Proof.Machine.execPhwait f s
  | .phsw f => Sys2Proof.Machine.execPhsw f s
  | .semwReg f => Sys2Proof.Machine.execSemwReg f s
  | .semwImm f => Sys2Proof.Machine.execSemwImm f s
  | .semsReg f => Sys2Proof.Machine.execSemsReg f s
  | .semsImm f => Sys2Proof.Machine.execSemsImm f s
  | .calchk f => Sys2Proof.Machine.execCalchk f s
  | .rdcnt f => Sys2Proof.Machine.execRdcnt f s
  | .rdcyc f => Sys2Proof.Machine.execRdcyc f s
  | .qget f => Sys2Proof.Machine.execQget f s
  | .qpeek f => Sys2Proof.Machine.execQpeek f s
  | .qlen f => Sys2Proof.Machine.execQlen f s
  | .qwait f => Sys2Proof.Machine.execQwait f s
  | .qwaitTimeout f => Sys2Proof.Machine.execQwaitTimeout f s
  | .spin f => Sys2Proof.Machine.execSpin f s
  | .spflush f => Sys2Proof.Machine.execSpflush f s
  | .spend f => Sys2Proof.Machine.execSpend f s
  | .mfsr f => Sys2Proof.Machine.execMfsr f s
  | .mtsr f => Sys2Proof.Machine.execMtsr f s
  | .trap f => Sys2Proof.Machine.execTrap f s
  | .eret f => Sys2Proof.Machine.execEret f s
  | .cxsw f => Sys2Proof.Machine.execCxsw f s
  | .yield f => Sys2Proof.Machine.execYield f s
  | .snap f => Sys2Proof.Machine.execSnap f s
  | .hcall f => Sys2Proof.Machine.execHcall f s
  | .trapctlWrite f => Sys2Proof.Machine.execTrapctlWrite f s
  | .engineSharedRegisterWrite f => Sys2Proof.Machine.execEngineSharedRegisterWrite f s
  | .calcfgWrite f => Sys2Proof.Machine.execCalcfgWrite f s
  | .calcmdClr f => Sys2Proof.Machine.execCalcmdClr f s
  | .perfselWrite f => Sys2Proof.Machine.execPerfselWrite f s
  | .vadd f => Sys2Proof.Machine.execVadd f s
  | .vsub f => Sys2Proof.Machine.execVsub f s
  | .vmul f => Sys2Proof.Machine.execVmul f s
  | .vfma f => Sys2Proof.Machine.execVfma f s
  | .vfms f => Sys2Proof.Machine.execVfms f s
  | .vfnma f => Sys2Proof.Machine.execVfnma f s
  | .vdiv f => Sys2Proof.Machine.execVdiv f s
  | .vsqrt f => Sys2Proof.Machine.execVsqrt f s
  | .vrsqrt f => Sys2Proof.Machine.execVrsqrt f s
  | .vrcp f => Sys2Proof.Machine.execVrcp f s
  | .vexp2 f => Sys2Proof.Machine.execVexp2 f s
  | .vlog2 f => Sys2Proof.Machine.execVlog2 f s
  | .vmin f => Sys2Proof.Machine.execVmin f s
  | .vmax f => Sys2Proof.Machine.execVmax f s
  | .vabs f => Sys2Proof.Machine.execVabs f s
  | .vneg f => Sys2Proof.Machine.execVneg f s
  | .vand f => Sys2Proof.Machine.execVand f s
  | .vor f => Sys2Proof.Machine.execVor f s
  | .vxor f => Sys2Proof.Machine.execVxor f s
  | .vnot f => Sys2Proof.Machine.execVnot f s
  | .vshl f => Sys2Proof.Machine.execVshl f s
  | .vshr f => Sys2Proof.Machine.execVshr f s
  | .vmulh f => Sys2Proof.Machine.execVmulh f s
  | .vclz f => Sys2Proof.Machine.execVclz f s
  | .vpopc f => Sys2Proof.Machine.execVpopc f s
  | .vtanh f => Sys2Proof.Machine.execVtanh f s
  | .verf f => Sys2Proof.Machine.execVerf f s
  | .vmov f => Sys2Proof.Machine.execVmov f s
  | .viota f => Sys2Proof.Machine.execViota f s
  | .vcmpeq f => Sys2Proof.Machine.execVcmpeq f s
  | .vcmpne f => Sys2Proof.Machine.execVcmpne f s
  | .vcmplt f => Sys2Proof.Machine.execVcmplt f s
  | .vcmple f => Sys2Proof.Machine.execVcmple f s
  | .vcmpun f => Sys2Proof.Machine.execVcmpun f s
  | .vclass f => Sys2Proof.Machine.execVclass f s
  | .vsel f => Sys2Proof.Machine.execVsel f s
  | .vcvt f => Sys2Proof.Machine.execVcvt f s
  | .vmxq f => Sys2Proof.Machine.execVmxq f s
  | .vmxd f => Sys2Proof.Machine.execVmxd f s
  | .kand f => Sys2Proof.Machine.execKand f s
  | .kor f => Sys2Proof.Machine.execKor f s
  | .kxor f => Sys2Proof.Machine.execKxor f s
  | .knot f => Sys2Proof.Machine.execKnot f s
  | .kmov f => Sys2Proof.Machine.execKmov f s
  | .kmovFromScalar f => Sys2Proof.Machine.execKmovFromScalar f s
  | .kmovToScalar f => Sys2Proof.Machine.execKmovToScalar f s
  | .kpop f => Sys2Proof.Machine.execKpop f s
  | .vredsum f => Sys2Proof.Machine.execVredsum f s
  | .vredmax f => Sys2Proof.Machine.execVredmax f s
  | .vredmin f => Sys2Proof.Machine.execVredmin f s
  | .vscan f => Sys2Proof.Machine.execVscan f s
  | .vscanmax f => Sys2Proof.Machine.execVscanmax f s
  | .vtopk f => Sys2Proof.Machine.execVtopk f s
  | .vargmax f => Sys2Proof.Machine.execVargmax f s
  | .vrng f => Sys2Proof.Machine.execVrng f s
  | .vperm f => Sys2Proof.Machine.execVperm f s
  | .vrot f => Sys2Proof.Machine.execVrot f s
  | .vzip f => Sys2Proof.Machine.execVzip f s
  | .vunzip f => Sys2Proof.Machine.execVunzip f s
  | .vtrn f => Sys2Proof.Machine.execVtrn f s
  | .vcompress f => Sys2Proof.Machine.execVcompress f s
  | .vexpand f => Sys2Proof.Machine.execVexpand f s
  | .vrev f => Sys2Proof.Machine.execVrev f s
  | .vld f => Sys2Proof.Machine.execVld f s
  | .vst f => Sys2Proof.Machine.execVst f s
  | .vldx f => Sys2Proof.Machine.execVldx f s
  | .vstx f => Sys2Proof.Machine.execVstx f s
  | .tld f => Sys2Proof.Machine.execTld f s
  | .tst f => Sys2Proof.Machine.execTst f s
  | .vgld f => Sys2Proof.Machine.execVgld f s
  | .vgst f => Sys2Proof.Machine.execVgst f s
  | .tzero f => Sys2Proof.Machine.execTzero f s
  | .rep f => Sys2Proof.Machine.execRep f s
  | .mma f => Sys2Proof.Machine.execMma f s
  | .mmt f => Sys2Proof.Machine.execMmt f s
  | .mzero f => Sys2Proof.Machine.execMzero f s
  | .mscale f => Sys2Proof.Machine.execMscale f s
  | .mbias f => Sys2Proof.Machine.execMbias f s
  | .mstTile f => Sys2Proof.Machine.execMstTile f s
  | .mstScratchpad f => Sys2Proof.Machine.execMstScratchpad f s
  | .mldTile f => Sys2Proof.Machine.execMldTile f s
  | .mldScratchpad f => Sys2Proof.Machine.execMldScratchpad f s
  | .mcopy f => Sys2Proof.Machine.execMcopy f s
  | .mskip f => Sys2Proof.Machine.execMskip f s
  | .msave f => Sys2Proof.Machine.execMsave f s
  | .mrestore f => Sys2Proof.Machine.execMrestore f s
  | .cp f => Sys2Proof.Machine.execCp f s
  | .cpr f => Sys2Proof.Machine.execCpr f s
  | .cpt f => Sys2Proof.Machine.execCpt f s
  | .cptw f => Sys2Proof.Machine.execCptw f s
  | .cpfill f => Sys2Proof.Machine.execCpfill f s
  | .csem f => Sys2Proof.Machine.execCsem f s
  | .csemw f => Sys2Proof.Machine.execCsemw f s
  | .ringbind f => Sys2Proof.Machine.execRingbind f s
  | .bobbind f => Sys2Proof.Machine.execBobbind f s
  | .unbind f => Sys2Proof.Machine.execUnbind f s
  | .ringfill f => Sys2Proof.Machine.execRingfill f s
  | .fget f => Sys2Proof.Machine.execFget f s
  | .fput f => Sys2Proof.Machine.execFput f s
  | .cgsum f => Sys2Proof.Machine.execCgsum f s
  | .fsum f => Sys2Proof.Machine.execFsum f s
  | .cprime f => Sys2Proof.Machine.execCprime f s
  | .gjDispatch d a b => Sys2Proof.Machine.execGjDispatch d a b s
  | .gjJoin d a b => Sys2Proof.Machine.execGjJoin d a b s
  | .sliceDone a => Sys2Proof.Machine.execSliceDone a s
  | .sliceFail c => Sys2Proof.Machine.execSliceFail c s
  | .sliceSkip a b c u n => Sys2Proof.Machine.execSliceSkip a b c u n s
  | .sliceLi d y => Sys2Proof.Machine.execSliceLi d y s
  | .sliceAddi d a x => Sys2Proof.Machine.execSliceAddi d a x s
  | .sliceAdd d a b => Sys2Proof.Machine.execSliceAdd d a b s
  | .sliceSub d a b => Sys2Proof.Machine.execSliceSub d a b s
  | .sliceAnd d a b => Sys2Proof.Machine.execSliceAnd d a b s
  | .sliceOr d a b => Sys2Proof.Machine.execSliceOr d a b s
  | .sliceXor d a b => Sys2Proof.Machine.execSliceXor d a b s
  | .sliceShl d a b => Sys2Proof.Machine.execSliceShl d a b s
  | .sliceShr d a b => Sys2Proof.Machine.execSliceShr d a b s
  | .sliceSra d a b => Sys2Proof.Machine.execSliceSra d a b s
  | .sliceMul d a b => Sys2Proof.Machine.execSliceMul d a b s
  | .sliceMin d a b t => Sys2Proof.Machine.execSliceMin d a b t s
  | .sliceMax d a b t => Sys2Proof.Machine.execSliceMax d a b t s
  | .sliceLld d z e o => Sys2Proof.Machine.execSliceLld d z e o s
  | .sliceLldx d a z e o => Sys2Proof.Machine.execSliceLldx d a z e o s
  | .sliceLst a z o => Sys2Proof.Machine.execSliceLst a z o s
  | .sliceLstx a b z o => Sys2Proof.Machine.execSliceLstx a b z o s
  | .sliceFadd d a b t => Sys2Proof.Machine.execSliceFadd d a b t s
  | .sliceFmax d a b => Sys2Proof.Machine.execSliceFmax d a b s
  | .sliceFmin d a b => Sys2Proof.Machine.execSliceFmin d a b s
  | .unassignedOpcode e w => Sys2Proof.Machine.execUnassignedOpcode e w s
  | .rdvRelease => Sys2Proof.Machine.execRdvRelease s
  | .hcallReply => Sys2Proof.Machine.execHcallReply s
  | .repetition => Sys2Proof.Machine.execRepetition s
  | .matrixCommandStart => Sys2Proof.Machine.execMatrixCommandStart s
  | .matrixCommandRetire => Sys2Proof.Machine.execMatrixCommandRetire s
  | .copyCommandStart => Sys2Proof.Machine.execCopyCommandStart s
  | .copyGranule => Sys2Proof.Machine.execCopyGranule s
  | .copyCommandRetire => Sys2Proof.Machine.execCopyCommandRetire s
  | .patternPortPush => Sys2Proof.Machine.execPatternPortPush s
  | .patternPortDrainPop => Sys2Proof.Machine.execPatternPortDrainPop s
  | .sectionIssue => Sys2Proof.Machine.execSectionIssue s
  | .gangPassStart => Sys2Proof.Machine.execGangPassStart s
  | .gangFreezeLift => Sys2Proof.Machine.execGangFreezeLift s
  | .trapAreaWrite => Sys2Proof.Machine.execTrapAreaWrite s
  | .sliceAdmission => Sys2Proof.Machine.execSliceAdmission s
  | .sliceLineFill => Sys2Proof.Machine.execSliceLineFill s
  | .builtinAtomicRun => Sys2Proof.Machine.execBuiltinAtomicRun s
  | .routineRun => Sys2Proof.Machine.execRoutineRun s
  | .translationFill => Sys2Proof.Machine.execTranslationFill s
  | .invalidationAck => Sys2Proof.Machine.execInvalidationAck s
  | .scrubZeroFillEnd => Sys2Proof.Machine.execScrubZeroFillEnd s
  | .migrationPartMoved => Sys2Proof.Machine.execMigrationPartMoved s
  | .segmentVerified => Sys2Proof.Machine.execSegmentVerified s
  | .arrivalBoundExpiry => Sys2Proof.Machine.execArrivalBoundExpiry s
  | .chunkTimeout => Sys2Proof.Machine.execChunkTimeout s
  | .requestMessage => Sys2Proof.Machine.execRequestMessage s
  | .hackleTokenisation => Sys2Proof.Machine.execHackleTokenisation s
  | .requestAppend => Sys2Proof.Machine.execRequestAppend s
  | .vudricFlitReceive => Sys2Proof.Machine.execVudricFlitReceive s
  | .dispatcherDecision => Sys2Proof.Machine.execDispatcherDecision s
  | .multiDieReservationGrant => Sys2Proof.Machine.execMultiDieReservationGrant s
  | .multiDieReservationTimeout => Sys2Proof.Machine.execMultiDieReservationTimeout s
  | .periodRelease => Sys2Proof.Machine.execPeriodRelease s
  | .budgetExhausted => Sys2Proof.Machine.execBudgetExhausted s
  | .quantumEnd => Sys2Proof.Machine.execQuantumEnd s
  | .starvation => Sys2Proof.Machine.execStarvation s
  | .deadlineOverrun => Sys2Proof.Machine.execDeadlineOverrun s
  | .preemptionRequest => Sys2Proof.Machine.execPreemptionRequest s
  | .engineHold => Sys2Proof.Machine.execEngineHold s
  | .drainCut => Sys2Proof.Machine.execDrainCut s
  | .jobSaveComplete => Sys2Proof.Machine.execJobSaveComplete s
  | .scratchpadGranuleExchange => Sys2Proof.Machine.execScratchpadGranuleExchange s
  | .bankThrottle => Sys2Proof.Machine.execBankThrottle s
  | .thermalTrip => Sys2Proof.Machine.execThermalTrip s
  | .uncorrectableError => Sys2Proof.Machine.execUncorrectableError s
  | .partitionBackInService => Sys2Proof.Machine.execPartitionBackInService s
  | .moduleReset => Sys2Proof.Machine.execModuleReset s
  | .bootStep => Sys2Proof.Machine.execBootStep s
  | .recoveryImage => Sys2Proof.Machine.execRecoveryImage s
  | .hotReset => Sys2Proof.Machine.execHotReset s
  | .virtioNetMessage => Sys2Proof.Machine.execVirtioNetMessage s
  | .snapshotTrigger => Sys2Proof.Machine.execSnapshotTrigger s
  | .gjJoinTimeout => Sys2Proof.Machine.execGjJoinTimeout s
  | .controlBlockWrite => Sys2Proof.Machine.execControlBlockWrite s
  | .controlBlockRead => Sys2Proof.Machine.execControlBlockRead s
  | .contractSubmission => Sys2Proof.Machine.execContractSubmission s
  | .contractWithdrawal => Sys2Proof.Machine.execContractWithdrawal s
  | .dispatcherParameterWrite => Sys2Proof.Machine.execDispatcherParameterWrite s
  | .microContextRetire => Sys2Proof.Machine.execMicroContextRetire s
  | .faultClear => Sys2Proof.Machine.execFaultClear s
  | .controlBlockInstall => Sys2Proof.Machine.execControlBlockInstall s
  | .preemptCommand => Sys2Proof.Machine.execPreemptCommand s
  | .shset => Sys2Proof.Machine.execShset s
  | .shclr => Sys2Proof.Machine.execShclr s
  | .shroot => Sys2Proof.Machine.execShroot s
  | .tlbEntryRead => Sys2Proof.Machine.execTlbEntryRead s
  | .ownershipEntryRead => Sys2Proof.Machine.execOwnershipEntryRead s
  | .frameAssign => Sys2Proof.Machine.execFrameAssign s
  | .frameFree => Sys2Proof.Machine.execFrameFree s
  | .migration => Sys2Proof.Machine.execMigration s
  | .readDuplicate => Sys2Proof.Machine.execReadDuplicate s
  | .segmentShare => Sys2Proof.Machine.execSegmentShare s
  | .sealPages => Sys2Proof.Machine.execSealPages s
  | .keyWrite => Sys2Proof.Machine.execKeyWrite s
  | .routineInstallation => Sys2Proof.Machine.execRoutineInstallation s
  | .routineClearing => Sys2Proof.Machine.execRoutineClearing s
  | .routineMapWrite => Sys2Proof.Machine.execRoutineMapWrite s
  | .slotRecordRead => Sys2Proof.Machine.execSlotRecordRead s
  | .vocabularyLoad => Sys2Proof.Machine.execVocabularyLoad s
  | .vocabularyUnload => Sys2Proof.Machine.execVocabularyUnload s
  | .vstatRead => Sys2Proof.Machine.execVstatRead s
  | .contextKeyInstall => Sys2Proof.Machine.execContextKeyInstall s
  | .replayCommand => Sys2Proof.Machine.execReplayCommand s
  | .attestationCommand => Sys2Proof.Machine.execAttestationCommand s
  | .fabricGroupWrite => Sys2Proof.Machine.execFabricGroupWrite s
  | .runLengthSet => Sys2Proof.Machine.execRunLengthSet s
  | .snapshotRecordRead => Sys2Proof.Machine.execSnapshotRecordRead s
  | .counterRead => Sys2Proof.Machine.execCounterRead s
  | .bootStepClear => Sys2Proof.Machine.execBootStepClear s
  | .powerLoss => Sys2Proof.Machine.execPowerLoss s
  | .virtioDeviceStatus => Sys2Proof.Machine.execVirtioDeviceStatus s
  | .hostTierLending => Sys2Proof.Machine.execHostTierLending s
  | .arrivalBoundSet => Sys2Proof.Machine.execArrivalBoundSet s
  | .serviceCoreInterrupt => Sys2Proof.Machine.execServiceCoreInterrupt s
  | .vocabularyLoadEnd => Sys2Proof.Machine.execVocabularyLoadEnd s
  | .sharingEnd => Sys2Proof.Machine.execSharingEnd s
  | .transportKeyInstall => Sys2Proof.Machine.execTransportKeyInstall s

end Sys2Proof.Machine
end

