-- ==== Sys2Proof/Machine/Run.lean ====
section
/-!
DEFINITION. Whose turn it is and what it does: fetching and decoding a word of a stream, a slice or a service core, an event; then time
passes and the next turn is chosen (log entries 1 and 2). And where the next instruction is fetched.
-/
namespace Sys2Proof.Machine

/-! Streams -/

/-- What a stream runs next: a repetition of the word it stands at, or the word itself. -/
def Job.nextInstr (j : Job) (sel : Sel) (w : IWord) : Except Reject Instr :=
  if sel = .v && j.repValid then .ok .repetition else decode sel.engine w.toNat

/-- What follows the word of a stream that is a `rep`; any other word stands for itself (R52). -/
def State.afterRep (s : State) (sel : Sel) (j : Job) (w : IWord) : RepNext :=
  match sel, candidate sel.engine w.toNat with
  | .v, .rep _ => if j.repValid then .word 0 else s.repNext j
  | _, _ => .word 0

/-- Decode and run the fetched word of a stream; a word that is no instruction traps, and of its fates cause 0x01 wins: that of a
`rep` that no V word follows too (R52). -/
def State.runFetched (s : State) (n : Nat) (sel : Sel) (j : Job) (w : IWord) : Result :=
  match j.nextInstr sel w with
  | .ok i => exec i s
  | .error r =>
    let take (c : Nat) : Result := .next (if j.trapHeld sel then s else s.takeTrap n sel (trap c 0 (w.toNat / 2 ^ 32)))
    match s.afterRep sel j w with
    | .bad => take 0x01
    | .stall a => .next (s.stalled n sel.engine a .fetch)
    | _ => take r.cause

/-- The stream's engine has fetched a word. -/
def Job.fetchedWord (j : Job) (sel : Sel) (w : IWord) : Job := j.updStream sel fun st => { st with fetched := some w }

/-- One turn of a stream: its header, or its next word (R40, R52). -/
def State.runStream (s : State) (n : Nat) (sel : Sel) : Result :=
  match s.job? n with
  | none => .next s
  | some j =>
    let st := j.stream sel
    if !j.mayIssue sel then .next s
    else if st.header.isNone then exec .sectionIssue s
    else
      match st.fetched with
      | some w => s.runFetched n sel j w
      | none =>
        match s.fetch j (st.wordAt st.word) 12 with
        | .stall a => .next (s.stalled n sel.engine a .fetch)
        | .trap c a x => .next (if j.trapHeld sel then s else s.takeTrap n sel (trap c a x))
        | .ok bs =>
          let w := BitVec.ofNat 96 (leNat bs)
          let j1 := j.fetchedWord sel w
          ((s.fetchLines j (st.wordAt st.word) 12).setJob n j1).runFetched n sel j1 w

/-! Slices and service cores -/

/-- One turn of a slice: it begins a run, or runs the next word of the one under way (R299). -/
def State.runSliceTurn (s : State) (d i : Nat) : Result :=
  match (s.slice d i).rm.active, (s.slice d i).rm.word with
  | none, _ => .next (s.beginRun d i)
  | some _, none => .next s
  | some _, some w =>
    match decodeSlice w.toNat with
    | .ok x => exec x s
    | .error _ => .next s

/-- One turn of a service core: the word at its pc, where it is one of R391. -/
def State.runServiceTurn (s : State) (n : Nat) : Result :=
  let w := (Sparse.get 0 (s.service n).words (s.service n).pc).toNat
  match decodeService w with
  | .ok x => exec x s
  | .error _ => .refused (.notDescribed w)

/-! Turns -/

/-- While the module is held, only a reset or the loss of power reaches it (R435). -/
def Turn.passesHold : Turn → Bool
  | .event .moduleReset _ => true
  | .event .powerLoss _ => true
  | _ => false

/-- Firmware's commands: rows that a service core sends (R36, R390). -/
def ofFirmware : Instr → Bool
  | .controlBlockWrite | .controlBlockRead | .contractSubmission | .contractWithdrawal | .dispatcherParameterWrite
  | .microContextRetire | .faultClear | .controlBlockInstall | .preemptCommand | .shset | .shclr | .shroot | .tlbEntryRead
  | .ownershipEntryRead | .frameAssign | .frameFree | .migration | .readDuplicate | .segmentShare | .sealPages | .keyWrite
  | .routineInstallation | .routineClearing | .routineMapWrite | .slotRecordRead | .vocabularyLoad | .vocabularyUnload
  | .vstatRead | .contextKeyInstall | .replayCommand | .attestationCommand | .fabricGroupWrite | .runLengthSet
  | .snapshotRecordRead | .counterRead | .bootStepClear | .hostTierLending | .arrivalBoundSet | .transportKeyInstall => true
  | _ => false

/-- What the boot steps let act (R420, R422): resets and the steps themselves always; the hub's ports, Vudric Link and the host port once
their step has brought them up; the compute dies after step 3, and firmware after step 5. In recovery the host port is virtio-console
alone. -/
def Platform.lets (p : Platform) : Turn → Bool
  | .stream _ _ => 3 < p.step
  | .slice _ _ => 3 < p.step
  | .service _ => 5 < p.step
  | .event i x => match i with
    | .moduleReset | .powerLoss | .thermalTrip | .hotReset | .bootStep | .recoveryImage => true
    | .requestMessage => p.broughtUp 2
    | .vudricFlitReceive => p.broughtUp 6
    | .virtioNetMessage => p.broughtUp 8
    | .virtioDeviceStatus => p.broughtUp 8 || (p.recovery && x.index = 2)
    | i => if ofFirmware i then 5 < p.step else 3 < p.step

/-- The turn's own effect. -/
def State.runTurn (s : State) : Result :=
  if (s.platform.held && !s.turn.passesHold) || !s.platform.lets s.turn then .next s
  else
    match s.turn with
    | .stream n sel => if n < 128 then s.runStream n sel else .fault .noSuchUnit
    | .slice d i => if d < 8 && i < 32 then s.runSliceTurn d i else .fault .noSuchUnit
    | .service n => if n < 16 then s.runServiceTurn n else .fault .noSuchUnit
    | .event i x => exec i { s with input := x }

/-! Time -/

/-- The next command to start waits for a ring entry (R155, R417). -/
def Job.waitsForRing (j : Job) : Bool :=
  match j.nextStart with
  | none => false
  | some k =>
    match j.mqueue[k]? with
    | none => false
    | some c => j.mStarts && !c.queued && ringsStart j c (j.mqueue.take k) = .wait

/-- The operand codes by which a V word may name bobbins: its vector sources, and the vector it writes. -/
def vectorCodes (w : IWord) : Instr → List Nat × List Nat
  | .vld f | .vldx f | .tld f => ([], [f.v.toNat])
  | .vst f | .vstx f | .tst f => ([f.v.toNat], [])
  | .vgld f => ([gatherCode f], [f.v.toNat])
  | .vgst f => ([gatherCode f, f.v.toNat], [])
  | .tzero _ | .rep _ | .rdv _ _ | .nop _ _ => ([], [])
  | _ => ([(decVR w.toNat).va.toNat, (decVR w.toNat).vb.toNat, (decVR w.toNat).vc.toNat], [(decVR w.toNat).vd.toNat])

/-- The V stream, or a handler's, stands at a word that waits for a bobbin (R117, R417). -/
def Job.waitsForBobbin (j : Job) : Bool :=
  (j.stream .v).fetched.any fun w => match decode .v w.toNat with
    | .ok i =>
      let g := (decVR w.toNat).g
      let c := vectorCodes w i
      j.mayIssue .v && !j.pendP g.pred.toNat && j.rp g.pred.toNat ≠ decide (g.neg = 1) &&
        j.bobbinGate (bobbinsOf c.1) (bobbinsOf c.2) = .wait
    | .error _ => false

/-- The performance counters of a job over `c` cycles (R417; log entry 40). -/
def Job.passCycles (j : Job) (c throttle : Nat) : Job :=
  if j.perfsel.isEmpty then j
  else
    (((j.count 0x01 c).count 0x0C (if throttle = 0 then 0 else c)).count 0x08 (if j.waitsForRing then c else 0)).count 0x09
      (if j.waitsForBobbin then c else 0)

/-- The throttle that acts on the core's job: a pre-emption request lifts it until every engine holds (R213). -/
def Core.throttled (x : Core) (j : Job) : Nat := if j.preempt.any fun p => !p.swap && !p.saving then 0 else x.throttle

def Core.passCycles (x : Core) (c : Nat) : Core := { x with job := x.job.map fun j => j.passCycles c (x.throttled j) }

def Die.passCycles (x : Die) (c : Nat) : Die := { x with cores := x.cores.map fun p => (p.1, p.2.passCycles c) }

/-- The budget of a bound contract falls; as it reaches 0, DEMOTED becomes 1 (R342). -/
def State.spendBudget (s : State) (ctx c : Nat) : State :=
  if s.admitted ctx && s.isBound ctx then
    let left := s.blkBits ctx 0x68 31 0
    let s1 := (s.setBlkBits ctx 0x68 31 0 (left - c)).updExtra ctx fun x => { x with usedB := x.usedB + c }
    if left ≠ 0 && left ≤ c then s1.setBlkBits ctx 0x68 63 63 1 else s1
  else s

/-- The cycles of a step pass: the clock, the budgets, the counters. -/
def State.passTime (s : State) : State :=
  let c := Config.elapsed s.tick
  let s1 := s.blocks.foldl (fun (t : State) b => t.spendBudget b.1 c) s
  { s1 with clock := s1.clock + c, tick := s1.tick + 1, dies := s1.dies.map fun p => (p.1, p.2.passCycles c) }

/-- A routine under way keeps the turn (R299). -/
def State.keepsTurn (s : State) : Bool :=
  match s.turn with
  | .slice d i => (s.slice d i).rm.active.isSome
  | _ => false

/-- The next turn: the schedule's, else a free one. -/
def State.nextTurn (s : State) : State :=
  if s.keepsTurn then s
  else
    match s.schedule with
    | t :: r => { s with turn := t, schedule := r }
    | [] => { s with turn := (Config.freeTurn s.tick).getD s.turn }

/-- What follows every turn. -/
def State.afterTurn (s : State) : State := s.passTime.nextTurn

/-! Where the next instruction is fetched -/

/-- The micro-context, the world and the code page of a placed word: the first frame of die 0's vault, mapped at 0x20000. -/
def placedCtx : Nat := 0
def placedWid : Nat := 1
def placedVa : Nat := 0x20000

/-- The translation of the code page. -/
def placedEntry : TlbEntry := ⟨placedCtx, placedVa, 17, 0, 4, 4, 0, [], false⟩

/-- The header of a section of one word that ends its stream: section 1, no waits (R42). -/
def placedHeader : Nat := packBits [(1, 1), (3, 0), (12, 0xFFF), (12, 0xFFF), (12, 0xFFF), (12, 1), (8, 1), (4, 0xF)]

/-- A job that stands at word 1 of that section in its S stream; its other streams are empty. -/
def placedJob (s : State) : Job :=
  let e : EntrySet := ⟨placedVa, 0, 0, 0, 0⟩
  let j := s.newJob placedCtx 0 0 false 0 ⟨e, ⟨0, 0, 0, 0, 0⟩, [], []⟩ 0 [] 0
  { j with wid := placedWid, streams := j.streams.set .s { j.streams.s with header := some (BitVec.ofNat 64 placedHeader), word := 1 } }

/-- A section of one stream word in the code page, its job on core 0, and its turn. -/
def State.placeStreamWord (s : State) (w : Nat) : State :=
  let s1 := (s.writePa 0 (leBytes 8 placedHeader ++ leBytes 12 w)).setOwnerTag 0 0 (ownMake ownOwned 0 true false false false false 0 placedWid 0)
  let s2 := s1.updCore 0 fun c => { c with job := some (placedJob s), alive := true, tlb := [placedEntry] }
  let s3 := (((s2.setCtxState placedCtx stBound).setBlkBits placedCtx 0 43 32 placedWid).setBlkBits placedCtx 0x88 8 0 0x100)
  { s3 with turn := .stream 0 .s }

/-- A routine of one word on slice 0 of die 0, about to read it. -/
def State.placeSliceWord (s : State) (w : BitVec 32) : State :=
  { s.updSlice 0 0 fun y => { y with rm := { RoutineMachine.idle with
      active := some 0, code := [w], word := some w, line := List.replicate 64 0 } } with turn := .slice 0 0 }

/-- A word at the pc of service core 0. -/
def State.placeServiceWord (s : State) (w : BitVec 32) : State :=
  let c := s.service 0
  { s.setService 0 { c with words := Sparse.set 0 c.words c.pc w } with turn := .service 0 }

/-- Place an instruction's word where the next step fetches. -/
def State.placeWord (s : State) (nbits w : Nat) : State :=
  let s1 := { s with platform := { s.platform with held := false, step := 10, running := false, recovery := false } }
  if nbits = 32 then
    if w / 2 ^ 27 % 32 = 0 then s1.placeServiceWord (BitVec.ofNat 32 w) else s1.placeSliceWord (BitVec.ofNat 32 w)
  else s1.placeStreamWord w

end Sys2Proof.Machine
end

