-- ==== Sys2Proof/Machine/Step.lean ====
section
/-!
DEFINITION. One step of the machine, and the state in which the next step runs a given word.
-/
namespace Sys2Proof.Machine

/-- One step: the turn's effect, then time passes and the next turn is chosen. -/
def step (s : State) : Host.Outcome State Fault Refusal :=
  match s.runTurn with
  | .next t => .next t.afterTurn
  | .fault f => .fault f
  | .refused r => .refused r

/-- `s` with an instruction's word stored where `step` fetches its next one (log entry 30). -/
def State.withFetchWord (s : State) (nbits w : Nat) : State := s.placeWord nbits w

end Sys2Proof.Machine
end

