-- ==== Sys2Proof/Safety.lean ====
section
/-!
DEFINITION. What counts as a safe run, and the terms the statements are made in: a word at issue, a word issued, a claim about the state
an instruction leaves.
-/
namespace Sys2Proof.Machine

/-- The turn belongs to a unit the module has (R12, R13, R16). -/
def Turn.known : Turn → Bool
  | .stream n _ => n < 128
  | .slice d i => d < 8 && i < 32
  | .service n => n < 16
  | .event _ _ => true

/-- The service core whose turn it is stands at one of the two instructions of R391. -/
def State.serviceWordKnown (s : State) : Bool :=
  match s.turn with
  | .service n => match decodeService (Sparse.get 0 (s.service n).words (s.service n).pc).toNat with
    | .ok _ => true
    | .error _ => false
  | _ => true

/-- A state the machine goes on from. -/
def State.safe (s : State) : Bool :=
  s.platform.held && !s.turn.passesHold || !s.platform.lets s.turn || (s.turn.known && s.serviceWordKnown)

/-! Words at issue -/

/-- Stream `sel` of core `n` is about to issue word `i` of job `j`: it is the stream's turn, nothing holds it (R186, R200, R350), the word
is legal (R52), its guard can be read and holds (R51), and no register it names is pending (R93). A handler's M word is one that R177
lets through. -/
structure AtIssue (s : State) (n : Nat) (sel : Sel) (j : Job) (i : Instr) (g : Guard) (regs preds : List Nat) : Prop where
  turn   : s.turn = .stream n sel
  job    : s.job? n = some j
  free   : j.mayIssue sel = true
  legal  : i.fates = []
  ready  : j.pendP g.pred.toNat = false
  holds  : j.rp g.pred.toNat = decide (g.neg = 0)
  regsReady  : ∀ r ∈ regs, j.pendS r = false
  predsReady : ∀ p ∈ preds, j.pendP p = false
  handler : sel = .hm → mHandlerTrap j i = none

/-- The state once a word has issued and retired and left the job as `j`: the job's stream passes the word (R45, R52). -/
def State.issued (s : State) (n : Nat) (sel : Sel) (j : Job) : State :=
  (s.setJob n (j.retireWord sel 0)).unstalled n sel.engine

/-- The state once a word has issued and left the job as `j` by branching to the header at `t` (R103, R104). -/
def State.branched (s : State) (n : Nat) (sel : Sel) (j : Job) (t : Nat) : State :=
  (s.setJob n (j.branch sel t)).unstalled n sel.engine

/-- The state once a word has left a command that retires later (R45). -/
def State.commanded (s : State) (n : Nat) (sel : Sel) (j : Job) : State :=
  (s.setJob n (j.retireWord sel 1)).unstalled n sel.engine

/-! What stays as it was -/

/-- The part of a job that passing a word leaves alone: all but its streams, its loop levels and their registers, its scalars, its
counters, its repeat registers and the record of a stalled access. -/
def Job.kept (j : Job) : Job :=
  { j with s := [], l := [], levels := [], streams := .all .empty, hs := .empty, hm := .empty, preempt := none, perfcnt := [],
           repValid := false, repDone := 0, repLeft := 0, stalls := .all none }

/-- No loop level steps the scalar register (R348). -/
def Job.unbound (j : Job) (r : Nat) : Prop := ∀ n, ∀ b ∈ (j.loop n).binds, b.1 ≠ r

/-- The two states differ in the job of core `n` alone: every byte of memory, every other core, every control block, every table of a die,
the hub and the platform are the same. -/
structure OnlyJob (s t : State) (n : Nat) : Prop where
  bytes    : ∀ a, t.byte a = s.byte a
  cores    : ∀ m, m ≠ n → t.core m = s.core m
  core     : { t.core n with job := none } = { s.core n with job := none }
  dies     : ∀ d, { t.die d with cores := [] } = { s.die d with cores := [] }
  blocks   : ∀ c off, t.blk c off = s.blk c off
  extras   : ∀ c, t.extra c = s.extra c
  hub      : t.hub = s.hub
  platform : t.platform = s.platform
  routines : t.routines = s.routines

/-! Typed integers of the S engine (R98) -/

/-- The width an integer type gives. -/
def typeWidth (ty : BitVec 5) : Nat := 8 * 2 ^ (ty.toNat % 4)

/-- A source as an `.i` type reads it, and as `.n` and `.b` types do. -/
def typedRead (ty : BitVec 5) (x : Word) : Int :=
  if ty.toNat < 4 then (x.setWidth (typeWidth ty)).toInt else ((x.setWidth (typeWidth ty)).toNat : Int)

/-- A result reduced to the type's width and extended as the type says. -/
def typedWrite (ty : BitVec 5) (x : Int) : Word :=
  if ty.toNat < 4 then (BitVec.ofInt (typeWidth ty) x).signExtend 64 else (BitVec.ofInt (typeWidth ty) x).setWidth 64

/-! Vector results (R112, R120) -/

/-- The job `x` is `j` with the lanes of `vd` that the mask enables written, `val e` modulo the width to lane `e`; a masked-off lane keeps
its value in a register, and is zero in an entry pushed to a bobbin. Every other vector register, every mask register, tile and
accumulator is as it was. -/
structure LanesWritten (j x : Job) (vd w n mask : Nat) (val : Nat → Nat) : Prop where
  lanes  : vd < 32 → ∀ e < n, lane w (x.rv vd) e = if mask.testBit e then val e % 2 ^ w else lane w (j.rv vd) e
  pushed : 32 ≤ vd → ∃ v : VReg, (x.bobbin (vd - 32)).entries = (j.bobbin (vd - 32)).entries ++ [v] ∧
    ∀ e < n, lane w v.toNat e = if mask.testBit e then val e % 2 ^ w else 0
  others : ∀ r, r ≠ vd → x.rv r = j.rv r
  masks  : x.k = j.k
  tiles  : x.tiles = j.tiles
  accs   : x.accs = j.accs

/-- The job `x` is `j` with the whole pattern `out` written to the register `vd`, or pushed where `vd` names a bobbin. -/
structure PatternWritten (j x : Job) (vd out : Nat) : Prop where
  reg    : vd < 32 → x.rv vd = out % 2 ^ 4096
  pushed : 32 ≤ vd → (x.bobbin (vd - 32)).entries = (j.bobbin (vd - 32)).entries ++ [BitVec.ofNat 4096 out]
  others : ∀ r, r ≠ vd → x.rv r = j.rv r
  masks  : x.k = j.k
  tiles  : x.tiles = j.tiles
  accs   : x.accs = j.accs

/-- The flags the enabled lanes of a word raise together (R76, R120). -/
def lanesRaise (n mask : Nat) (res : Nat → Rounded) : Nat :=
  ((List.range n).filter mask.testBit).foldl (fun a e => a ||| (res e).2) 0

end Sys2Proof.Machine
end

