-- ==== Sys2Proof/Certificates/Slice0/Obligations.lean ====
section
/-!
DEFINITION. The statements for the provers.
-/
open Sys2Proof Sys2Proof.Machine

/-! The S engine's registers -/

/-- R98, R99, R100: each SR word of this list, at issue, writes `s[D]` with the exact result of its row, reduced to the type's width and
extended as the type says. -/
def Obligations.ScalarArithmetic : Prop :=
  ∀ (s : State) (n : Nat) (sel : Sel) (j : Job) (f : SR) (i : Instr) (r : Int),
    let w := typeWidth f.ty
    let a := typedRead f.ty (j.rs f.a.toNat)
    let b := typedRead f.ty (j.rs f.b.toNat)
    let c := typedRead f.ty (j.rs f.c.toNat)
    let ua := (j.rs f.a.toNat).setWidth w
    let ub := (j.rs f.b.toNat).setWidth w
    let m := (j.rs f.b.toNat).toNat
    (i, r) ∈ [(.add f, a + b), (.sub f, a - b), (.mul f, a * b), (.mulh f, (a * b).fdiv (2 ^ w)), (.madd f, a * b + c),
      (.div f, if b = 0 then -1 else a.tdiv b), (.rem f, if b = 0 then a else a - b * a.tdiv b), (.neg f, -a),
      (.abs f, if a < 0 then -a else a), (.min f, if a ≤ b then a else b), (.max f, if a ≤ b then b else a),
      (.and f, ((ua &&& ub).toNat : Int)), (.or f, ((ua ||| ub).toNat : Int)), (.xor f, ((ua ^^^ ub).toNat : Int)),
      (.not f, ((~~~ ua).toNat : Int)), (.shl f, if m ≥ w then 0 else (ua.toNat : Int) * 2 ^ m), (.shr f, a.fdiv (2 ^ min m w)),
      (.rol f, ((ua.rotateLeft (m % w)).toNat : Int)), (.ror f, ((ua.rotateRight (m % w)).toNat : Int)),
      (.sel f, if j.rp f.pd.toNat then (ua.toNat : Int) else ub.toNat)] →
    AtIssue s n sel j i f.g [f.d.toNat, f.a.toNat, f.b.toNat, f.c.toNat] [f.pd.toNat] →
    exec i s = .next (s.issued n sel (j.ws f.d.toNat (typedWrite f.ty r)))

/-- R99: the bit counts of the low `w` bits of `s[A]`; `clz` and `ctz` are stated by the bits they pass over. R100: `bext` extends the field
of `s[A]` at `s[B]` of length `s[C]`, cut at the type's width; `bins` puts it into the old `s[D]`, bit by bit. -/
def Obligations.ScalarBits : Prop :=
  (∀ (s : State) (n : Nat) (sel : Sel) (j : Job) (f : SR),
     let w := typeWidth f.ty
     let u := (j.rs f.a.toNat).setWidth w
     let done (r : Nat) : Host.Outcome State Fault Refusal := .next (s.issued n sel (j.ws f.d.toNat (typedWrite f.ty r)))
     let named := [f.d.toNat, f.a.toNat, f.b.toNat, f.c.toNat]
     (AtIssue s n sel j (.clz f) f.g named [f.pd.toNat] →
       ∃ r ≤ w, exec (.clz f) s = done r ∧ (∀ k < r, u.getMsbD k = false) ∧ (r < w → u.getMsbD r = true)) ∧
     (AtIssue s n sel j (.ctz f) f.g named [f.pd.toNat] →
       ∃ r ≤ w, exec (.ctz f) s = done r ∧ (∀ k < r, u.getLsbD k = false) ∧ (r < w → u.getLsbD r = true)) ∧
     (AtIssue s n sel j (.popc f) f.g named [f.pd.toNat] →
       exec (.popc f) s = done ((List.range w).countP fun k => u.getLsbD k))) ∧
  (∀ (s : State) (n : Nat) (sel : Sel) (j : Job) (f : SR),
     let w := typeWidth f.ty
     let a := j.rs f.a.toNat
     let pos := (j.rs f.b.toNat).toNat
     let len := (j.rs f.c.toNat).toNat
     let field := a.extractLsb' pos (min len (w - pos))
     let named := [f.d.toNat, f.a.toNat, f.b.toNat, f.c.toNat]
     (AtIssue s n sel j (.bext f) f.g named [f.pd.toNat] →
       exec (.bext f) s = .next (s.issued n sel (j.ws f.d.toNat (typedWrite f.ty
         (if pos ≥ w ∨ len = 0 then 0 else if f.ty.toNat < 4 then field.toInt else (field.toNat : Int)))))) ∧
     (AtIssue s n sel j (.bins f) f.g named [] →
       ∃ r : BitVec w, exec (.bins f) s = .next (s.issued n sel (j.ws f.d.toNat (typedWrite f.ty (r.toNat : Int)))) ∧
         ∀ k < w, r.getLsbD k = if pos ≤ k ∧ k < pos + len then a.getLsbD (k - pos) else (j.rs f.d.toNat).getLsbD k))

/-- R98, R99: a compare writes `p[PD]` and nothing else. R101: the predicate forms; A and B name predicates. -/
def Obligations.ScalarPredicates : Prop :=
  (∀ (s : State) (n : Nat) (sel : Sel) (j : Job) (f : SR) (i : Instr) (r : Bool),
     let a := typedRead f.ty (j.rs f.a.toNat)
     let b := typedRead f.ty (j.rs f.b.toNat)
     (i, r) ∈ [(.cmpeq f, decide (a = b)), (.cmpne f, decide (a ≠ b)), (.cmplt f, decide (a < b)), (.cmple f, decide (a ≤ b))] →
     AtIssue s n sel j i f.g [f.d.toNat, f.a.toNat, f.b.toNat, f.c.toNat] [f.pd.toNat] →
     exec i s = .next (s.issued n sel (j.wp f.pd.toNat r))) ∧
  (∀ (s : State) (n : Nat) (sel : Sel) (j : Job) (f : SR) (i : Instr) (r : Bool),
     let a := j.rp f.a.toNat
     let b := j.rp f.b.toNat
     (i, r) ∈ [(.pand f, a && b), (.por f, a || b), (.pxor f, a != b), (.pnot f, !a)] →
     AtIssue s n sel j i f.g [] [f.pd.toNat, f.a.toNat, f.b.toNat] →
     exec i s = .next (s.issued n sel (j.wp f.pd.toNat r)))

/-- R101: `mkva` builds the address of an offset of a die; out of range it traps with cause 0x03 and writes nothing. R102: the SI words,
their immediate sign-extended from 48 bits in place of the second source. -/
def Obligations.ScalarImmediates : Prop :=
  (∀ (s : State) (n : Nat) (sel : Sel) (j : Job) (f : SR),
     let a := (j.rs f.a.toNat).toNat
     let b := (j.rs f.b.toNat).toNat
     AtIssue s n sel j (.mkva f) f.g [f.d.toNat, f.a.toNat, f.b.toNat, f.c.toNat] [] →
     (a ≤ 7 → b < 2 ^ 49 → exec (.mkva f) s = .next (s.issued n sel (j.ws f.d.toNat (BitVec.ofNat 64 (a * 2 ^ 49 + b))))) ∧
     (a > 7 ∨ b ≥ 2 ^ 49 → j.trapHeld sel = false →
       exec (.mkva f) s = .next ((s.takeTrap n sel (wordTrap 0x03 0 (.mkva f))).unstalled n sel.engine))) ∧
  (∀ (s : State) (n : Nat) (sel : Sel) (j : Job) (f : SI),
     let w := typeWidth f.ty
     let a := typedRead f.ty (j.rs f.a.toNat)
     let ua := (j.rs f.a.toNat).setWidth w
     let imm : Word := f.imm.signExtend 64
     let ui := imm.setWidth w
     let m := f.imm.toNat
     (∀ (i : Instr) (r : Int),
       (i, r) ∈ [(.addi f, a + typedRead f.ty imm), (.andi f, ((ua &&& ui).toNat : Int)), (.ori f, ((ua ||| ui).toNat : Int)),
         (.xori f, ((ua ^^^ ui).toNat : Int)), (.shli f, if m ≥ w then 0 else (ua.toNat : Int) * 2 ^ m), (.shri f, a.fdiv (2 ^ min m w))] →
       AtIssue s n sel j i f.g [f.d.toNat, f.a.toNat] [] →
       exec i s = .next (s.issued n sel (j.ws f.d.toNat (typedWrite f.ty r)))) ∧
     (AtIssue s n sel j (.li f) f.g [f.d.toNat] [] →
       exec (.li f) s = .next (s.issued n sel (j.ws f.d.toNat (if f.ty.toNat < 4 then imm else f.imm.setWidth 64)))) ∧
     (AtIssue s n sel j (.lih f) f.g [f.d.toNat] [] →
       exec (.lih f) s = .next (s.issued n sel (j.ws f.d.toNat (f.imm.extractLsb' 0 16 ++ (j.rs f.d.toNat).extractLsb' 0 48)))) ∧
     (∀ (i : Instr) (r : Bool),
       (i, r) ∈ [(.cmpeqi f, decide (a = typedRead f.ty imm)), (.cmplti f, decide (a < typedRead f.ty imm))] →
       AtIssue s n sel j i f.g [f.a.toNat] [f.pd.toNat] →
       exec i s = .next (s.issued n sel (j.wp f.pd.toNat r))))

/-! Streams, branches, loops -/

/-- R103, R104, R105: a branch to T goes to the header at T, `call` writing the address of the next section's header; it traps, with
TRAPADDR T, where T is misaligned, where its header cannot be fetched or is illegal, and where either section carries L. -/
def Obligations.Branches : Prop :=
  ∀ (s : State) (n : Nat) (sel : Sel) (j : Job) (f : SI) (i : Instr) (regs : List Nat) (target : Word) (link : Nat),
    let st := j.stream sel
    let here := (st.header.getD 0).toNat
    let imm : Word := f.imm.signExtend 64
    let t := target.toNat
    let length := if here / 2 ^ 52 % 256 = 0 then 256 else here / 2 ^ 52 % 256
    let illegal (h : Nat) : Prop := h / 2 ^ 60 % 16 ≠ 15 ∨ (h.testBit 1 ∧ ¬ h.testBit 2) ∨ (h.testBit 2 ∧ h.testBit 0)
    let traps (c : Trap) : Host.Outcome State Fault Refusal := .next ((s.takeTrap n sel c).unstalled n sel.engine)
    (i, regs, target, link) ∈ [(Instr.br f, [], BitVec.ofNat 64 st.hdr + imm, 0), (.brx f, [f.a.toNat], j.rs f.a.toNat + imm, 0),
      (.call f, [f.d.toNat], BitVec.ofNat 64 st.hdr + imm, f.d.toNat), (.ret f, [f.a.toNat], j.rs f.a.toNat, 0)] →
    AtIssue s n sel j i f.g regs [] → j.trapHeld sel = false →
    (t % 4 ≠ 0 → exec i s = traps (trap 0x06 t 0)) ∧
    (t % 4 = 0 →
      (∀ c a x, s.fetch j t 8 = .trap c a x → exec i s = traps (trap c t x)) ∧
      (∀ a, s.fetch j t 8 = .stall a → exec i s = .next (s.stalled n sel.engine a .fetch)) ∧
      (∀ bs, s.fetch j t 8 = .ok bs →
        let s1 := s.fetchLines j t 8
        let fails (c : Trap) : Host.Outcome State Fault Refusal := .next ((s1.takeTrap n sel c).unstalled n sel.engine)
        (illegal (leNat bs) → exec i s = fails (wordTrap 0x01 t i)) ∧
        (¬ illegal (leNat bs) → (leNat bs).testBit 2 ∨ here.testBit 2 → exec i s = fails (wordTrap 0x03 t i)) ∧
        (¬ illegal (leNat bs) → ¬ (leNat bs).testBit 2 → ¬ here.testBit 2 →
          exec i s = .next (s1.branched n sel (j.ws link (BitVec.ofNat 64 (st.hdr + 8 + 12 * length))) t))))

/-- R106, R107, R347: `lpent` waits while its level, or for a pipelined level a pipelined one, is active; else it makes an arming of the
level with its trip count, whose first pass here is the first from the counter on that R347 hands to this core. R107: `lpbrk` makes the pass
that S runs the last of its arming, where the level is temporal and S runs a pass of it, and traps with cause 0x03 elsewhere; `lget` reads
the counter; `lset` writes it, and traps with cause 0x03 while the level is active. -/
def Obligations.Loops : Prop :=
  (∀ (s : State) (n : Nat) (sel : Sel) (j : Job) (f : SI) (i : Instr) (regs : List Nat) (t : Nat),
     let m := f.pd.toNat
     let x := j.loop m
     let held := (j.level m).active = true ∨ (x.pipe = true ∧ ∃ k < 8, (j.loop k).pipe = true ∧ (j.level k).active = true)
     let G := if j.child ∨ x.kind = 0 then 1 else if x.kind = 1 then min j.gsize 16 else j.ndie + 1
     let g := if j.child ∨ x.kind = 0 then 0 else if x.kind = 1 then j.gidx % 16 else j.gidx / 16
     (i, regs, t) ∈ [(Instr.lpentReg f, [f.a.toNat], (j.rs f.a.toNat).toNat % 2 ^ 32), (.lpentImm f, [], f.imm.toNat % 2 ^ 32),
       (.lpentTable f, [], x.trip)] →
     AtIssue s n sel j i f.g regs [] → 0 < j.gsize →
     (held → exec i s = .next s) ∧
     (¬ held → ∃ (k : Job) (p0 : Nat), exec i s = .next (s.issued n sel k) ∧ k.kept = j.kept ∧ (∀ r, k.rs r = j.rs r) ∧
       j.rl m ≤ p0 ∧ p0 < j.rl m + G ∧ p0 % G = g % G ∧
       (k.level m).trip = t ∧ (k.level m).made = (j.level m).made + 1 ∧
       ((k.level m).active = true ↔ p0 < t ∧ ∃ e, x.body.get e = true) ∧
       k.rl m = (if (k.level m).active then p0 else 0) ∧
       ∀ l, l ≠ m → k.level l = j.level l ∧ k.rl l = j.rl l)) ∧
  (∀ (s : State) (n : Nat) (sel : Sel) (j : Job) (f : SI),
     let m := f.pd.toNat
     let traps (i : Instr) : Host.Outcome State Fault Refusal := .next ((s.takeTrap n sel (wordTrap 0x03 0 i)).unstalled n sel.engine)
     (AtIssue s n sel j (.lpbrk f) f.g [] [] →
       ((j.loop m).kind = 0 → (j.level m).mode.s = .running →
         ∃ k, exec (.lpbrk f) s = .next (s.issued n sel k) ∧ k.kept = j.kept ∧ k.level m = { j.level m with trip := (j.rl m + 1) % 2 ^ 32 } ∧
           ∀ l, k.rl l = j.rl l ∧ (l ≠ m → k.level l = j.level l)) ∧
       ((j.loop m).kind ≠ 0 ∨ (j.level m).mode.s ≠ .running → j.trapHeld sel = false → exec (.lpbrk f) s = traps (.lpbrk f))) ∧
     (AtIssue s n sel j (.lget f) f.g [f.d.toNat] [] →
       exec (.lget f) s = .next (s.issued n sel (j.ws f.d.toNat (BitVec.ofNat 64 (j.rl m))))) ∧
     (AtIssue s n sel j (.lset f) f.g [f.a.toNat] [] →
       ((j.level m).active = false → exec (.lset f) s = .next (s.issued n sel (j.wl m ((j.rs f.a.toNat).setWidth 32).toNat))) ∧
       ((j.level m).active = true → j.trapHeld sel = false → exec (.lset f) s = traps (.lset f))))

/-- R50 to R52, R93: a stream word with a fate of R52 traps with its cause; one whose guard predicate is pending waits; one whose guard does
not hold retires with no effect. R60, R52: `nop` only issues and retires, and a word whose opcode is unassigned traps with cause 0x01. R108, R279: `rdv` issues once
every earlier word of its stream has retired and its accesses have performed, and its stream waits; when every stream of the job has arrived, the waiting ones leave together and
each `rdv` retires. -/
def Obligations.StreamWords : Prop :=
  (∀ (s : State) (n : Nat) (sel : Sel) (j : Job) (e : Engine) (i : Instr),
     let pred := i.bits / 2 ^ 83 % 16
     let neg := i.bits / 2 ^ 87 % 2
     i.source = .stream e → (∀ w, i ≠ .unassignedOpcode e w) → s.turn = .stream n sel → s.job? n = some j → j.mayIssue sel = true →
     (∀ c, fateCause i.fates = some c → j.trapHeld sel = false → exec i s = .next (s.takeTrap n sel (trap c 0 (i.bits / 2 ^ 32)))) ∧
     (i.fates = [] → j.pendP pred = true → exec i s = .next s) ∧
     (i.fates = [] → j.pendP pred = false → j.rp pred = decide (neg = 1) → exec i s = .next (s.setJob n (j.retireWord sel 0)))) ∧
  (∀ (s : State) (n : Nat) (sel : Sel) (j : Job) (e : Engine) (g : Guard) (w : IWord),
     (AtIssue s n sel j (.nop e g) g [] [] → exec (.nop e g) s = .next (s.issued n sel j)) ∧
     (AtIssue s n sel j (.unassignedOpcode e w) ⟨0, 0⟩ [] [] → j.trapHeld sel = false →
       exec (.unassignedOpcode e w) s =
         .next ((s.takeTrap n sel (trap 0x01 0 (w.extractLsb' 32 64).toNat)).unstalled n sel.engine))) ∧
  (∀ (s : State) (n : Nat) (j : Job),
     (∀ (sel : Sel) (e : Engine) (g : Guard), AtIssue s n sel j (.rdv e g) g [] [] →
       let retired : Prop := (j.stream sel).out = 0 ∧ ∀ x ∈ (j.stream sel).flight, x.out = 0
       let performs : Prop := sel.engine = .s ∧ s.unfenced n sel 0xFFFF = true
       (retired → ¬ performs →
         exec (.rdv e g) s = .next (s.setJob n (j.setStream sel { j.stream sel with rdvWait := true }))) ∧
       (¬ retired ∨ performs → exec (.rdv e g) s = .next s)) ∧
     (s.job? n = some j → s.input.core = n → s.input.flag = false → j.hmode = false → j.preempt = none → j.frozen = false →
       (∀ e, ((j.streams.get e).rdvWait = true ∨ (j.streams.get e).ended = true)) →
       ∃ k, exec .rdvRelease s = .next (s.setJob n k) ∧ k.kept = j.kept ∧
         ∀ e, (k.streams.get e).rdvWait = false ∧
           (k.streams.get e).rdvs = (j.streams.get e).rdvs + if (j.streams.get e).rdvWait then 1 else 0))

/-- R40 to R48: a stream at a legal header without L passes it once each of the three waits is satisfied: the first word is next. An
illegal header traps with cause 0x01, a misaligned one with cause 0x06, and both name word 0. -/
def Obligations.SectionHeaders : Prop :=
  ∀ (s : State) (n : Nat) (sel : Sel) (j : Job),
    let st := j.stream sel
    let performs := s.unfenced n (if sel.isHandler then .hs else .s) 0xFFFF
    let order := match sel.engine with
      | .s => [Engine.v, .m, .c]
      | .v => [Engine.s, .m, .c]
      | .m => [Engine.s, .v, .c]
      | .c => [Engine.s, .v, .m]
    s.turn = .stream n sel → s.job? n = some j → j.mayIssue sel = true → st.header = none →
    (st.hdr % 4 ≠ 0 → exec .sectionIssue s = .next (s.takeTrap n sel ⟨0x06, st.hdr, 0, 0, some none⟩)) ∧
    (∀ bs, st.hdr % 4 = 0 → s.fetch j st.hdr 8 = .ok bs →
      let h := leNat bs
      let illegal : Prop := h / 2 ^ 60 % 16 ≠ 15 ∨ (h.testBit 1 ∧ ¬ h.testBit 2) ∨ (h.testBit 2 ∧ h.testBit 0)
      let sect := h / 2 ^ 40 % 4096
      (illegal → exec .sectionIssue s = .next (s.takeTrap n sel ⟨0x01, st.hdr, h, 0, some (some sect)⟩)) ∧
      (¬ illegal → ¬ h.testBit 2 → j.preempt = none → st.word = 0 → st.closed = false →
        (∀ k < 3, ∀ x, j.waitStream sel (order.getD k .s) = some x →
          let w := h / 2 ^ (28 - 12 * k) % 4096
          w = 0xFFF ∨ x.entry = 0 ∨ place sect w ≤ place sect x.rthru) →
        performs = false →
        ∃ k, exec .sectionIssue s = .next (((s.fetchLines j st.hdr 8).setJob n k).unstalled n sel.engine) ∧ k.kept = j.kept ∧
          (k.stream sel).header = some (BitVec.ofNat 64 h) ∧ (k.stream sel).word = 1 ∧ (k.stream sel).hdr = st.hdr))

/-- R356, R357: `spawn` of an entry set of the block places a record in the home die's pool while it has room, and returns the job's next
spawn ordinal; where the pool is full and there is no child queue it traps with cause 0x18, and a set out of range traps with 0x03. -/
def Obligations.Spawn : Prop :=
  ∀ (s : State) (n : Nat) (sel : Sel) (j : Job) (f : SX),
    let home := j.ctx / 1024 % 8
    let nsets := s.blk j.ctx 0x18 / 2 ^ 52 % 256
    let caplog := s.blk j.ctx 0x30 / 2 ^ 52 % 256
    let used := (s.die home).pool.length
    let limit := if j.child then 64 else 56
    let o := j.ordinal + 1
    AtIssue s n sel j (.spawn f) f.g [f.d.toNat, f.a.toNat, f.b.toNat] [] →
    (f.idx.toNat < 2 ∨ nsets ≤ f.idx.toNat → j.trapHeld sel = false →
      exec (.spawn f) s = .next ((s.takeTrap n sel (wordTrap 0x03 0 (.spawn f))).unstalled n sel.engine)) ∧
    (2 ≤ f.idx.toNat → f.idx.toNat < nsets → (s.die home).alive = true → caplog = 0 → s.unfenced n sel 0xFFFF = false →
      (used < limit →
        let r : ChildRecord := ⟨j.ctx, f.idx.toNat, j.gidx, o, j.rs f.a.toNat, j.rs f.b.toNat, BitVec.ofNat 64 (childSeed j.srseed.toNat o)⟩
        let s1 := s.updDie home fun d => { d with pool := d.pool ++ [r] }
        exec (.spawn f) s = .next (s1.issued n sel { j.ws f.d.toNat (BitVec.ofNat 64 o) with ordinal := o })) ∧
      (limit ≤ used → j.trapHeld sel = false →
        exec (.spawn f) s = .next ((s.takeTrap n sel (trap 0x18 0 used)).unstalled n sel.engine)))

/-! Memory -/

/-- R232, R233, R271: `ld` of an address below 2^52, aligned on its size, whose read is granted, once no earlier access of its class is
left to perform, writes the bytes of memory there to `s[D]`, extended as the type says, and changes no byte; a wide address traps with cause 0x07, a misaligned one with 0x06. -/
def Obligations.Loads : Prop :=
  ∀ (s : State) (n : Nat) (sel : Sel) (j : Job) (f : SM),
    let va := (j.rs f.a.toNat + j.rs f.b.toNat * BitVec.ofNat 64 (2 ^ f.scale.toNat) + f.disp.signExtend 64).toNat
    let w := typeWidth f.ty
    let size := w / 8
    let traps (t : Trap) : Host.Outcome State Fault Refusal := .next ((s.takeTrap n sel t).unstalled n sel.engine)
    AtIssue s n sel j (.ld f) f.g [f.d.toNat, f.a.toNat, f.b.toNat, f.c.toNat, f.e.toNat, f.f.toNat] [] →
    (∀ bs s1, va < 2 ^ 52 → va % size = 0 → s.behind n sel f.cls.toNat none = false → s.jobLoad j va size = .ok (bs, s1) →
      exec (.ld f) s = .next (s1.issued n sel (j.ws f.d.toNat
        (if f.ty.toNat < 4 then (BitVec.ofNat w (leNat bs)).signExtend 64 else BitVec.ofNat 64 (leNat bs)))) ∧
      (∀ a, s1.byte a = s.byte a) ∧
      (∀ ps, s.span j.core j.ctx j.wid j.conf .read va size = .at ps → bs = ps.flatMap fun p => s.readPa p.1 p.2)) ∧
    (va ≥ 2 ^ 52 → j.trapHeld sel = false → exec (.ld f) s = traps (trap 0x07 va 0)) ∧
    (va < 2 ^ 52 → va % size ≠ 0 → j.trapHeld sel = false → exec (.ld f) s = traps (trap 0x06 va 0))

/-- R232, R234, R271: `st` of an address below 2^52, aligned on its size, whose write is granted, once no earlier access of its class is
left to perform, stores the low bytes of `s[D]` at the pieces of memory the address translates to, and changes no other byte. -/
def Obligations.Stores : Prop :=
  ∀ (s : State) (n : Nat) (sel : Sel) (j : Job) (f : SM),
    let va := (j.rs f.a.toNat + j.rs f.b.toNat * BitVec.ofNat 64 (2 ^ f.scale.toNat) + f.disp.signExtend 64).toNat
    let size := typeWidth f.ty / 8
    let bs := leBytes size (j.rs f.d.toNat).toNat
    let traps (t : Trap) : Host.Outcome State Fault Refusal := .next ((s.takeTrap n sel t).unstalled n sel.engine)
    AtIssue s n sel j (.st f) f.g [f.d.toNat, f.a.toNat, f.b.toNat, f.c.toNat, f.e.toNat, f.f.toNat] [] →
    (∀ s1, va < 2 ^ 52 → va % size = 0 → s.behind n sel f.cls.toNat none = false → s.jobStore j va bs = .ok s1 →
      exec (.st f) s = .next (s1.issued n sel (j.observe va bs)) ∧
      ∀ ps, s.span j.core j.ctx j.wid j.conf .write va size = .at ps →
        (∀ a, (∀ p ∈ ps, a < p.1 ∨ p.1 + p.2 ≤ a) → s1.byte a = s.byte a) ∧
        (∀ pa, ps = [(pa, size)] → s1.readPa pa size = bs)) ∧
    (va ≥ 2 ^ 52 → j.trapHeld sel = false → exec (.st f) s = traps (trap 0x07 va 1)) ∧
    (va < 2 ^ 52 → va % size ≠ 0 → j.trapHeld sel = false → exec (.st f) s = traps (trap 0x06 va 0))

/-- R235, R236, R277, R285: `prf` always issues; `clean` leaves its line clean, and with `.inv` out of its slice, once nothing holds the
line and no earlier access of its class is left to perform; `fence` issues once no access of the classes of its mask is left to perform,
but for an empty mask, which traps with cause 0x03. None changes a byte of memory. -/
def Obligations.PrefetchCleanFence : Prop :=
  ∀ (s : State) (n : Nat) (sel : Sel) (j : Job),
    (∀ f : SM, AtIssue s n sel j (.prf f) f.g [f.d.toNat, f.a.toNat, f.b.toNat, f.c.toNat, f.e.toNat, f.f.toNat] [] →
      ∃ t, exec (.prf f) s = .next t ∧ (∀ a, t.byte a = s.byte a) ∧ t.job? n = (s.issued n sel j).job? n) ∧
    (∀ (f : SM) (pa k : Nat) (ps : List (Nat × Nat)),
      AtIssue s n sel j (.clean f) f.g [f.d.toNat, f.a.toNat, f.b.toNat, f.c.toNat, f.e.toNat, f.f.toNat] [] →
      let va := (j.rs f.a.toNat + j.rs f.b.toNat * BitVec.ofNat 64 (2 ^ f.scale.toNat) + f.disp.signExtend 64).toNat
      let home := s.slice (paDie pa) (sliceOf (pa / 64))
      s.span n j.ctx j.wid j.conf .read va 1 = .at ((pa, k) :: ps) →
      (home.holds (pa / 64) = true ∨ s.behind n sel f.cls.toNat none = true → exec (.clean f) s = .next s) ∧
      (home.holds (pa / 64) = false → s.behind n sel f.cls.toNat none = false →
        ∃ t, exec (.clean f) s = .next t ∧ (∀ a, t.byte a = s.byte a) ∧ t.job? n = (s.issued n sel j).job? n ∧
          ∀ l ∈ (t.slice (paDie pa) (sliceOf (pa / 64))).lines, l.line = pa / 64 → l.dirty = false ∧ f.nr = 0)) ∧
    (∀ f : SX, AtIssue s n sel j (.fence f) f.g [] [] →
      (f.imm.toNat % 2 ^ 16 ≠ 0 → s.unfenced n sel (f.imm.toNat % 2 ^ 16) = false → exec (.fence f) s = .next (s.issued n sel j)) ∧
      (f.imm.toNat % 2 ^ 16 ≠ 0 → s.unfenced n sel (f.imm.toNat % 2 ^ 16) = true → exec (.fence f) s = .next s) ∧
      (f.imm.toNat % 2 ^ 16 = 0 → j.trapHeld sel = false →
        exec (.fence f) s = .next ((s.takeTrap n sel (wordTrap 0x03 0 (.fence f))).unstalled n sel.engine)))

/-! Atomics and routines at the slices -/

/-- R288, R293, R307, R271: an atomic or `lathe` of an aligned operand whose write is granted, once no earlier access of its class is left
to perform on another line, sends its request to the slice of the operand's line, with the scalars read at issue; its destination is
pending, and the stream waits for the slice. -/
def Obligations.AtomicIssue : Prop :=
  ∀ (s : State) (n : Nat) (sel : Sel) (j : Job) (f : SM) (i : Instr) (size pa k : Nat) (ps : List (Nat × Nat)),
    let va := (j.rs f.a.toNat + f.disp.signExtend 64).toNat
    let w := typeWidth f.ty / 8
    let home := sliceOf (pa / 64)
    (i, size) ∈ [(Instr.atadd f, w), (.atand f, w), (.ator f, w), (.atxor f, w), (.atmin f, w), (.atmax f, w), (.atswp f, w),
      (.atcas f, w), (.atfadd f, if f.ty.toNat = 0x0E then 2 else 4), (.atfmax f, 4), (.atfmin f, 4), (.lathe f, 64)] →
    AtIssue s n sel j i f.g [f.d.toNat, f.a.toNat, f.b.toNat, f.c.toNat, f.e.toNat, f.f.toNat] [] →
    va < 2 ^ 52 → va % size = 0 → s.span n j.ctx j.wid j.conf .write va size = .at ((pa, k) :: ps) →
    s.behind n sel f.cls.toNat (some (pa / 64)) = false →
    ∃ t x, exec i s = .next t ∧ (∀ a, t.byte a = s.byte a) ∧
      (t.slice (paDie pa) home).input = (s.slice (paDie pa) home).input ++
        [⟨n, sel.isHandler, j.ctx, j.wid, i, va, pa, [j.rs f.b.toNat, j.rs f.c.toNat, j.rs f.e.toNat, j.rs f.f.toNat],
          Sparse.get 0 j.rmap f.rout.toNat, none⟩] ∧
      t.job? n = some x ∧ x.swait = .slice (paDie pa) home ∧ (f.d ≠ 0 → x.pendS f.d.toNat = true) ∧ (∀ r, x.rs r = j.rs r)

/-- R288, R289: the oldest waiting request of a slice joins the queue of its line, where that has a place or a queue is free, and is the
last there; else it waits on; a `.nr` form retires there (R293). R288: the line a queue holds comes into its slice, and the queue's requests may run. -/
def Obligations.SliceRequests : Prop :=
  (∀ (s : State) (r : SliceRequest) (rest : List SliceRequest),
     let d := s.input.die
     let i := s.input.slice
     let y := s.slice d i
     let line := r.pa / 64
     let old := y.queues.find? fun q => q.line = line
     let room : Prop := match old with
       | some q => q.reqs.length < 8
       | none => y.queues.length < 8
     y.input = r :: rest → s.down 0x02 (32 * d + i) = false →
     (¬ room → exec .sliceAdmission s = .next s) ∧
     (room → r.nr = true → ∀ j, s.job? r.core = some j → j.swait = .slice d i → j.heldv = none → j.heldm = none → j.heldc = none → j.rebind = [] →
       ∃ t x, exec .sliceAdmission s = .next t ∧ (t.slice d i).input = rest ∧ t.job? r.core = some x ∧ x.swait = .none ∧
         ∀ a, t.byte a = s.byte a) ∧
     (room → r.nr = false → ∃ t q c, exec .sliceAdmission s = .next t ∧ (t.slice d i).input = rest ∧
       (t.slice d i).queues.find? (fun q => q.line = line) = some q ∧
       q.reqs = (old.map (·.reqs)).getD [] ++ [{ r with code := c }] ∧
       ∀ a, t.byte a = s.byte a)) ∧
  (∀ (s : State) (r : SliceRequest) (rest : List SliceRequest),
     let d := s.input.die
     let i := s.input.slice
     let line := s.input.line
     (s.slice d i).queues.find? (fun q => q.line = line && !q.filled) = some ⟨line, false, r :: rest⟩ →
     paDie (64 * line) = d → sliceOf line = i → s.down 0x02 (32 * d + i) = false →
     ∃ t, exec .sliceLineFill s = .next t ∧ (t.slice d i).resident line = true ∧
       (∀ q ∈ (t.slice d i).queues, q.line = line → q.filled = true) ∧ ∀ a, t.byte a = s.byte a)

/-- R292, R293, R294: the built-in atomic at the head of a filled queue reads its operand, writes the new value and answers the old one, all
at once; `atcas` writes only where the operand equals `s[C]`. No other byte changes. R299, R307: a routine whose entry is not good answers
error kind 0x04; a run that ends answers its result, and the line takes the working line where the run commits. No byte outside the line
changes. -/
def Obligations.SliceAtomics : Prop :=
  (∀ (s : State) (r : SliceRequest) (f : SM) (new : Option Nat) (j : Job),
     let d := s.input.die
     let i := s.input.slice
     let w := typeWidth f.ty
     let n := if f.ty.toNat = 0x0E then 2 else if f.ty.toNat = 0x0D then 4 else w / 8
     let old := s.natPa r.pa n
     let b := (r.args.getD 0 0).toNat % 2 ^ (8 * n)
     let c := (r.args.getD 1 0).toNat % 2 ^ (8 * n)
     let less : Bool := if f.ty.toNat < 4 then decide ((BitVec.ofNat w old).toInt < (BitVec.ofNat w b).toInt) else decide (old < b)
     (s.slice d i).headRequest s.input.line = some r → s.down 0x02 (32 * d + i) = false →
     (r.instr, new) ∈ [(Instr.atadd f, some ((old + b) % 2 ^ w)), (.atand f, some (old &&& b)), (.ator f, some (old ||| b)),
       (.atxor f, some (old ^^^ b)), (.atmin f, some (if less then old else b)), (.atmax f, some (if less then b else old)),
       (.atswp f, some b), (.atcas f, if old = c then some b else none), (.atfadd f, some (sliceAddF (f.ty.toNat = 0x0E) old b)),
       (.atfmax f, some (sliceMinMaxF true old b)), (.atfmin f, some (sliceMinMaxF false old b))] →
     f.nr = 0 → s.job? r.core = some j → j.swait = .slice d i → j.heldv = none → j.heldm = none → j.heldc = none → j.rebind = [] →
     ∃ t x, exec .builtinAtomicRun s = .next t ∧
       (∀ v, new = some v → t.readPa r.pa n = leBytes n v) ∧
       (∀ a, (new = none ∨ a < r.pa ∨ r.pa + n ≤ a) → t.byte a = s.byte a) ∧
       t.job? r.core = some x ∧ x.swait = .none ∧
       (f.d ≠ 0 → j.unbound f.d.toNat → x.rs f.d.toNat =
         if f.ty.toNat < 4 then (BitVec.ofNat w old).signExtend 64 else BitVec.ofNat 64 old)) ∧
  (∀ (s : State) (r : SliceRequest) (f : SM) (j : Job) (res : Word) (line : Option (List Byte)),
     let d := s.input.die
     let i := s.input.slice
     (s.slice d i).rm.active = none → (s.slice d i).headRequest s.input.line = some r → r.instr = .lathe f → r.pa / 64 = s.input.line →
     s.down 0x02 (32 * d + i) = false →
     (match r.code with
       | none => res = BitVec.ofNat 64 (2 ^ 63 + 0x04 * 2 ^ 32) ∧ line = none
       | some code =>
         let m := runWords (code.length + 1) (s.routineEntry r code)
         m.result = some res ∧ line = (if m.commit then some m.line else none)) →
     (∀ bs, line = some bs → bs.length = 64) →
     f.nr = 0 → (f.te = 0 ∨ res.getLsbD 63 = false) →
     s.job? r.core = some j → j.swait = .slice d i → j.heldv = none → j.heldm = none → j.heldc = none → j.rebind = [] →
     ∃ t x, exec .routineRun s = .next t ∧ (t.slice d i).rm.active = none ∧
       (∀ bs, line = some bs → t.readPa r.pa 64 = bs) ∧
       (∀ a, (line = none ∨ a < r.pa ∨ r.pa + 64 ≤ a) → t.byte a = s.byte a) ∧
       t.job? r.core = some x ∧ x.swait = .none ∧ (f.d ≠ 0 → j.unbound f.d.toNat → x.rs f.d.toNat = res))

/-- R297, R298, R299: a slice word that writes a register does so, goes on at the next word and costs its cycles, while they stay within 48.
R298, R299: the line words read and write the working line at an aligned place within it, extended as the word says; at any other place the
run aborts with error kind 0x02. -/
def Obligations.SliceDataWords : Prop :=
  (∀ (s : State) (d k : Nat) (m : RoutineMachine) (x a b : BitVec 3) (imm : BitVec 24) (low : BitVec 18) (t : BitVec 1)
     (i : Instr) (cost : Nat) (v : Word),
     let ga := Sparse.get 0 m.g a.toNat
     let gb := Sparse.get 0 m.g b.toNat
     let less : Bool := if t = 1 then decide (ga.toNat < gb.toNat) else decide (ga.toInt < gb.toInt)
     let w := if t = 1 then 16 else 32
     (i, cost, v) ∈ [(Instr.sliceLi x imm, 1, imm.signExtend 64), (.sliceAddi x a low, 1, ga + low.signExtend 64),
       (.sliceAdd x a b, 1, ga + gb), (.sliceSub x a b, 1, ga - gb), (.sliceAnd x a b, 1, ga &&& gb), (.sliceOr x a b, 1, ga ||| gb),
       (.sliceXor x a b, 1, ga ^^^ gb), (.sliceShl x a b, 1, ga <<< gb.toNat), (.sliceShr x a b, 1, ga >>> gb.toNat),
       (.sliceSra x a b, 1, ga.sshiftRight (min gb.toNat 63)), (.sliceMul x a b, 4, ga * gb),
       (.sliceMin x a b t, 1, if less then ga else gb), (.sliceMax x a b t, 1, if less then gb else ga),
       (.sliceFadd x a b t, 3, BitVec.ofNat 64 (sliceAddF (t = 1) (ga.toNat % 2 ^ w) (gb.toNat % 2 ^ w))),
       (.sliceFmax x a b, 2, BitVec.ofNat 64 (sliceMinMaxF true (ga.toNat % 2 ^ 32) (gb.toNat % 2 ^ 32))),
       (.sliceFmin x a b, 2, BitVec.ofNat 64 (sliceMinMaxF false (ga.toNat % 2 ^ 32) (gb.toNat % 2 ^ 32)))] →
     s.turn = .slice d k → (s.slice d k).rm = m → m.active ≠ none → m.result = none → s.down 0x02 (32 * d + k) = false →
     (m.cyc + cost ≤ 48 → exec i s = .next (s.updSlice d k fun y => { y with
       rm := { m with cyc := m.cyc + cost, g := Sparse.set 0 m.g x.toNat v, index := m.index + 1, word := m.code[m.index + 1]? } }))) ∧
  (∀ (s : State) (d k : Nat) (m : RoutineMachine) (x a b : BitVec 3) (z : BitVec 2) (e : BitVec 1) (o : BitVec 6)
     (i : Instr) (cost at_ : Nat) (store : Option Word),
     let ga := Sparse.get 0 m.g a.toNat
     let gb := Sparse.get 0 m.g b.toNat
     let n := 2 ^ z.toNat
     (i, cost, at_, store) ∈ [(Instr.sliceLld x z e o, 1, o.toNat, none), (.sliceLldx x a z e o, 2, (ga + o.setWidth 64).toNat, none),
       (.sliceLst a z o, 1, o.toNat, some ga), (.sliceLstx a b z o, 2, (gb + o.setWidth 64).toNat, some ga)] →
     s.turn = .slice d k → (s.slice d k).rm = m → m.active ≠ none → m.result = none → m.cyc + cost ≤ 48 → m.line.length = 64 →
     s.down 0x02 (32 * d + k) = false →
     (at_ % n = 0 → at_ + n ≤ 64 →
       ∃ m1, exec i s = .next (s.updSlice d k fun y => { y with rm := m1 }) ∧
         m1.cyc = m.cyc + cost ∧ m1.index = m.index + 1 ∧ m1.word = m.code[m.index + 1]? ∧ m1.result = none ∧
         match store with
         | none =>
           m1.line = m.line ∧
           let u := leNat ((m.line.drop at_).take n)
           Sparse.get 0 m1.g x.toNat = if e = 1 then (BitVec.ofNat (8 * n) u).signExtend 64 else BitVec.ofNat 64 u
         | some v =>
           m1.g = m.g ∧ m1.line.length = 64 ∧
           ∀ q < 64, m1.line.getD q 0 = if at_ ≤ q ∧ q < at_ + n then v.extractLsb' (8 * (q - at_)) 8 else m.line.getD q 0) ∧
     (at_ % n ≠ 0 ∨ 64 < at_ + n → ∀ r, (s.slice d k).headRequest (m.active.getD 0) = some r →
       exec i s = .next ((s.updSlice d k fun y => { y with rm := .idle }).finishLathe d k r none
         (BitVec.ofNat 64 (2 ^ 63 + 0x02 * 2 ^ 32 + m.index % 32)))))

/-- R298, R299, R300: `done` ends the run with its register, bit 63 cleared, and the line takes the working line; `fail` ends it with
error kind 0x01 and its code, and the line stays; `skip` passes over words where its condition holds; a word past 48 cycles aborts with
kind 0x03. -/
def Obligations.SliceControlWords : Prop :=
  ∀ (s : State) (d k line : Nat) (m : RoutineMachine) (a b : BitVec 3) (r : SliceRequest),
    let ga := Sparse.get 0 m.g a.toNat
    let gb := Sparse.get 0 m.g b.toNat
    let free := s.updSlice d k fun y => { y with rm := .idle }
    let error (kind code : Nat) : Word := BitVec.ofNat 64 (2 ^ 63 + kind * 2 ^ 32 + code * 2 ^ 16 + m.index % 32)
    s.turn = .slice d k → (s.slice d k).rm = m → m.active = some line → m.result = none → s.down 0x02 (32 * d + k) = false →
    (s.slice d k).headRequest line = some r →
    (m.cyc + 1 ≤ 48 →
      exec (.sliceDone a) s = .next (free.finishLathe d k r (some m.line) (BitVec.ofNat 64 (ga.toNat % 2 ^ 63))) ∧
      (∀ c : BitVec 16, exec (.sliceFail c) s = .next (free.finishLathe d k r none (error 0x01 c.toNat))) ∧
      ∀ (c : BitVec 2) (u : BitVec 1) (n : BitVec 5),
        let lt : Bool := if u = 1 then decide (ga.toNat < gb.toNat) else decide (ga.toInt < gb.toInt)
        let holds : Bool := if c = 0 then decide (ga = gb) else if c = 1 then decide (ga ≠ gb) else if c = 2 then lt else !lt
        let next := m.index + 1 + if holds then n.toNat else 0
        exec (.sliceSkip a b c u n) s = .next (s.updSlice d k fun y => { y with
          rm := { m with cyc := m.cyc + 1, index := next, word := m.code[next]? } })) ∧
    (48 < m.cyc + 1 → ∀ i ∈ [Instr.sliceDone a, .sliceAdd a a b, .sliceMul a a b, .sliceLst a 0 0],
      exec i s = .next (free.finishLathe d k r none (error 0x03 0)))

/-! Synchronisation objects and counters -/

/-- R403: on a resident semaphore with no waiters, `semw` takes its units where COUNT suffices and passes, and else waits in the queue with
COUNT as it was; `sems` adds its units and passes. A blank record is a semaphore of 0. No byte outside the record changes. -/
def Obligations.Semaphores : Prop :=
  ∀ (s : State) (n : Nat) (sel : Sel) (j : Job) (f : SX) (take give : Instr) (pa count : Nat) (o : Nat × List Byte),
    let va := (j.rs f.a.toNat).toNat
    let k := if f.b = 0 then f.imm.toNat else (j.rs f.b.toNat).toNat
    let named := [f.d.toNat, f.a.toNat, f.b.toNat]
    (take, give) ∈ [(Instr.semwReg f, Instr.semsReg f), (.semwImm f, .semsImm f)] →
    s.objectAt n j va = .ok pa → s.down 0x05 (paDie pa) = false → (s.die (paDie pa)).objects.find? (fun x => x.1 = pa) = some o →
    s.heldLine [(pa, 64)] = false → s.behind n sel f.cls.toNat none = false →
    s.waitersAt pa = [] → (s.record pa = .sem count ∨ s.record pa = .blank ∧ count = 0) → 0 < k → k < 2 ^ 32 → sel ≠ .c →
    (AtIssue s n sel j take f.g named [] →
      ∃ t x, exec take s = .next t ∧ t.job? n = some x ∧ (∀ a, a < pa ∨ pa + 64 ≤ a → t.byte a = s.byte a) ∧
        if k ≤ count then x.swait = .none ∧ t.waitersAt pa = [] ∧ t.readPa pa 64 = semBytes (count - k)
        else x.swait = .object pa ∧ t.waitersAt pa = [⟨n, sel, .units, k, 0, va, take.bits / 2 ^ 32⟩] ∧ t.readPa pa 64 = semBytes count) ∧
    (AtIssue s n sel j give f.g named [] → count + k < 2 ^ 32 →
      ∃ t, exec give s = .next t ∧ t.job? n = (s.issued n sel j).job? n ∧ (∀ a, a < pa ∨ pa + 64 ≤ a → t.byte a = s.byte a) ∧
        t.waitersAt pa = [] ∧ t.readPa pa 64 = semBytes (count + k))

/-- R401, R404, R405: `phreg` and `phdrop` complete where their roles are free to take or held to drop: they write the phaser's record, the
roles and the armed monitors, and no byte outside it; `phreg` makes a blank record a phaser of the job's micro-context and returns the phase;
the drop of the last signaller that is awaited ends the phase. A mode of 0, a role taken twice or dropped unheld traps with cause 0x03. -/
def Obligations.PhaserRoles : Prop :=
  ∀ (s : State) (n : Nat) (sel : Sel) (j : Job) (f : SX) (p : Phaser) (pa : Nat) (o : Nat × List Byte),
    let va := (j.rs f.a.toNat).toNat
    let named := [f.d.toNat, f.a.toNat, f.b.toNat]
    let mode := f.imm.toNat % 4
    let signals := f.imm.getLsbD 0
    let waits := f.imm.getLsbD 1
    let arm := f.imm.toNat / 256 % 256
    let g := j.gidx
    let traps (i : Instr) : Prop := j.trapHeld sel = false →
      ∃ t : State, exec i s = .next ((t.takeTrap n sel (wordTrap 0x03 va i)).unstalled n sel.engine) ∧ t.job? n = s.job? n ∧ ∀ a, t.byte a = s.byte a
    s.objectAt n j va = .ok pa → s.down 0x05 (paDie pa) = false → (s.die (paDie pa)).objects.find? (fun x => x.1 = pa) = some o →
    s.heldLine [(pa, 64)] = false → s.behind n sel f.cls.toNat none = false → s.waitersAt pa = [] → p.ctx = j.ctx →
    (AtIssue s n sel j (.phreg f) f.g named [] → mode ≠ 0 → (signals → ¬ p.sig.testBit g) → (waits → ¬ p.wait.testBit g) →
      (s.record pa = .phaser p ∨ s.record pa = .blank ∧ p = ⟨0, j.ctx, 0, false, 0, 0, 0, 0⟩) →
      ∃ t, exec (.phreg f) s = .next t ∧ (∃ x, t.job? n = some x ∧ (f.d ≠ 0 → j.unbound f.d.toNat → x.rs f.d.toNat = BitVec.ofNat 64 p.phase)) ∧
        (∀ a, a < pa ∨ pa + 64 ≤ a → t.byte a = s.byte a) ∧
        t.readPa pa 64 = (Phaser.mk p.phase p.ctx (p.calarm ||| arm) p.failed p.fidx (if signals then p.sig ||| 2 ^ g else p.sig)
          (if waits then p.wait ||| 2 ^ g else p.wait) p.arr).bytes) ∧
    (AtIssue s n sel j (.phdrop f) f.g named [] → mode ≠ 0 → (signals → p.sig.testBit g) → (waits → p.wait.testBit g) →
      s.record pa = .phaser p →
      let sig := if signals then p.sig - 2 ^ g else p.sig
      let arr := if signals ∧ p.arr.testBit g then p.arr - 2 ^ g else p.arr
      let ends : Prop := sig ≠ 0 ∧ sig &&& arr = sig
      ∃ t, exec (.phdrop f) s = .next t ∧ t.job? n = (s.issued n sel j).job? n ∧ (∀ a, a < pa ∨ pa + 64 ≤ a → t.byte a = s.byte a) ∧
        t.readPa pa 64 = (Phaser.mk (if ends then (p.phase + 1) % 2 ^ 32 else p.phase) p.ctx (p.calarm &&& (255 - arm)) p.failed p.fidx sig
          (if waits then p.wait - 2 ^ g else p.wait) (if ends then 0 else arr)).bytes) ∧
    (AtIssue s n sel j (.phreg f) f.g named [] → s.record pa = .phaser p →
      mode = 0 ∨ (signals ∧ p.sig.testBit g) ∨ (waits ∧ p.wait.testBit g) → traps (.phreg f)) ∧
    (AtIssue s n sel j (.phdrop f) f.g named [] → s.record pa = .phaser p →
      mode = 0 ∨ (signals ∧ ¬ p.sig.testBit g) ∨ (waits ∧ ¬ p.wait.testBit g) → traps (.phdrop f))

/-- R404, R405: on a phaser without waiters and without armed monitors, a signal of the current phase records the arrival, and the last
arrival ends the phase; `phsig` passes with PHASE, `phsw` passes only at the phase's end, `phwait` passes once its phase has ended and else
waits. No byte outside the record changes. -/
def Obligations.PhaserPhases : Prop :=
  ∀ (s : State) (n : Nat) (sel : Sel) (j : Job) (f : SX) (p : Phaser) (pa : Nat) (o : Nat × List Byte),
    let va := (j.rs f.a.toNat).toNat
    let named := [f.d.toNat, f.a.toNat, f.b.toNat]
    let g := j.gidx
    let t := (j.rs f.b.toNat).toNat % 2 ^ 32
    let arr := p.arr ||| 2 ^ g
    let last : Prop := p.sig &&& arr = p.sig
    let next : Phaser := { p with phase := (p.phase + 1) % 2 ^ 32, arr := 0 }
    let outcome (i : Instr) (q : Phaser) (ph : Nat) (held : Option WaitKind) : Prop :=
      ∃ u x, exec i s = .next u ∧ u.job? n = some x ∧ u.readPa pa 64 = q.bytes ∧ (∀ a, a < pa ∨ pa + 64 ≤ a → u.byte a = s.byte a) ∧
        match held with
        | none => x.swait = .none ∧ u.waitersAt pa = [] ∧ (f.d ≠ 0 → j.unbound f.d.toNat → x.rs f.d.toNat = BitVec.ofNat 64 ph)
        | some k => x.swait = .object pa ∧ u.waitersAt pa = [⟨n, sel, k, t, f.d.toNat, va, i.bits / 2 ^ 32⟩]
    s.objectAt n j va = .ok pa → s.down 0x05 (paDie pa) = false → (s.die (paDie pa)).objects.find? (fun x => x.1 = pa) = some o →
    s.heldLine [(pa, 64)] = false → s.behind n sel f.cls.toNat none = false →
    s.waitersAt pa = [] → s.record pa = .phaser p → p.ctx = j.ctx → p.failed = false → p.calarm = 0 → g < 128 → sel = .s ∨ sel = .hs →
    (AtIssue s n sel j (.phsig f) f.g named [] → p.sig.testBit g →
      (t = p.phase → ¬ p.arr.testBit g →
        (last → outcome (.phsig f) next next.phase none) ∧ (¬ last → outcome (.phsig f) { p with arr := arr } p.phase none)) ∧
      (phaseAhead p.phase t → outcome (.phsig f) p p.phase none) ∧
      (phaseAhead t p.phase → outcome (.phsig f) p p.phase (some .signal))) ∧
    (AtIssue s n sel j (.phwait f) f.g named [] → p.wait.testBit g →
      (phaseAhead p.phase t → outcome (.phwait f) p p.phase none) ∧
      (¬ phaseAhead p.phase t → outcome (.phwait f) p p.phase (some .phase))) ∧
    (AtIssue s n sel j (.phsw f) f.g named [] → p.sig.testBit g → p.wait.testBit g → t = p.phase → ¬ p.arr.testBit g →
      (last → outcome (.phsw f) next next.phase none) ∧ (¬ last → outcome (.phsw f) { p with arr := arr } p.phase (some .phase)))

/-- R414, R416: `calchk` of enabled monitors returns its mask where no check finds a drift, and traps with cause 0x0D and the monitor where
one does; `rdcnt` reads the counters R416 lists, and with another index has the fate of cause 0x01; `rdcyc` reads the die's cycle count. -/
def Obligations.CountersRead : Prop :=
  ∀ (s : State) (n : Nat) (sel : Sel) (j : Job) (f : SX),
    let mask := f.imm.toNat % 256
    let ms := (List.range 8).filter mask.testBit
    let cs := ((s.coresOf j.ctx).filterMap s.job?).flatMap fun k => ms.map fun m => (k.gidx, m, k.mon m)
    let drifts (m : Nat) : Bool := (calCheck (capturesOf cs m)).drift
    let home := j.ctx / 1024 % 8
    let contract := s.blk j.ctx 0x68
    let occupancy (k : Nat) : Nat := (s.slice (n / 16) k).occupancy j.ctx
    let value (v : Nat) (i : Instr) : Prop := exec i s = .next (s.issued n sel (j.ws f.d.toNat (BitVec.ofNat 64 v)))
    (AtIssue s n sel j (.calchk f) f.g [f.d.toNat] [] → mask ≠ 0 → (∀ m ∈ ms, (j.mon m).en = true) → j.ccmd = none →
      ((∀ m ∈ ms, drifts m = false) →
        ∃ t x, exec (.calchk f) s = .next t ∧ t.job? n = some x ∧ (f.d ≠ 0 → j.unbound f.d.toNat → x.rs f.d.toNat = BitVec.ofNat 64 mask) ∧
          ∀ a, t.byte a = s.byte a) ∧
      (∀ m, ms.find? drifts = some m → j.trapHeld sel = false →
        ∃ s1 : State, exec (.calchk f) s = .next ((s1.takeTrap n sel (trap 0x0D 0 m)).unstalled n sel.engine) ∧ ∀ a, s1.byte a = s.byte a)) ∧
    (AtIssue s n sel j (.rdcnt f) f.g [f.d.toNat] [] → (s.die home).alive = true →
      (∀ idx v, f.idx.toNat = idx → (idx, v) ∈ [(0, if (s.blk j.ctx 0).testBit 56 then contract % 2 ^ 32 else 0),
        (1, contract / 2 ^ 32 % 2 ^ 16), (2, s.blk j.ctx 0x140), (3, s.blk j.ctx 0x70), (0x40, ((List.range 32).map occupancy).sum)] →
        value v (.rdcnt f)) ∧
      (∀ k < 32, f.idx.toNat = 0x20 + k → value (occupancy k) (.rdcnt f))) ∧
    (4 ≤ f.idx.toNat → (f.idx.toNat < 0x20 ∨ 0x40 < f.idx.toNat) → fateCause (Instr.rdcnt f).fates = some 0x01) ∧
    (AtIssue s n sel j (.rdcyc f) f.g [f.d.toNat] [] → value (s.clock + Config.dieOffset s.resets (n / 16)) (.rdcyc f))

/-! Queues and reply streams -/

/-- R382, R384: over a well-formed queue area, `qget` and `qpeek` of a field return the current request's field, or all ones with no request
current; `qget` TOK advances CPOS by 1 and `qpeek` nothing; NEXT with no current request makes descriptor DHEAD current, opens its reply
stream and returns REQID; `qlen` returns the requests waiting or the tokens left, and traps with cause 0x01 on an IDX above 1. R385: `qwait`
with a request waiting returns how many wait; with none it waits from its first issue, and with a limit it returns 0 once that many cycles
have passed. -/
def Obligations.QueueWords : Prop :=
  (∀ (s : State) (n : Nat) (sel : Sel) (j : Job) (f : SX) (q : QArea) (d : Option QDesc),
     let named := [f.d.toNat, f.a.toNat]
     let ones := 2 ^ 64 - 1
     let answers (i : Instr) (s1 : State) (v : Nat) : Prop := exec i s = .next (s1.issued n sel (j.ws f.d.toNat (BitVec.ofNat 64 v)))
     s.queueArea j.ctx = .ok (q, d) →
     (∀ i ∈ [Instr.qget f, .qpeek f], AtIssue s n sel j i f.g named [] →
       (f.idx ≠ 1 → d = none → answers i s ones) ∧
       (∀ x, d = some x →
         (f.idx = 0 → x.tcount ≤ q.cpos → answers i s ones) ∧
         (∀ (k : BitVec 12) (v : Nat), f.idx = k → (k, v) ∈ [((2 : BitVec 12), x.maxtok), (3, x.temp), (4, x.topp), (5, x.topk), (6, x.seed), (7, x.stopw),
           (8, x.tcount), (9, x.reqid)] → answers i s v)) ∧
       (f.idx = 1 → d = none → q.dtail = q.dhead → answers i s ones)) ∧
     (∀ x bs s1, f.idx = 0 → d = some x → q.cpos < x.tcount →
       s.queueLoad j.ctx (0x40 + 64 * 2 ^ q.dlog + 4 * ((x.tstart + q.cpos) % 2 ^ 32 % 2 ^ q.tlog)) 4 = .ok bs →
       s.queueStore j.ctx 0x14 (leBytes 4 (q.cpos + 1)) = .ok s1 →
       (AtIssue s n sel j (.qget f) f.g named [] → answers (.qget f) s1 (leNat bs)) ∧
       (AtIssue s n sel j (.qpeek f) f.g named [] → answers (.qpeek f) s (leNat bs))) ∧
     (∀ bs s1, f.idx = 1 → d = none → q.pending ≠ 0 → s.queueLoad j.ctx (0x40 + 64 * (q.dhead % 2 ^ q.dlog)) 64 = .ok bs →
       let x := QDesc.ofBytes bs
       s.queueStore j.ctx 0 { q with cur := 1, cpos := 0 }.bytes = .ok s1 → s1.stream? j.ctx = none →
       (AtIssue s n sel j (.qget f) f.g named [] →
         ∃ t r, exec (.qget f) s = .next t ∧ t.job? n = (s.issued n sel (j.ws f.d.toNat (BitVec.ofNat 64 x.reqid))).job? n ∧
           t.stream? j.ctx = some r ∧ r.maxtok = x.maxtok ∧ r.accepted = 0 ∧ r.stopped = none ∧ r.offset = 0 ∧ (∀ a, t.byte a = s1.byte a)) ∧
       (AtIssue s n sel j (.qpeek f) f.g named [] → answers (.qpeek f) s x.reqid)) ∧
     (AtIssue s n sel j (.qlen f) f.g named [] →
       (f.idx = 0 → answers (.qlen f) s (q.pending - if q.cur = 1 then 1 else 0)) ∧
       (f.idx = 1 → answers (.qlen f) s (match d with
         | some x => x.tcount - q.cpos
         | none => 0)))) ∧
  (∀ (s : State) (n : Nat) (sel : Sel) (j : Job) (f : SX) (q : QArea) (d : Option QDesc),
     let now := s.clock + Config.dieOffset s.resets (n / 16)
     let waits := q.pending - if q.cur = 1 then 1 else 0
     let returns (i : Instr) (v : Nat) : Prop :=
       exec i s = .next (s.issued n sel ({ j with waitFrom := none }.ws f.d.toNat (BitVec.ofNat 64 v)))
     s.queueArea j.ctx = .ok (q, d) →
     (∀ i ∈ [Instr.qwait f, .qwaitTimeout f], AtIssue s n sel j i f.g [f.d.toNat] [] → waits ≠ 0 → returns i waits) ∧
     (AtIssue s n sel j (.qwait f) f.g [f.d.toNat] [] → waits = 0 →
       exec (.qwait f) s = .next (s.setJob n { j with waitFrom := some (j.waitFrom.getD now) })) ∧
     (AtIssue s n sel j (.qwaitTimeout f) f.g [f.d.toNat] [] → waits = 0 →
       (f.imm.toNat ≤ now - j.waitFrom.getD now → returns (.qwaitTimeout f) 0) ∧
       (now - j.waitFrom.getD now < f.imm.toNat →
         exec (.qwaitTimeout f) s = .next (s.setJob n { j with waitFrom := some (j.waitFrom.getD now) })))) ∧
  (∀ (s : State) (n : Nat) (sel : Sel) (j : Job) (f : SX), 1 < f.idx.toNat → s.turn = .stream n sel → s.job? n = some j →
     j.mayIssue sel = true → j.trapHeld sel = false →
     exec (.qlen f) s = .next (s.takeTrap n sel (trap 0x01 0 ((Instr.qlen f).bits / 2 ^ 32))))

/-- R370, R372, R386: on an open reply stream, `spin` of a token below NTOK is counted, and its string joins the bytes the stream has
released or holds back; a stopped stream discards it; an unbound stream and a token at or above NTOK trap with cause 0x14, and an `s[A]` of
more than 32 bits with 0x03. `spflush` releases what is held back, `spend` sends the final chunk and closes the stream. -/
def Obligations.ReplyStreams : Prop :=
  ∀ (s : State) (n : Nat) (sel : Sel) (j : Job) (f : SX) (q : QArea) (d : Option QDesc) (r : ReplyStream),
    let id := (j.rs f.a.toNat).toNat
    let traps (t : Trap) : Host.Outcome State Fault Refusal := .next ((s.takeTrap n sel t).unstalled n sel.engine)
    s.queueArea j.ctx = .ok (q, d) → s.stream? j.ctx = some r →
    (AtIssue s n sel j (.spin f) f.g [f.a.toNat] [] →
      (2 ^ 32 ≤ id → j.trapHeld sel = false → exec (.spin f) s = traps (wordTrap 0x03 0 (.spin f))) ∧
      (id < 2 ^ 32 → r.slot = none → j.trapHeld sel = false → exec (.spin f) s = traps (trap 0x14 0 0x01)) ∧
      (∀ k, id < 2 ^ 32 → r.slot = some k →
        let image := (Sparse.get .empty s.hub.vocab k).image
        (vocNtok image ≤ id → j.trapHeld sel = false → exec (.spin f) s = traps (trap 0x14 0 0x03)) ∧
        (id < vocNtok image → r.stopped.isSome = true → exec (.spin f) s = .next (s.issued n sel j)) ∧
        (id < vocNtok image → r.stopped = none → r.stops = [] → r.accepted + 1 < r.maxtok →
          let text := if tokSkip image id then [] else tokString image id
          ∃ t y, exec (.spin f) s = .next t ∧ t.job? n = (s.issued n sel j).job? n ∧ t.stream? j.ctx = some y ∧
            y.accepted = r.accepted + 1 ∧ y.stopped = none ∧ y.offset + y.pendB.length = r.offset + r.pendB.length + text.length ∧
            (∃ out, out ++ y.pendB = r.pendB ++ text) ∧ ∀ a, t.byte a = s.byte a))) ∧
    (AtIssue s n sel j (.spflush f) f.g [f.d.toNat, f.a.toNat] [] →
      ∃ t y, exec (.spflush f) s = .next t ∧ t.job? n = (s.issued n sel j).job? n ∧ t.stream? j.ctx = some y ∧ (∀ a, t.byte a = s.byte a) ∧
        if r.stopped.isSome then y = r else y.pendB = [] ∧ y.offset = r.offset + r.pendB.length) ∧
    (AtIssue s n sel j (.spend f) f.g [f.d.toNat, f.a.toNat] [] →
      ∃ t, exec (.spend f) s = .next t ∧ t.job? n = (s.issued n sel j).job? n ∧ t.stream? j.ctx = none ∧ (∀ a, t.byte a = s.byte a) ∧
        ∀ p, r.conn = some (.ethernet p) → r.pendB = [] → r.stopped = none → ∃ bytes, t.hub.sent = s.hub.sent ++ [⟨.ethernet p, bytes, .rod⟩] ∧
          (bytes.drop 2).take 2 = [1, 0])

/-! System registers, traps and the system words -/

/-- R178, R180, R183, R93, R125, R409, R417: `mfsr` writes to `s[D]` the register IDX names, as its fields stand, and changes nothing
else. -/
def Obligations.SystemRegisterReads : Prop :=
  ∀ (s : State) (n : Nat) (sel : Sel) (j : Job) (f : SX) (v : Nat),
    let flag (b : Bool) : Nat := if b then 1 else 0
    let x := f.idx.toNat
    let reads : Prop := exec (.mfsr f) s = .next (s.issued n sel (j.ws f.d.toNat (BitVec.ofNat 64 v)))
    AtIssue s n sel j (.mfsr f) f.g [f.d.toNat] [] →
    ((x, v) ∈ [(0x00, j.trap.cause + 256 * flag j.pend), (0x01, j.trap.stream), (0x02, j.trap.sect), (0x03, j.trap.word),
      (0x04, j.trap.stat), (0x05, j.trap.addr), (0x06, j.trap.aux), (0x07, packBits [(1, flag j.skip), (1, flag j.hmode), (1, flag j.nest)]),
      (0x08, j.rets.toNat), (0x0C, j.prerec.toNat),
      (0x10, packBits [(13, j.ctx), (3, j.core / 16), (4, j.core % 16), (7, j.gidx), (1, 0), (8, j.gsize), (3, j.ndie), (1, flag j.child)]),
      (0x11, packBits [(12, j.wid), (1, flag j.conf)]),
      (0x18, packBits [(16, j.repLeft), (16, j.repDone), (31, 0), (1, flag j.repValid)]), (0x19, j.loopsave.toNat),
      (0x40, j.fpstat.toNat), (0x41, j.fpen.toNat), (0x48, j.srseed.toNat), (0x49, j.srcntv.toNat), (0x4A, j.srcntm.toNat),
      (0x4B, j.srcntc.toNat), (0x280, (s.core n).snapseq % 2 ^ 32)] → reads) ∧
    (∀ b < 8, x = 0x20 + b → v = packBits [(4, (j.bobbin b).entries.length), (3, 0), (1, flag (j.bobbin b).bound), (1, flag (j.bobbin b).drain),
      (1, flag (j.bobbin b).exh)] → reads) ∧
    (∀ r < 8, x = 0x30 + r → v = (j.ring r).word → reads) ∧
    (∀ m < 8, ∀ p ∈ [(0, (j.mon m).cfg), (1, (j.mon m).base), (2, (j.mon m).lim), (3, (j.mon m).str), (4, (j.mon m).bnd), (6, (j.mon m).stat)],
      x = 0x100 + 32 * m + p.1 → v = p.2.toNat → reads) ∧
    (∀ k < 8, (x = 0x200 + k → v = (Sparse.get (0 : Word) j.perfsel k).toNat → reads) ∧
      (x = 0x208 + k → v = (Sparse.get (0 : Word) j.perfcnt k).toNat → reads))

/-- R6, R179, R181, R182, R409, R417: the words that write system registers replace the fields that are not RO, clear where a field is W1C,
and trap with cause 0x03 on a value the register does not take; `FPSTAT`, `FPEN` and the draw registers wait for the words of V, M and C;
`TRAPCTL` may be written in handler mode alone. -/
def Obligations.SystemRegisterWrites : Prop :=
  ∀ (s : State) (n : Nat) (sel : Sel) (j : Job) (f : SX),
    let x := f.idx.toNat
    let v := j.rs f.a.toNat
    let at_ (i : Instr) : Prop := AtIssue s n sel j i f.g [f.a.toNat] []
    let becomes (i : Instr) (k : Job) : Prop := exec i s = .next (s.issued n sel k)
    let traps (i : Instr) (c : Nat) : Prop := j.trapHeld sel = false → exec i s = .next ((s.takeTrap n sel (wordTrap c 0 i)).unstalled n sel.engine)
    (at_ (.trapctlWrite f) → x = 0x07 →
      (j.hmode = false → traps (.trapctlWrite f) 0x05) ∧
      (j.hmode = true → v.toNat / 8 = 0 → becomes (.trapctlWrite f) { j with skip := v.getLsbD 0 }) ∧
      (j.hmode = true → v.toNat / 8 ≠ 0 → traps (.trapctlWrite f) 0x02)) ∧
    (∀ k : Job, at_ (.engineSharedRegisterWrite f) → setsRes x v.toNat = false →
      (x, k) ∈ [(0x40, { j with fpstat := j.fpstat &&& ~~~v }), (0x41, { j with fpen := v }), (0x48, { j with srseed := v }),
        (0x49, { j with srcntv := v }), (0x4A, { j with srcntm := v }), (0x4B, { j with srcntc := v })] →
      (j.enginesDrained = true → becomes (.engineSharedRegisterWrite f) k) ∧
      (j.enginesDrained = false → exec (.engineSharedRegisterWrite f) s = .next s)) ∧
    (∀ m < 8, at_ (.calcfgWrite f) → x = 0x100 + 32 * m → setsRes x v.toNat = false →
      let y := j.mon m
      (calConfigOk v y.base y.lim y.str = true → becomes (.calcfgWrite f) (j.setMon m { y with cfg := v })) ∧
      (calConfigOk v y.base y.lim y.str = false → traps (.calcfgWrite f) 0x03)) ∧
    (∀ m < 8, at_ (.calcmdClr f) → x = 0x100 + 32 * m + 5 →
      (v = 1 → becomes (.calcmdClr f) (j.setMon m { j.mon m with acc := 0 })) ∧
      (v = 0 → becomes (.calcmdClr f) (j.setMon m (j.mon m))) ∧ (2 ≤ v.toNat → traps (.calcmdClr f) 0x02)) ∧
    (∀ k < 8, at_ (.perfselWrite f) → x = 0x200 + k →
      (v.toNat ≤ 0x0D → becomes (.perfselWrite f) { j with perfsel := Sparse.set 0 j.perfsel k v }) ∧
      (0x0D < v.toNat → v.toNat < 256 → traps (.perfselWrite f) 0x03)) ∧
    (at_ (.mtsr f) →
      (∀ k < 8, x = 0x208 + k → becomes (.mtsr f) { j with perfcnt := Sparse.set 0 j.perfcnt k v }) ∧
      (∀ m < 8, setsRes x v.toNat = false →
        let y := j.mon m
        (∀ p ∈ [(1, { y with base := v }), (2, { y with lim := v }), (3, { y with str := v })], x = 0x100 + 32 * m + p.1 →
          (y.en = false → becomes (.mtsr f) (j.setMon m p.2)) ∧ (y.en = true → traps (.mtsr f) 0x03)) ∧
        (x = 0x100 + 32 * m + 4 → becomes (.mtsr f) (j.setMon m { y with bnd := v })) ∧
        (x = 0x100 + 32 * m + 6 → becomes (.mtsr f) (j.setMon m { y with stat := y.stat &&& ~~~(v &&& 0xFB) }))))

/-- R186, R187: a trap of a stream of a job in job mode, whose trap area can be written, writes the record registers and the 64-byte record,
sets HMODE and clears SKIP, puts the position of the first S word not retired into `RETS` (behind a header not yet passed that is word 1),
stops the stream and starts the handler's streams; without a handler the micro-context becomes faulted with the trap's cause. No other byte of memory changes, and the job keeps its registers. -/
def Obligations.TakingATrap : Prop :=
  ∀ (s : State) (n : Nat) (sel : Sel) (j : Job) (t : Trap) (pa : Nat),
    let area := s.blk j.ctx 0x28
    s.job? n = some j → sel.isHandler = false → j.hmode = false → j.swait = .none → area ≠ 0 → area % 64 = 0 →
    s.span j.core j.ctx j.wid j.conf .write area 64 = .at [(pa, 64)] → s.heldLine [(pa, 64)] = false →
    let u := s.takeTrap n sel t
    (∃ x, u.job? n = some x ∧ x.hmode = true ∧ x.skip = false ∧ x.nest = decide (j.handS = 0) ∧
      x.trap.cause = t.cause ∧ x.trap.addr = t.addr ∧ x.trap.aux = t.aux ∧ x.trap = j.trapRecord sel (Config.freeNat s.tick 0) t ∧
      x.rets = BitVec.ofNat 64 ((if sel = .s ∧ x.trap.word = 0 then j.streams.s.word % 512 else max 1 (j.streams.s.word % 512)) * 2 ^ 52 +
        j.streams.s.hdr % 2 ^ 52) ∧
      x.hs = .start j.handS ∧ x.hm = .start j.handM ∧ (x.stream sel).trapped = true ∧
      x.s = j.s ∧ x.p = j.p ∧ x.l = j.l ∧ x.v = j.v ∧ x.k = j.k ∧ x.tiles = j.tiles ∧ x.accs = j.accs ∧ x.fpstat = j.fpstat ∧
      u.readPa pa 64 = [x.trap.cause + if j.pend then 256 else 0, x.trap.stream, x.trap.sect, x.trap.word, x.trap.stat, x.trap.addr, x.trap.aux,
        x.rets.toNat].flatMap (leBytes 8)) ∧
    (∀ a, a < pa ∨ pa + 64 ≤ a → u.byte a = s.byte a) ∧
    (j.handS ≠ 0 → ∀ off, u.blk j.ctx off = s.blk j.ctx off) ∧
    (j.handS = 0 → u.blkBits j.ctx 0 63 61 = 4 ∧ u.blkBits j.ctx 0 7 0 = t.cause % 256 ∧ (u.extra j.ctx).wanted = true)

/-- R191, R192: `trap` retires and is taken with cause 0x15 and its IMM; `eret` with no trap held, once every handler word has retired and performed, ends handler mode, and the trapped stream
goes on, S at its place and a skipped word as retired; in job mode `eret` traps with cause 0x05, and between `msave` and `mrestore` with
cause 0x03. -/
def Obligations.TrapAndReturn : Prop :=
  ∀ (s : State) (n : Nat) (j : Job) (f : SX),
    let area := s.blk j.ctx 0x28
    let k := j.advance .s 0
    (∀ pa, AtIssue s n .s j (.trap f) f.g [] [] → j.hmode = false → j.swait = .none → j.handS ≠ 0 → area ≠ 0 → area % 64 = 0 →
      s.span j.core j.ctx j.wid j.conf .write area 64 = .at [(pa, 64)] → s.heldLine [(pa, 64)] = false →
      ∃ t x, exec (.trap f) s = .next t ∧ t.job? n = some x ∧ x.hmode = true ∧ x.trap = j.trapRecord .s 0 (trap 0x15 0 f.imm.toNat) ∧
        x.rets = BitVec.ofNat 64 ((if j.streams.s.word = 0 then k.streams.s.word % 512 else max 1 (k.streams.s.word % 512)) * 2 ^ 52 +
          k.streams.s.hdr % 2 ^ 52) ∧ x.hs = .start j.handS ∧ x.hm = .start j.handM ∧
        ∀ a, a < pa ∨ pa + 64 ≤ a → t.byte a = s.byte a) ∧
    (AtIssue s n .s j (.eret f) f.g [] [] → j.trapHeld .s = false →
      exec (.eret f) s = .next ((s.takeTrap n .s (wordTrap 0x05 0 (.eret f))).unstalled n .s)) ∧
    (AtIssue s n .hs j (.eret f) f.g [] [] →
      (j.msaved = .saved → j.trapHeld .hs = false →
        exec (.eret f) s = .next ((s.takeTrap n .hs (wordTrap 0x03 0 (.eret f))).unstalled n .s)) ∧
      (j.msaved ≠ .saved → j.handlerDrained = false ∨ s.unfenced n .hs 0xFFFF = true → exec (.eret f) s = .next s) ∧
      (j.msaved ≠ .saved → j.handlerDrained = true → s.unfenced n .hs 0xFFFF = false → j.pend = false →
        ∃ t x, exec (.eret f) s = .next t ∧ t.job? n = some x ∧ x.hmode = false ∧ x.skip = false ∧ x.hs = .empty ∧ x.hm = .empty ∧
          (∀ a, t.byte a = s.byte a) ∧
          (j.skips = false → x.streams.s.hdr = j.streams.s.hdr ∧ x.streams.s.word = j.streams.s.word ∧
            (x.stream (selOfCode j.trap.stream)).trapped = false ∧ x.s = j.s) ∧
          (∀ h, j.skips = true → selOfCode j.trap.stream = .v → j.repValid = false → j.streams.v.header = some h →
            j.streams.v.word < hLength h.toNat → x.streams.v.word = j.streams.v.word + 1)))

/-- R193, R194, R418: `yield` retires, and pre-empts the group where a queued micro-context of equal or higher priority could take its cores;
`snap` and a trigger from outside latch a core's record, unless the last trigger at the scope came less than 1,024 cycles before; an IMM
above 3 traps with cause 0x03. Firmware reads the record. -/
def Obligations.YieldAndSnapshots : Prop :=
  ∀ (s : State) (n : Nat) (sel : Sel) (j : Job) (f : SX),
    (AtIssue s n sel j (.yield f) f.g [] [] →
      ((∀ b ∈ s.blocks, b.1 ≠ j.ctx → s.ctxState b.1 ≠ 1 ∧ s.ctxState b.1 ≠ 3) → exec (.yield f) s = .next (s.issued n sel j)) ∧
      (∀ b ∈ s.blocks, b.1 ≠ j.ctx → s.ctxState b.1 = 1 → s.prio j.ctx ≤ s.prio b.1 → n ∈ s.wantedCores b.1 → n ∈ s.coresOf j.ctx →
        ∃ t, exec (.yield f) s = .next t ∧ t.job? n = (s.issued n sel j).job? n ∧ (t.extra j.ctx).wanted = true ∧ ∀ a, t.byte a = s.byte a)) ∧
    (AtIssue s n sel j (.snap f) f.g [] [] →
      (3 < f.imm.toNat → j.trapHeld sel = false →
        exec (.snap f) s = .next ((s.takeTrap n sel (wordTrap 0x03 0 (.snap f))).unstalled n sel.engine)) ∧
      (f.imm.toNat ≤ 3 →
        ∃ t, exec (.snap f) s = .next t ∧ t.job? n = (s.issued n sel j).job? n ∧ (∀ a, t.byte a = s.byte a) ∧
          (f.imm = 0 → Sparse.get 0 (s.die (n / 16)).lastSnap (16 + n % 16) = 0 →
            (t.core n).snap = j.snapRecord ∧ (t.core n).snapseq = ((s.core n).snapseq + 1) % 2 ^ 32) ∧
          (f.imm = 3 → t.hub.triggers = s.hub.triggers + 1))) ∧
    (s.input.kind = 0 →
      let c := s.input.core
      ∃ t, exec .snapshotTrigger s = .next t ∧ (∀ a, t.byte a = s.byte a) ∧ t.job? c = s.job? c ∧
        (let last := Sparse.get 0 (s.die (c / 16)).lastSnap (16 + c % 16)
         if last ≠ 0 ∧ s.clock + Config.dieOffset s.resets (c / 16) < last - 1 + 1024 then (t.core c).snapseq = (s.core c).snapseq
         else (t.core c).snapseq = ((s.core c).snapseq + 1) % 2 ^ 32)) ∧
    (s.ring s.input.ring = [] → exec .snapshotRecordRead s = .next { s with hub := { s.hub with
      responses := s.hub.responses ++ [⟨s.input.ring, s.input.tag, "SNAPSHOT_RECORD_READ", 0, (s.core s.input.core).snap⟩] } })

/-- R195: `hcall` writes a record of cause 0x16 to the trap area and holds with `s[D]` pending; the record registers and the mode stay. The
reply writes the status to `s[D]` and the word retires: all ones for a code of no range, 1 for an undefined code of the manual's range, the
firmware's status from 0x1000 to 0xFFFF. -/
def Obligations.HypervisorCalls : Prop :=
  ∀ (s : State) (n : Nat) (j : Job),
    (∀ (sel : Sel) (f : SX) (pa : Nat), AtIssue s n sel j (.hcall f) f.g [f.d.toNat, 1, 2, 3, 4, 5, 6] [] →
      let area := s.blk j.ctx 0x28
      let back := if sel.isHandler then j.rets.toNat else j.streams.s.word % 512 * 2 ^ 52 + j.streams.s.hdr % 2 ^ 52
      area ≠ 0 → area % 64 = 0 → s.span j.core j.ctx j.wid j.conf .write area 64 = .at [(pa, 64)] → s.heldLine [(pa, 64)] = false →
      ∃ t x, exec (.hcall f) s = .next t ∧ t.job? n = some x ∧ x.swait = .hcall f.d.toNat f.imm.toNat (j.rs 1) (j.rs 2) ∧
        (f.d ≠ 0 → x.pendS f.d.toNat = true) ∧ x.trap = j.trap ∧ x.rets = j.rets ∧ x.hmode = j.hmode ∧ x.s = j.s ∧
        t.readPa pa 64 = recordBytes j.pend (j.trapRecord sel 0 (trap 0x16 0 f.imm.toNat)) back ∧
        ∀ a, a < pa ∨ pa + 64 ≤ a → t.byte a = s.byte a) ∧
    (∀ (d imm st : Nat) (a1 a2 : Word),
      let mine (k : Job) : Bool := k.gidx = s.input.index && k.child = s.input.flag
      (s.coresOf s.input.ctx).find? (fun m => (s.job? m).any mine) = some n → s.job? n = some j →
      j.swait = .hcall d imm a1 a2 → j.pend = false →
      ((imm < 0x100 ∨ 0x300 ≤ imm ∧ imm < 0x1000 ∨ 2 ^ 16 ≤ imm) ∧ st = 2 ^ 64 - 1 ∨
        (0x104 ≤ imm ∧ imm < 0x300 ∧ imm ≠ 0x200) ∧ st = 1 ∨ (0x1000 ≤ imm ∧ imm < 2 ^ 16) ∧ st = s.input.value) →
      ∃ t x, exec .hcallReply s = .next t ∧ t.job? n = some x ∧ x.swait = .none ∧ x.pendS d = false ∧
        (0 < d → j.unbound d → x.rs d = BitVec.ofNat 64 st) ∧ ∀ a, t.byte a = s.byte a)

/-- R196, R197, R6, R284: `cxsw` in a handler first asks V, M and C to quiesce; then, once every admitted request of the core has run, it
writes the context image of the job at `s[A]`, changes no other byte, and loads the one at `s[B]` (here one that binds no pattern), its
scalars, its `FPSTAT` and its S position among them, their Res bits zero; a misaligned image address traps with cause 0x06, and in job mode
the word traps with cause 0x05. -/
def Obligations.ContextSwitch : Prop :=
  ∀ (s : State) (n : Nat) (sel : Sel) (j : Job) (f : SX),
    let a := (j.rs f.a.toNat).toNat
    let b := (j.rs f.b.toNat).toNat
    let traps (s1 : State) (t : Trap) : Prop :=
      j.trapHeld sel = false → exec (.cxsw f) s = .next ((s1.takeTrap n sel t).unstalled n sel.engine)
    AtIssue s n sel j (.cxsw f) f.g [f.a.toNat, f.b.toNat] [] →
    (sel.isHandler = false → traps s (wordTrap 0x05 0 (.cxsw f))) ∧
    (sel = .hs → j.preempt = none → j.swait = .none →
      ∃ t x p, exec (.cxsw f) s = .next t ∧ t.job? n = some x ∧ x.preempt = some p ∧ p.swap = true ∧ x.s = j.s ∧ ∀ c, t.byte c = s.byte c) ∧
    (∀ p, sel = .hs → j.preempt = some p →
      let drop := s.setJob n { j with preempt := none }
      let ready : Prop := j.quiesced p = true ∧ (s.unrun n fun _ => true) = false
      (¬ ready → exec (.cxsw f) s = .next s) ∧
      (ready → a % 4096 ≠ 0 → traps drop (trap 0x06 a 0)) ∧
      (ready → a % 4096 = 0 → b % 4096 ≠ 0 → traps drop (trap 0x06 b 0)) ∧
      (∀ pa pb q k q' k', ready → s.heldLine pa = false → s.heldLine pb = false → a % 4096 = 0 → b % 4096 = 0 → s.inOwnVault j a = true → s.inOwnVault j b = true →
        j.msaved ≠ .saved → j.hmode = true →
        s.span j.core j.ctx j.wid j.conf .write a 837632 = .at pa → s.span j.core j.ctx j.wid j.conf .read b 837632 = .at pb →
        let image := ({ j.swapOut p with preempt := none, swapped := true } : Job).contextImage
        let s1 := s.writePieces pa image
        let word (c : Sparse Byte) : Nat := ctl c 0x248 8 / 2 ^ 52 % 512 - 1
        controlBad (s.cells pb) = false → contextQueue (s.cells pb) = some q → contextCopy (s.cells pb) (word (s.cells pb)) = .ok k →
        contextQueue (s1.cells pb) = some q' → contextCopy (s1.cells pb) (word (s1.cells pb)) = .ok k' →
        (∀ t < 16, ctl (s1.cells pb) (if t < 8 then 0x2C0 + 8 * t else 0x1B0 + 8 * (t - 8)) 8 < 2 ^ 63) →
        ∃ t x, exec (.cxsw f) s = .next t ∧ t.job? n = some x ∧ t.mem = s1.mem ∧ x.preempt = none ∧
          (∀ r, 1 ≤ r → r < 64 → x.rs r = BitVec.ofNat 64 (regionNat (s1.cells pb) (0xCC000 + 8 * r) 8)) ∧
          x.fpstat = BitVec.ofNat 64 (regionNat (s1.cells pb) (0xCC400 + 0x200) 8) &&& 0x1F1F1F ∧
          x.rets = BitVec.ofNat 64 (regionNat (s1.cells pb) (0xCC400 + 0x230) 8 % 2 ^ 61)))

/-! Vectors -/

/-- R119, R120, R126, R129: every elementwise V word computes each enabled lane from its operands (a register, a bobbin's head, a scalar or
CTL in every element), writes VD or pushes to it, keeps the other registers, and records its flags; a flag FPEN enables traps with cause
0x11 and writes only the flags. -/
def Obligations.VectorElements : Prop :=
  ∀ (s : State) (n : Nat) (j : Job) (f : VR) (i : Instr) (codes : List (BitVec 6)) (op : Elem → Rounded),
    let t := f.ty.toNat
    let w := tyWidth t
    let lanes := 4096 / w
    let cs := codes.map BitVec.toNat
    let mode := (Rnd.ofCode f.rnd.toNat).getD .rne
    let mask := if f.m = 1 then j.rk f.k.toNat else 2 ^ 512 - 1
    let src (k e : Nat) : Nat := lane w (j.vsource t f.sreg.toNat f.ctl.toNat (cs.getD k 0)) e
    let res (e : Nat) : Rounded := op ⟨t, mode, decide (f.sat = 1), if mode = .sr then j.draw .v e else 0, e, src 0 e, src 1 e, src 2 e⟩
    let flags := lanesRaise lanes mask res
    (i, codes, op) ∈ [(.vadd f, [f.va, f.vb], Elem.add), (.vsub f, [f.va, f.vb], Elem.sub), (.vmul f, [f.va, f.vb], Elem.mul),
      (.vfma f, [f.va, f.vb, f.vc], Elem.fma), (.vfms f, [f.va, f.vb, f.vc], Elem.fms), (.vfnma f, [f.va, f.vb, f.vc], Elem.fnma),
      (.vdiv f, [f.va, f.vb], Elem.divide), (.vsqrt f, [f.va], Elem.fn1 .sqrt), (.vrsqrt f, [f.va], Elem.fn1 .rsqrt), (.vrcp f, [f.va], Elem.fn1 .rcp),
      (.vexp2 f, [f.va], Elem.fn1 .exp2), (.vlog2 f, [f.va], Elem.fn1 .log2), (.vtanh f, [f.va], Elem.fn1 .tanh), (.verf f, [f.va], Elem.fn1 .erf),
      (.vmin f, [f.va, f.vb], Elem.minMax false), (.vmax f, [f.va, f.vb], Elem.minMax true), (.vabs f, [f.va], Elem.absolute), (.vneg f, [f.va], Elem.negate),
      (.vand f, [f.va, f.vb], Elem.and), (.vor f, [f.va, f.vb], Elem.or), (.vxor f, [f.va, f.vb], Elem.xor), (.vnot f, [f.va], Elem.not),
      (.vshl f, [f.va, f.vb], Elem.shl), (.vshr f, [f.va, f.vb], Elem.shr), (.vmulh f, [f.va, f.vb], Elem.mulh), (.vclz f, [f.va], Elem.clz),
      (.vpopc f, [f.va], Elem.popc), (.vmov f, [f.va], Elem.mov), (.viota f, [f.va], Elem.iota), (.vclass f, [f.va], Elem.classify)] →
    AtIssue s n .v j i f.g (vrRegs f cs false) [] → j.bobbinGate (bobbinsOf cs) (bobbinsOf [f.vd.toNat]) = .ready →
    (j.fpTraps .v flags = false →
      ∃ u x, exec i s = .next u ∧ u.job? n = some x ∧ LanesWritten j x f.vd.toNat w lanes mask (fun e => (res e).1) ∧
        x.fpstat = j.fpstat ||| BitVec.ofNat 64 (flags % 32) ∧
        x.srcntv = (if mode = .sr then j.srcntv + BitVec.ofNat 64 ((lanes + 3) / 4) else j.srcntv) ∧ ∀ a, u.byte a = s.byte a) ∧
    (j.fpTraps .v flags = true → j.trapHeld .v = false →
      exec i s = .next (((s.setJob n { j with fpstat := j.fpstat ||| BitVec.ofNat 64 (flags % 32) }).takeTrap n .v
        { trap 0x11 0 flags with estat := bobbinEstat (bobbinsOf cs) }).unstalled n .v))

/-- R126: what the integer elements are. Without `.sat` a result is the exact one modulo 2^w and raises no flag; with `.sat` it is the exact
one clamped to the type's range; a shift count at or above the width shifts everything out. -/
def Obligations.VectorIntegerElements : Prop :=
  ∀ (x : Elem), x.t < 12 → x.a < 2 ^ tyWidth x.t → x.b < 2 ^ tyWidth x.t →
    let w := tyWidth x.t
    let p : Int := 2 ^ w
    let a := intOf x.t x.a
    let b := intOf x.t x.b
    let low : Int := if x.t < 4 then -2 ^ (w - 1) else 0
    let high : Int := if x.t < 4 then 2 ^ (w - 1) - 1 else 2 ^ w - 1
    let clamp (v : Int) : Int := max low (min high v)
    (∀ op v, (op, v) ∈ [(Elem.add, a + b), (Elem.sub, a - b), (Elem.mul, a * b), (Elem.negate, -a), (Elem.absolute, (a.natAbs : Int))] →
      (op x).2 = 0 ∧ (op x).1 < 2 ^ w ∧ (x.sat = false → ((op x).1 : Int) = v % p) ∧ (x.sat = true → intOf x.t (op x).1 = clamp v)) ∧
    (∀ op v, (op, v) ∈ [(Elem.minMax false, min a b), (Elem.minMax true, max a b), (Elem.mulh, a * b / p), (Elem.shr, a / 2 ^ min x.b w)] →
      (op x).2 = 0 ∧ intOf x.t (op x).1 = v) ∧
    (∀ op v, (op, v) ∈ [(Elem.and, x.a &&& x.b), (Elem.or, x.a ||| x.b), (Elem.xor, x.a ^^^ x.b), (Elem.not, 2 ^ w - 1 - x.a), (Elem.mov, x.a),
      (Elem.shl, x.a * 2 ^ x.b % 2 ^ w)] → op x = (v, 0)) ∧
    (Elem.iota x).2 = 0 ∧ ((Elem.iota x).1 : Int) = (a + x.e) % p

/-- R128, R130, R134: the comparisons write KD, an enabled lane's bit by its comparison and every other bit 0, and raise what they raise;
`vsel` takes each lane from VA or VB by the mask; the mask words write whole masks, and `kmov` and `kpop` scalars. -/
def Obligations.VectorMasks : Prop :=
  ∀ (s : State) (n : Nat) (j : Job) (f : VR) (i : Instr),
    let t := f.ty.toNat
    let w := tyWidth t
    let lanes := 4096 / w
    let cs := [f.va.toNat, f.vb.toNat]
    let mask := if f.m = 1 then j.rk f.k.toNat else 2 ^ 512 - 1
    let src (k e : Nat) : Nat := lane w (j.vsource t f.sreg.toNat f.ctl.toNat (cs.getD k 0)) e
    let a := j.rk (f.va.toNat % 8)
    let b := j.rk (f.vb.toNat % 8)
    (∀ c, (i, c) ∈ [(.vcmpeq f, VCmp.eq), (.vcmpne f, .ne), (.vcmplt f, .lt), (.vcmple f, .le), (.vcmpun f, .un)] →
      let res (e : Nat) : Bool × Nat := cmpElem c ⟨t, .rne, false, 0, e, src 0 e, src 1 e, 0⟩
      let flags := lanesRaise lanes mask fun e => (0, (res e).2)
      AtIssue s n .v j i f.g (vrRegs f cs false) [] → j.bobbinGate (bobbinsOf cs) [] = .ready → j.fpTraps .v flags = false →
      ∃ u x, exec i s = .next u ∧ u.job? n = some x ∧
        (∀ e, (x.rk f.kd.toNat).testBit e = (decide (e < lanes) && mask.testBit e && (res e).1)) ∧
        (∀ k, k ≠ f.kd.toNat → x.rk k = j.rk k) ∧ x.v = j.v ∧ x.fpstat = j.fpstat ||| BitVec.ofNat 64 (flags % 32)) ∧
    (AtIssue s n .v j (.vsel f) f.g (vrRegs f cs false) [] → j.bobbinGate (bobbinsOf cs) (bobbinsOf [f.vd.toNat]) = .ready →
      ∃ u x, exec (.vsel f) s = .next u ∧ u.job? n = some x ∧
        LanesWritten j x f.vd.toNat w lanes (2 ^ 512 - 1) fun e => if (j.rk f.k.toNat).testBit e then src 0 e else src 1 e) ∧
    (∀ v, (i, v) ∈ [(.kand f, a &&& b), (.kor f, a ||| b), (.kxor f, a ^^^ b), (.knot f, 2 ^ 512 - 1 - a), (.kmov f, a)] →
      AtIssue s n .v j i f.g [] [] → exec i s = .next (s.issued n .v (j.wk f.kd.toNat v))) ∧
    (AtIssue s n .v j (.kmovFromScalar f) f.g [f.sreg.toNat] [] →
      exec (.kmovFromScalar f) s = .next (s.issued n .v (j.wk f.kd.toNat (j.rs f.sreg.toNat).toNat))) ∧
    (AtIssue s n .v j (.kmovToScalar f) f.g [f.sreg.toNat] [] →
      exec (.kmovToScalar f) s = .next (s.issued n .v (j.ws f.sreg.toNat (BitVec.ofNat 64 a)))) ∧
    (AtIssue s n .v j (.kpop f) f.g [f.sreg.toNat] [] →
      exec (.kpop f) s = .next (s.issued n .v (j.ws f.sreg.toNat (BitVec.ofNat 64 (((List.range lanes).filter a.testBit).length)))))

/-- R131, R132, R133: a conversion writes, of its part, each enabled element converted, and keeps the others; `vmxq` writes each block's
scale byte into VB and its elements into VD; `vmxd` scales each element by its block's byte. -/
def Obligations.VectorConversions : Prop :=
  ∀ (s : State) (n : Nat) (j : Job) (f : VR),
    let st := f.ty.toNat
    let dt := f.dty.toNat
    let part := f.ctl.toNat % 4
    let mode := (Rnd.ofCode f.rnd.toNat).getD .rne
    let sat : Bool := f.sat = 1
    let mask := if f.m = 1 then j.rk f.k.toNat else 2 ^ 512 - 1
    let draw (e : Nat) : Nat := if mode = .sr then j.draw .v e else 0
    let a := j.vsource st f.sreg.toNat f.ctl.toNat f.va.toNat
    let old := if f.vd.toNat < 32 then j.rv f.vd.toNat else 0
    (AtIssue s n .v j (.vcvt f) f.g (vrRegs f [f.va.toNat] false) [] →
      j.bobbinGate (bobbinsOf [f.va.toNat]) (bobbinsOf [f.vd.toNat]) = .ready → part < cvtRatio st dt →
      let lanes := cvtLanes st dt
      let from_ (e : Nat) : Nat := if tyWidth8 st < tyWidth8 dt then part * lanes + e else e
      let place_ (e : Nat) : Nat := if tyWidth8 dt < tyWidth8 st then part * lanes + e else e
      let res (e : Nat) : Rounded := convertElem st dt mode sat (draw e) (lane (tyWidth st) a (from_ e))
      j.fpTraps .v (lanesRaise lanes mask res) = false →
      ∃ u x out, exec (.vcvt f) s = .next u ∧ u.job? n = some x ∧ PatternWritten j x f.vd.toNat out ∧
        (∀ e < lanes, lane (tyWidth dt) out (place_ e) =
          if mask.testBit e then (res e).1 % 2 ^ tyWidth dt else lane (tyWidth dt) old (place_ e)) ∧
        x.fpstat = j.fpstat ||| BitVec.ofNat 64 (lanesRaise lanes mask res % 32)) ∧
    (AtIssue s n .v j (.vcvt f) f.g (vrRegs f [f.va.toNat] false) [] → cvtRatio st dt ≤ part → j.trapHeld .v = false →
      exec (.vcvt f) s = .next ((s.takeTrap n .v (wordTrap 0x03 0 (.vcvt f))).unstalled n .v)) ∧
    (AtIssue s n .v j (.vmxq f) f.g (vrRegs f [f.va.toNat] false) [] →
      j.bobbinGate (bobbinsOf [f.va.toNat]) (bobbinsOf [f.vd.toNat]) = .ready → f.vb.toNat < 32 →
      let lanes := 4096 / tyWidth st
      let block (g : Nat) : Nat × List Nat × Nat :=
        mxBlock st dt mode (fun e => draw (32 * g + e)) ((List.range 32).map fun e => lane (tyWidth st) a (32 * g + e))
      let flags := (List.range (lanes / 32)).foldl (fun x g => x ||| (block g).2.2) 0
      part < 512 / lanes → j.fpTraps .v flags = false →
      ∃ u x out, exec (.vmxq f) s = .next u ∧ u.job? n = some x ∧ x.fpstat = j.fpstat ||| BitVec.ofNat 64 (flags % 32) ∧
        (f.vd.toNat < 32 → x.rv f.vd.toNat = out) ∧
        (32 ≤ f.vd.toNat → (x.bobbin (f.vd.toNat - 32)).entries = (j.bobbin (f.vd.toNat - 32)).entries ++ [BitVec.ofNat 4096 out]) ∧
        (f.vd ≠ f.vb → ∀ g < lanes / 32, lane 8 (x.rv f.vb.toNat) (part * (lanes / 32) + g) = (block g).1 % 256 ∧
          ∀ e < 32, lane (tyWidth dt) out (part * lanes + 32 * g + e) = (block g).2.1.getD e 0 % 2 ^ tyWidth dt) ∧
        ∀ r, r ≠ f.vd.toNat → r ≠ f.vb.toNat → x.rv r = j.rv r) ∧
    (AtIssue s n .v j (.vmxd f) f.g (vrRegs f [f.va.toNat, f.vb.toNat] false) [] →
      j.bobbinGate (bobbinsOf [f.va.toNat, f.vb.toNat]) (bobbinsOf [f.vd.toNat]) = .ready →
      let lanes := 4096 / tyWidth dt
      let scales := if f.vb = 48 then j.vsource 8 f.sreg.toNat 0 48 else j.vsource st f.sreg.toNat f.ctl.toNat f.vb.toNat
      part < 512 / lanes → j.fpTraps .v (mxDequantise st dt mode sat part draw a scales).2 = false →
      ∃ u x out, exec (.vmxd f) s = .next u ∧ u.job? n = some x ∧ PatternWritten j x f.vd.toNat out ∧
        ∀ S D e neg mant ex, tyFmt st = some S → tyFmt dt = some D → e < lanes → lane 8 scales (part * (lanes / 32) + e / 32) ≠ 255 →
          S.decode (lane (tyWidth st) a (part * lanes + e)) = .fin neg mant ex →
          lane (tyWidth dt) out e =
            (roundExact D mode sat (draw e) (exactOf neg mant (ex + lane 8 scales (part * (lanes / 32) + e / 32) - 127))).1 %
              2 ^ tyWidth dt)

/-- R135 to R139: the reductions write element 0 and clear the rest, an integer maximum or minimum being that of the enabled elements; a
scan writes the enabled lanes; `vtopk` writes the ranked values to VD and their lanes to VD + 1; `vargmax` writes the lane to the scalar;
`vrng` draws each enabled lane. A count `vtopk` does not take traps with cause 0x03. -/
def Obligations.VectorReductions : Prop :=
  ∀ (s : State) (n : Nat) (j : Job) (f : VR) (i : Instr),
    let t := f.ty.toNat
    let w := tyWidth t
    let lanes := 4096 / w
    let mode := (Rnd.ofCode f.rnd.toNat).getD .rne
    let sat : Bool := f.sat = 1
    let mask := if f.m = 1 then j.rk f.k.toNat else 2 ^ 512 - 1
    let a := j.vsource t f.sreg.toNat f.ctl.toNat f.va.toNat
    let at_ (i : Instr) (sreg : Bool) : Prop :=
      AtIssue s n .v j i f.g (vrRegs f [f.va.toNat] sreg) [] ∧ j.bobbinGate (bobbinsOf [f.va.toNat]) (bobbinsOf [f.vd.toNat]) = .ready
    (∀ r : Rounded, (i, r) ∈ [(.vredsum f, redSum t mode sat mask a), (.vredmax f, redMinMax t true mask a), (.vredmin f, redMinMax t false mask a)] →
      at_ i false → j.fpTraps .v r.2 = false →
      ∃ u x, exec i s = .next u ∧ u.job? n = some x ∧ PatternWritten j x f.vd.toNat r.1 ∧
        x.fpstat = j.fpstat ||| BitVec.ofNat 64 (r.2 % 32)) ∧
    (∀ big : Bool, t < 12 → let best := (redMinMax t big mask a).1
      (∀ e < lanes, mask.testBit e → if big then intOf t (lane w a e) ≤ intOf t best else intOf t best ≤ intOf t (lane w a e)) ∧
      ((∃ e < lanes, mask.testBit e) → ∃ e < lanes, mask.testBit e ∧ lane w a e = best)) ∧
    (∀ r : List Nat × Nat, (i, r) ∈ [(.vscan f, scanSum t mode sat (f.ctl.getLsbD 0) mask a), (.vscanmax f, scanMax t (f.ctl.getLsbD 0) mask a)] →
      at_ i false → j.fpTraps .v r.2 = false →
      ∃ u x, exec i s = .next u ∧ u.job? n = some x ∧ LanesWritten j x f.vd.toNat w lanes mask (fun e => r.1.getD e 0)) ∧
    (at_ (.vtopk f) false →
      let m := f.ctl.toNat % 1024
      let top := (ranked t (f.ctl.getLsbD 10) mask a).take m
      let refused : Prop := m = 0 ∨ lanes < m ∨ (w = 8 ∧ 256 < m) ∨ 30 < f.vd.toNat
      (¬ refused → ∃ u x, exec (.vtopk f) s = .next u ∧ u.job? n = some x ∧
        (∀ p < lanes, lane w (x.rv f.vd.toNat) p = (top.map Prod.fst).getD p 0 % 2 ^ w) ∧
        (∀ p < 4096 / topkIndexWidth t, lane (topkIndexWidth t) (x.rv (f.vd.toNat + 1)) p =
          (top.map Prod.snd).getD p (2 ^ topkIndexWidth t - 1) % 2 ^ topkIndexWidth t) ∧
        ∀ r, r ≠ f.vd.toNat → r ≠ f.vd.toNat + 1 → x.rv r = j.rv r) ∧
      (refused → j.trapHeld .v = false → exec (.vtopk f) s = .next ((s.takeTrap n .v (wordTrap 0x03 0 (.vtopk f))).unstalled n .v))) ∧
    (AtIssue s n .v j (.vargmax f) f.g (vrRegs f [f.va.toNat] true) [] → j.bobbinGate (bobbinsOf [f.va.toNat]) [] = .ready →
      ∃ u x, exec (.vargmax f) s = .next u ∧ u.job? n = some x ∧ x.v = j.v ∧
        (f.sreg ≠ 0 → j.unbound f.sreg.toNat → x.rs f.sreg.toNat = match ranked t (f.ctl.getLsbD 0) mask a with
          | [] => BitVec.ofNat 64 (2 ^ 64 - 1)
          | p :: _ => BitVec.ofNat 64 p.2)) ∧
    (at_ (.vrng f) true →
      ∃ u x, exec (.vrng f) s = .next u ∧ u.job? n = some x ∧
        LanesWritten j x f.vd.toNat 32 128 mask (fun e => rngElem t (j.rs f.sreg.toNat).toNat (a % 2 ^ 128) e))

/-- R140: the permute words only move lanes, and raise no flag: each writes its enabled lanes from the lane its entry names, `vcompress`
packs the enabled elements into all of VD and writes their count to a scalar. -/
def Obligations.VectorPermutes : Prop :=
  ∀ (s : State) (n : Nat) (j : Job) (f : VR) (i : Instr) (codes : List (BitVec 6)) (pick : Nat → Nat),
    let t := f.ty.toNat
    let w := tyWidth t
    let lanes := 4096 / w
    let mask := if f.m = 1 then j.rk f.k.toNat else 2 ^ 512 - 1
    let src (k e : Nat) : Nat := lane w (j.vsource t f.sreg.toNat f.ctl.toNat ((codes.map BitVec.toNat).getD k 0)) e
    let h := f.ctl.toNat % 2
    let gate (cs : List Nat) : Prop := j.bobbinGate (bobbinsOf cs) (bobbinsOf [f.vd.toNat]) = .ready
    let enabled := (List.range lanes).filter (j.rk f.k.toNat).testBit
    let index (e : Nat) : Nat := src 1 e % (2 * lanes)
    ((i, codes, pick) ∈ [(.vperm f, [f.va, f.vb, f.vc], fun e => if index e < lanes then src 0 (index e) else src 2 (index e - lanes)),
      (.vrot f, [f.va, f.vb], fun e => src 0 ((e + src 1 0) % lanes)),
      (.vzip f, [f.va, f.vb], fun e => src (e % 2) (e / 2 + h * (lanes / 2))),
      (.vunzip f, [f.va, f.vb], fun e => if e < lanes / 2 then src 0 (2 * e + h) else src 1 (2 * (e - lanes / 2) + h)),
      (.vtrn f, [f.va, f.vb], fun e => src (e % 2) (2 * (e / 2) + h)),
      (.vexpand f, [f.va], fun e => src 0 ((List.range e).filter (j.rk f.k.toNat).testBit).length),
      (.vrev f, [f.va], fun e => src 0 (lanes - 1 - e))] →
      AtIssue s n .v j i f.g (vrRegs f (codes.map BitVec.toNat) false) [] → gate (codes.map BitVec.toNat) →
      ∃ u x, exec i s = .next u ∧ u.job? n = some x ∧ LanesWritten j x f.vd.toNat w lanes mask pick ∧ x.fpstat = j.fpstat ∧
        ∀ a, u.byte a = s.byte a) ∧
    (codes = [f.va] → AtIssue s n .v j (.vcompress f) f.g (vrRegs f [f.va.toNat] true) [] → gate [f.va.toNat] →
      ∃ u x, exec (.vcompress f) s = .next u ∧ u.job? n = some x ∧
        LanesWritten j x f.vd.toNat w lanes (2 ^ 512 - 1) (fun e => (enabled.map (src 0)).getD e 0) ∧
        (f.sreg ≠ 0 → j.unbound f.sreg.toNat → x.rs f.sreg.toNat = BitVec.ofNat 64 enabled.length))

/-- R141, R142: the scratchpad moves read or write the enabled elements at their offsets, change nothing else, the higher lane remaining
where two store to one offset; with a misaligned enabled offset the word traps with cause 0x06 and the lowest of them, with an element out of
range with cause 0x03. R143, R144: `tld` and `tst` move the lines of a tile, `tst` being the inverse of `tld`, and `tzero` clears it; a
leased tile traps with cause 0x04, a line out of range with 0x03. -/
def Obligations.VectorMoves : Prop :=
  (∀ (s : State) (n : Nat) (j : Job) (f : VS) (i : Instr) (codes : List (BitVec 6)) (step : Nat → Nat),
    let t := f.ty.toNat
    let w := tyWidth t
    let size := w / 8
    let mask := if f.m = 1 then j.rk f.k.toNat else 2 ^ 512 - 1
    let es := (List.range (4096 / w)).filter mask.testBit
    let base := (j.rs f.sbase.toNat + f.disp.signExtend 64).toNat
    let idx := (j.rs f.sidx.toNat).toNat
    let index : BitVec 6 := BitVec.ofNat 6 (f.top.toNat / 512)
    let read (c : BitVec 6) : Nat := j.vsource t 0 0 c.toNat
    let off (e : Nat) : Nat := (base + step e) % 2 ^ 64
    let linear (e : Nat) : Nat := idx + e * size
    let strided (e : Nat) : Nat := e * idx
    let gathered (e : Nat) : Nat := lane w (read index) e * size
    let load : Prop := (i, codes, step) ∈ [(.vld f, [], linear), (.vldx f, [], strided), (.vgld f, [index], gathered)]
    let store : Prop := (i, codes, step) ∈ [(.vst f, [f.v], linear), (.vstx f, [f.v], strided), (.vgst f, [index, f.v], gathered)]
    let srcs := bobbinsOf (codes.map BitVec.toNat)
    let bad := (es.map off).filter fun o => o % size ≠ 0
    let out := (es.map off).filter fun o => 3145728 < o + size
    let traps (c : Trap) : Prop := j.trapHeld .v = false → exec i s = .next ((s.takeTrap n .v { c with estat := bobbinEstat srcs }).unstalled n .v)
    load ∨ store → AtIssue s n .v j i f.g [f.sbase.toNat, f.sidx.toNat] [] →
    (load → j.bobbinGate srcs (bobbinsOf [f.v.toNat]) = .ready) → (store → j.bobbinGate srcs [] = .ready) →
    (bad = [] → out = [] → (∀ e ∈ es, s.padStalls n (off e) size = false) →
      (load → ∃ u x, exec i s = .next u ∧ u.job? n = some x ∧ LanesWritten j x f.v.toNat w (4096 / w) mask (fun e => j.padNat (off e) size) ∧
        x.pad = j.pad ∧ ∀ a, u.byte a = s.byte a) ∧
      (store → ∃ u x, exec i s = .next u ∧ u.job? n = some x ∧ x.v = j.v ∧ (∀ a, u.byte a = s.byte a) ∧
        (∀ e ∈ es, (∀ e' ∈ es, e < e' → off e' ≠ off e) → x.padNat (off e) size = lane w (read f.v) e) ∧
        ∀ o, (∀ e ∈ es, o < off e ∨ off e + size ≤ o) → x.padNat o 1 = j.padNat o 1)) ∧
    (∀ o ∈ bad, (∀ o' ∈ bad, o ≤ o') → traps (trap 0x06 o 0)) ∧
    (∀ o ∈ out, bad = [] → (∀ o' ∈ out, o ≤ o') → traps (wordTrap 0x03 o i))) ∧
  (∀ (s : State) (n : Nat) (j : Job) (f : VS),
    let w := tyWidth f.ty.toNat
    let mask := if f.m = 1 then j.rk f.k.toNat else 2 ^ 512 - 1
    let t := topTile f.top
    let d := topDir f.top
    let x0 := if topIk f.top then (j.rs (f.top.toNat % 64)).toNat else f.top.toNat % 256
    let inRange : Prop := x0 + linesPerVector w d ≤ lineCount w d
    let traps (i : Instr) (c : Trap) : Prop := j.trapHeld .v = false → exec i s = .next ((s.takeTrap n .v c).unstalled n .v)
    (∀ i ∈ [Instr.tld f, .tst f], AtIssue s n .v j i f.g (topRegs f.top) [] →
      (j.tileLeased t = true → traps i (trap 0x04 0 t)) ∧ (j.tileLeased t = false → ¬ inRange → traps i (wordTrap 0x03 0 i))) ∧
    (AtIssue s n .v j (.tld f) f.g (topRegs f.top) [] → j.tileLeased t = false → inRange → j.bobbinGate [] (bobbinsOf [f.v.toNat]) = .ready →
      ∃ u x, exec (.tld f) s = .next u ∧ u.job? n = some x ∧
        LanesWritten j x f.v.toNat w (4096 / w) mask (fun e => lineElem w (j.tile t) d (x0 + e / lineLength w d) (e % lineLength w d))) ∧
    (AtIssue s n .v j (.tst f) f.g (topRegs f.top) [] → j.tileLeased t = false → inRange → j.bobbinGate (bobbinsOf [f.v.toNat]) [] = .ready →
      ∃ u x, exec (.tst f) s = .next u ∧ u.job? n = some x ∧ x.v = j.v ∧ x.accs = j.accs ∧ (∀ t', t' ≠ t → x.tile t' = j.tile t') ∧
        ∀ e < 4096 / w, lineElem w (x.tile t) d (x0 + e / lineLength w d) (e % lineLength w d) =
          if mask.testBit e then lane w (j.vsource f.ty.toNat 0 0 f.v.toNat) e
          else lineElem w (j.tile t) d (x0 + e / lineLength w d) (e % lineLength w d)) ∧
    (AtIssue s n .v j (.tzero f) f.g [] [] →
      (j.tileLeased t = false → exec (.tzero f) s = .next (s.issued n .v (j.setTile t 0))) ∧
      (j.tileLeased t = true → traps (.tzero f) (trap 0x04 0 t))))

/-- R122, R123, R124, R125: `rep` with a count records the repetitions left, and with a count of 0 passes the next word too; a count above
65,535 or a repetition out of range traps with cause 0x03. A repetition runs the word with its fields stepped, DONE rises and LEFT falls by 1,
and the last one ends the prefix. -/
def Obligations.RepeatPrefix : Prop :=
  (∀ (s : State) (n : Nat) (j : Job) (f : VP) (w : Nat) (i : Instr),
    let count := if f.creg = 0 then f.count.toNat else (j.rs f.creg.toNat).toNat
    AtIssue s n .v j (.rep f) f.g [f.creg.toNat] [] → s.repNext j = .word w → decode .v w = .ok i →
    (count = 0 → exec (.rep f) s = .next (s.setJob n ((j.advance .v 0).advance .v 0))) ∧
    (0 < count → count ≤ 65535 → repChecks f i count = true →
      exec (.rep f) s = .next (s.setJob n { j.advance .v 0 with repValid := true, repDone := 0, repLeft := count })) ∧
    (65535 < count ∨ (0 < count ∧ repChecks f i count = false) → j.trapHeld .v = false →
      exec (.rep f) s = .next ((s.takeTrap n .v (wordTrap 0x03 0 (.rep f))).unstalled n .v))) ∧
  (∀ (s : State) (n : Nat) (j : Job) (p : VP) (w : IWord) (bs : List Byte) (i : Instr),
    s.turn = .stream n .v → s.job? n = some j → j.mayIssue .v = true → j.repValid = true → j.streams.v.fetched = some w →
    s.fetch j (j.streams.v.wordAt (j.streams.v.word - 1)) 12 = .ok bs → candidate .v (leNat bs) = .rep p → decode .v w.toNat = .ok i →
    (∀ t, (vWord (stepWord p j.repDone i)).isSome = true → exec (stepWord p j.repDone i) s = .next t → exec .repetition s = .next t) ∧
    (∀ f, stepWord p j.repDone i = .tzero f → AtIssue s n .v j (.tzero f) f.g [] [] → j.tileLeased (topTile f.top) = false →
      ∃ t x, exec .repetition s = .next t ∧ t.job? n = some x ∧ x.tile (topTile f.top) = 0 ∧
        if j.repLeft ≤ 1 then x.repValid = false else x.repDone = j.repDone + 1 ∧ x.repLeft = j.repLeft - 1 ∧ x.streams = j.streams))

/-! The matrix engine -/

/-- R154, R156, R158, R159, R161, R177: an M word issues into a queue with room, with the scalars it reads at issue, and its command retires later; a
full queue, a queued image that issues before it, or a tile leased to the copy engine holds it; its operand checks trap with cause 0x03, and a
misaligned image address with 0x06. -/
def Obligations.MatrixIssue : Prop :=
  ∀ (s : State) (n : Nat) (sel : Sel) (j : Job) (f : MM) (h : MA) (i : Instr) (g : Guard) (regs : List Nat),
    let regsOf (t : BitVec 15) : List Nat := if topIk t then [t.toNat % 64] else []
    let vals := regs.map j.rs
    let c : MCommand := { instr := i, first := vals.getD 0 0, second := vals.getD 1 0, started := false, parts := 0,
                          sect := hSect ((j.stream sel).header.getD 0).toNat, word := (j.stream sel).word, handler := sel.isHandler,
                          queued := false, image := false }
    let held : Prop := 4 ≤ j.mqueue.length ∨ ∃ x ∈ j.mqueue, x.queued = true ∧ (x.handler = true ∨ j.streams.m.trapped = false)
    let address := (j.rs h.sbase.toNat + h.imm.signExtend 64).toNat
    (i, g, regs) ∈ [(.mma f, f.g, []), (.mmt f, f.g, regsOf f.ta ++ regsOf f.tb), (.mzero h, h.g, []), (.mscale h, h.g, []),
      (.mbias h, h.g, regsOf h.top), (.mstTile h, h.g, regsOf h.top), (.mstScratchpad h, h.g, [h.sbase.toNat]), (.mldTile h, h.g, regsOf h.top),
      (.mldScratchpad h, h.g, [h.sbase.toNat]), (.mcopy h, h.g, []), (.mskip h, h.g, []), (.msave h, h.g, [h.sbase.toNat]),
      (.mrestore h, h.g, [h.sbase.toNat])] →
    AtIssue s n sel j i g regs [] →
    (held → exec i s = .next s) ∧
    (¬ held → mIssueTrap i c.first c.second = none → (∃ t ∈ leasedTiles i, t ∈ j.cTiles) → exec i s = .next s) ∧
    (¬ held → mIssueTrap i c.first c.second = none → (∀ t ∈ leasedTiles i, t ∉ j.cTiles) →
      exec i s = .next (s.commanded n sel { j with
        mqueue := j.mqueue ++ [c],
        msaved := if sel = .hm ∧ i = .msave h then .saved else if sel = .hm ∧ i = .mrestore h then .restored else j.msaved })) ∧
    (∀ t, ¬ held → j.trapHeld sel = false →
      (i = .mma f ∧ min (kLimit f.aty.toNat) (kLimit f.bty.toNat) < f.km1.toNat + 1 ∧ t = wordTrap 0x03 0 i) ∨
      (i = .mskip h ∧ (8 ≤ h.imm.toNat % 16 ∨ 512 ≤ h.imm.toNat) ∧ t = wordTrap 0x03 0 i) ∨
      ((i = .msave h ∨ i = .mrestore h) ∧ address % 4096 ≠ 0 ∧ t = trap 0x06 address 0) ∨
      ((i = .mstScratchpad h ∨ i = .mldScratchpad h) ∧ address % 16 ≠ 0 ∧ t = trap 0x06 address 0) →
      exec i s = .next ((s.takeTrap n sel t).unstalled n sel.engine))

/-- R156, R160, R161, R164 to R176: a queued image issues again where its checks and its leases allow it; else a command whose turn it is
starts; a started one writes its result as it retires: `mma` and `mmt` each element of
the accumulator's view from the operands, `mzero` zero, `mscale`, `mbias`, `mst`, `mld` and `mcopy` their elements, `mskip` nothing but its
pops; `msave` writes its image by granules of 4,096 bytes, `mrestore` reads it. The other accumulators and the vector registers stay. -/
def Obligations.MatrixCommands : Prop :=
  ∀ (s : State) (j : Job),
    let n := s.input.core
    s.job? n = some j →
    (∀ k c, j.mqueue.findIdx? j.imageIssues = some k → j.mqueue[k]? = some c → j.mStarts = true →
      mIssueTrap c.instr c.first c.second = none → (∀ t ∈ leasedTiles c.instr, t ∉ j.cTiles) →
      exec .matrixCommandStart s = .next (s.setJob n { j with mqueue := j.mqueue.set k { c with queued := false } })) ∧
    (∀ k c, (∀ x ∈ j.mqueue, j.imageIssues x = false) → j.nextStart = some k → j.mqueue[k]? = some c → j.mStarts = true → c.queued = false →
      (match j.mayStart k with
        | .go => exec .matrixCommandStart s = .next (s.setJob n { j with mqueue := j.mqueue.set k { c with started := true } })
        | .wait => exec .matrixCommandStart s = .next s
        | .trap _ => True)) ∧
    (∀ c, j.mqueue[0]? = some c → c.started = true → j.fpen = 0 → (∀ p ∈ j.mPadRuns c.instr c.first, s.padStalls n p.1 p.2 = false) →
      let retires (claim : Job → Prop) : Prop :=
        ∃ t x, exec .matrixCommandRetire s = .next t ∧ t.job? n = some x ∧ x.mqueue = j.mqueue.drop 1 ∧ x.v = j.v ∧ x.k = j.k ∧ claim x
      let accIs (a v : Nat) (x : Job) (e : Nat → Nat → Nat) : Prop :=
        (∀ p < viewSide v, ∀ q < viewSide v, accElem v (x.acc a) p q = e p q % 2 ^ tyWidth v) ∧ ∀ b, b ≠ a → x.acc b = j.acc b
      (∀ f, c.instr = .mzero f → retires fun x => x.acc f.acc.toNat = 0 ∧ ∀ b, b ≠ f.acc.toNat → x.acc b = j.acc b) ∧
      (∀ f, c.instr = .mma f →
        let ra := j.ring f.warp.toNat
        let rb := j.ring (4 + f.weft.toNat)
        let data (r : Ring) : Array Nat := ((List.range (r.eszm1 + 1)).map (j.ringTile r)).toArray
        let scales (r : Ring) : Array Nat := ((List.range r.scl).map fun q => j.ringTile r (r.eszm1 + 1 + q)).toArray
        let v := mmaView f.aty.toNat
        f.warp.toNat ≠ 4 + f.weft.toNat → (j.binding f.warp.toNat).stop = false → (j.binding (4 + f.weft.toNat)).stop = false →
        retires fun x => x.ring f.warp.toNat = ra.pop 1 ∧ x.ring (4 + f.weft.toNat) = rb.pop 1 ∧
          accIs f.acc.toNat v x fun p q => (mmaElem f.aty.toNat f.bty.toNat (f.km1.toNat + 1)
            (if f.z = 1 then 0 else accElem v (j.acc f.acc.toNat) p q) (ringElem f.aty.toNat ra.trans (data ra) p)
            (ringElem f.bty.toNat rb.trans (data rb) q) (ringScale f.aty.toNat (scales ra) p) (ringScale f.bty.toNat (scales rb) q)).1) ∧
      (∀ f, c.instr = .mmt f →
        let y := if topIk f.tb then (if topIk f.ta then c.second else c.first).toNat else f.tb.toNat % 256
        let x0 := if topIk f.ta then c.first.toNat else f.ta.toNat % 256
        retires fun x => accIs f.acc.toNat 12 x fun p q => (mmaElem 12 12 (f.km1.toNat + 1)
          (if f.z = 1 then 0 else accElem 12 (j.acc f.acc.toNat) p q) (fun k => lineElem 64 (j.tile (topTile f.ta)) (topDir f.ta) (x0 + k) p)
          (fun k => lineElem 64 (j.tile (topTile f.tb)) (topDir f.tb) (y + k) q) (fun _ => 127) (fun _ => 127)).1) ∧
      (∀ f, c.instr = .mscale f →
        let t := f.ty.toNat
        let m := (Rnd.ofCode f.rnd.toNat).getD .rne
        ∀ F, tyFmt (viewType t) = some F → retires fun x => accIs f.acc.toNat (viewType t) x fun p q =>
          (mulVal F m (decide (f.sat = 1)) (if m = .sr then j.draw .m (viewSide (viewType t) * p + q) else 0)
            (F.decode (accElem (viewType t) (j.acc f.acc.toNat) p q)) (Fmt.f32.decode f.imm.toNat)).1) ∧
      (∀ f, c.instr = .mbias f →
        let t := f.ty.toNat
        let m := (Rnd.ofCode f.rnd.toNat).getD .rne
        let line := if topIk f.top then c.first.toNat else f.top.toNat % 256
        let term (e : Nat) : Nat := lineElem (tyWidth t) (j.tile (topTile f.top)) (topDir f.top) line e
        (∀ F S, tyFmt (viewType t) = some F → tyFmt t = some S → retires fun x => accIs f.acc.toNat (viewType t) x fun p q =>
          (addVal F m (decide (f.sat = 1)) (if m = .sr then j.draw .m (viewSide (viewType t) * p + q) else 0)
            (F.decode (accElem (viewType t) (j.acc f.acc.toNat) p q)) (S.decode (term (if f.imm.getLsbD 0 then p else q)))).1) ∧
        (t = 2 → retires fun x => accIs f.acc.toNat 2 x fun p q =>
          wrapTo 32 (clampInt 32 true (toSigned 32 (accElem 2 (j.acc f.acc.toNat) p q) + toSigned 32 (term (if f.imm.getLsbD 0 then p else q)))))) ∧
      (∀ f, c.instr = .mstScratchpad f →
        let t := f.ty.toNat
        let v := viewType t
        let m := (Rnd.ofCode f.rnd.toNat).getD .rne
        let base := (c.first + f.imm.signExtend 64).toNat
        retires fun x => x.accs = j.accs ∧ x.tiles = j.tiles ∧
          ∀ e < viewSide v * viewSide v, lane (tyWidth t) (x.padNat base (viewSide v * viewSide v * tyWidth t / 8)) e =
            (convertElem v t m (decide (f.sat = 1)) (if m = .sr then j.draw .m e else 0) (lane (tyWidth v) (j.acc f.acc.toNat) e)).1 %
              2 ^ tyWidth t) ∧
      (∀ f, c.instr = .mldScratchpad f →
        let t := f.ty.toNat
        let v := viewType t
        let base := (c.first + f.imm.signExtend 64).toNat
        retires fun x => accIs f.acc.toNat v x fun p q => (convertElem t v .rne false 0
          (lane (tyWidth t) (j.padNat base (viewSide v * viewSide v * tyWidth t / 8)) (viewSide v * p + q))).1) ∧
      (∀ f, c.instr = .mldTile f →
        let t := f.ty.toNat
        let v := viewType t
        retires fun x => accIs f.acc.toNat v x fun p q =>
          let at_ := spanPos t (decide (topDir f.top = .row)) p q
          (convertElem t v .rne false 0 (gridElem (tyWidth t) (j.tile (topTile f.top + at_.1)) at_.2.1 at_.2.2)).1) ∧
      (∀ f, c.instr = .mstTile f →
        let t := f.ty.toNat
        let v := viewType t
        let m := (Rnd.ofCode f.rnd.toNat).getD .rne
        retires fun x => x.accs = j.accs ∧
          (∀ b, b < topTile f.top ∨ topTile f.top + spanTiles t ≤ b → x.tile b = j.tile b) ∧
          ∀ p < viewSide v, ∀ q < viewSide v,
            let at_ := spanPos t (decide (topDir f.top = .row)) p q
            gridElem (tyWidth t) (x.tile (topTile f.top + at_.1)) at_.2.1 at_.2.2 = (convertElem v t m (decide (f.sat = 1))
              (if m = .sr then j.draw .m (viewSide v * p + q) else 0) (accElem v (j.acc f.acc.toNat) p q)).1 % 2 ^ tyWidth t) ∧
      (∀ f, c.instr = .mcopy f →
        (f.imm.getLsbD 0 = false → retires fun x => x.acc f.acc.toNat = j.acc f.acc2.toNat ∧ ∀ b, b ≠ f.acc.toNat → x.acc b = j.acc b) ∧
        (∀ v, f.imm.getLsbD 0 = true → (f.ty = 10 ∧ v = 13 ∨ f.ty = 11 ∧ v = 12) → retires fun x => accIs f.acc.toNat v x fun p q =>
          accElem v (j.acc f.acc2.toNat) q p)) ∧
      (∀ f, c.instr = .mskip f → (j.binding (f.imm.toNat % 16)).stop = false →
        retires fun x => x.accs = j.accs ∧ x.tiles = j.tiles ∧
          x.ring (f.imm.toNat % 16) = (j.ring (f.imm.toNat % 16)).pop (f.imm.toNat / 16 % 32 + 1)) ∧
      (∀ f s1, c.instr = .msave f →
        s.jobStore j ((c.first + f.imm.signExtend 64).toNat + 4096 * c.parts) (((j.matrixImage []).drop (4096 * c.parts)).take 4096) = .ok s1 →
        ∃ t x, exec .matrixCommandRetire s = .next t ∧ t.job? n = some x ∧ t.mem = s1.mem ∧ x.accs = j.accs ∧
          if 4096 * (c.parts + 1) < 525312 then x.mqueue = j.mqueue.set 0 { c with parts := c.parts + 1 } else x.mqueue = j.mqueue.drop 1) ∧
      (∀ f bs s1 q, c.instr = .mrestore f → s.jobLoad j (c.first + f.imm.signExtend 64).toNat 525312 = .ok (bs, s1) → imageQueue bs = some q →
        ∃ t x, exec .matrixCommandRetire s = .next t ∧ t.job? n = some x ∧ (∀ a, t.byte a = s.byte a) ∧
          x.srcntm = BitVec.ofNat 64 (leNat ((bs.drop 0x80040).take 8)) ∧ ∀ a < 8, x.acc a = leNat ((bs.drop (65536 * a)).take 65536)))

/-! The copy engine -/

/-- R95, R238, R247, R248, R251: each of the sixteen C words completes at issue where no command is before it, its target is of the kind its
row takes, its tile endpoints are in order and no M command leases their tiles: its command stands in hand with the scalars it read, its token
is pending, and the stream has passed the word, which retires with the command. A command that a trap has held issues again at its word with
what it read first. Behind a command, or a lease, the word waits; a target of another kind and a malformed tile endpoint trap with cause 0x03. -/
def Obligations.CopyIssue : Prop :=
  ∀ (s : State) (n : Nat) (j : Job) (f : CC),
    let read (x : BitVec 6) : Word := j.rs x.toNat
    let at_ (i : Instr) : Prop := AtIssue s n .c j i f.g [f.tok.toNat, f.sa.toNat, f.sd.toNat, f.recd.toNat, f.aux.toNat] []
    let number := hSect (j.streams.c.header.getD 0).toNat
    let word := j.streams.c.word
    let resumes (i : Instr) (c : CCommand) : Prop := c.instr = i ∧ c.sect = number ∧ c.word = word
    let ready (i : Instr) : Prop := at_ i ∧ (j.ccmd = none ∨ ∃ c, j.ccmd = some c ∧ c.held = true ∧ ¬ resumes i c)
    let command (i : Instr) : CCommand :=
      { instr := i, started := false, bytes := 0, sa := read f.sa, sd := read f.sd, recd := read f.recd, aux := read f.aux, record := [],
        sect := number, word := word, held := false, members := [], flags := 0 }
    let completes (i : Instr) (c : CCommand) : Prop :=
      exec i s = .next (s.commanded n .c ({ j with ccmd := some c }.setPendS f.tok.toNat true))
    let tiles (x : Word) : List Nat := ((Endpoint.ofNat x.toNat).map (·.tiles)).getD []
    let ordered (x : Word) : Prop := tileEndBad x.toNat = false
    let free (x : Word) : Prop := ordered x ∧ ∀ t ∈ tiles x, t ∉ j.mTiles
    let trapped (i : Instr) (x : Nat) : Prop := j.trapHeld .c = false → exec i s = .next ((s.takeTrap n .c (wordTrap 0x03 x i)).unstalled n .c)
    let ring : Prop := f.tgt.toNat < 8
    (ready (.cp f) → free (read f.sa) → free (read f.sd) → completes (.cp f) (command (.cp f))) ∧
    (ready (.cpr f) → ring → free (read f.sa) → completes (.cpr f) (command (.cpr f))) ∧
    (ready (.cpt f) → free (read f.sd) → completes (.cpt f) (command (.cpt f))) ∧
    (ready (.cptw f) → free (read f.sa) → completes (.cptw f) (command (.cptw f))) ∧
    (ready (.cpfill f) → free (read f.sd) → completes (.cpfill f) (command (.cpfill f))) ∧
    (ready (.csem f) → completes (.csem f) (command (.csem f))) ∧
    (ready (.csemw f) → completes (.csemw f) (command (.csemw f))) ∧
    (ready (.ringbind f) → ring → completes (.ringbind f) (command (.ringbind f))) ∧
    (ready (.bobbind f) → ¬ ring → completes (.bobbind f) (command (.bobbind f))) ∧
    (ready (.unbind f) → completes (.unbind f) (command (.unbind f))) ∧
    (ready (.ringfill f) → ring → completes (.ringfill f) (command (.ringfill f))) ∧
    (ready (.fget f) → free (read f.sd) → completes (.fget f) (command (.fget f))) ∧
    (ready (.fput f) → free (read f.sa) → completes (.fput f) (command (.fput f))) ∧
    (ready (.cgsum f) → free (read f.sd) → completes (.cgsum f) (command (.cgsum f))) ∧
    (ready (.fsum f) → free (read f.sa) → free (read f.sd) → completes (.fsum f) (command (.fsum f))) ∧
    (ready (.cprime f) → completes (.cprime f) (command (.cprime f))) ∧
    ∀ i ∈ [Instr.cp f, .cpr f, .cpt f, .cptw f, .cpfill f, .csem f, .csemw f, .ringbind f, .bobbind f, .unbind f, .ringfill f, .fget f, .fput f,
      .cgsum f, .fsum f, .cprime f],
      let ends (a d : Word) : List Nat := endpointFields i a.toNat d.toNat
      (∀ c, at_ i → j.ccmd = some c → c.held = true → resumes i c → targetOk i f = true → (∀ x ∈ ends c.sa c.sd, tileEndBad x = false) →
        (∀ t ∈ copyTiles i c.sa.toNat c.sd.toNat, t ∉ j.mTiles) → completes i { c with held := false }) ∧
      (∀ c, at_ i → j.ccmd = some c → c.held = false → exec i s = .next s) ∧
      (ready i → targetOk i f = true → (∀ x ∈ ends (read f.sa) (read f.sd), tileEndBad x = false) →
        (∃ t ∈ copyTiles i (read f.sa).toNat (read f.sd).toNat, t ∈ j.mTiles) → exec i s = .next s) ∧
      (ready i → i = .cpr f ∨ i = .ringbind f ∨ i = .ringfill f → ¬ ring → trapped i 0) ∧
      (ready i → i = .bobbind f → ring → trapped i 0) ∧
      (∀ x, ready i → targetOk i f = true → (ends (read f.sa) (read f.sd)).find? tileEndBad = some x → trapped i x)

/-- R95, R239, R247, R248, R253, R254, R255, R257, R258: a copy command in hand starts by its record; a granule carries each of its elements
from the source to the destination, converted, and no other byte of the scratchpad; the last granule done, the command retires with its status
word in its token. `csem` and `csemw` act on their semaphore, `ringbind` and `unbind` on their ring, and a port moves an entry. -/
def Obligations.CopyCommands : Prop :=
  ∀ (s : State) (j : Job) (c : CCommand) (f : CC),
    let n := s.input.core
    let retired (x : Job) : Prop := x.ccmd = none ∧ (f.tok ≠ 0 → x.pendS f.tok.toNat = false ∧
      (j.unbound f.tok.toNat → x.rs f.tok.toNat = BitVec.ofNat 64 (2 ^ 63 + c.bytes % 2 ^ 40)))
    s.job? n = some j →
    (j.ccmd = some c → c.held = false → j.cRuns = true →
      (∀ a r s1, (c.instr = .cp f ∨ c.instr = .cpfill f) → c.started = false →
        (∀ x ∈ endpointFields c.instr c.sa.toNat c.sd.toNat, (Endpoint.ofNat x).isSome = true) →
        s.readKind n j c.instr 0x51 c.recd.toNat = .ok (a, r, s1) → planTrap c.instr a (j.copyPlan c f r) none = none →
        ∃ t x, exec .copyCommandStart s = .next t ∧ t.job? n = some x ∧ x.ccmd = some { c with record := r, started := true } ∧
          ∀ a, t.byte a = s.byte a) ∧
      (∀ src dst, c.instr = .cp f → c.started = true → c.record ≠ [] →
        let p := j.copyPlan c f c.record
        let g := c.bytes / 4096
        let w := tyWidth p.dt
        let mode := (Rnd.ofCode f.rnd.toNat).getD .rne
        let at_ (d : Side) (k : Nat) : Nat := d.bitAt p.exts k / 8
        let res (k : Nat) : Rounded := convertElem p.st p.dt mode (decide (f.sat = 1)) (if mode = .sr then j.draw .c k else 0)
          (j.padNat (at_ src k) (tyWidth p.st / 8))
        p.src = some src → p.dst = some dst → src.at_.kind = .pad → dst.at_.kind = .pad → 8 ≤ w → 8 ≤ tyWidth p.st →
        c.bytes < p.bytes → j.fpen = 0 → (s.core n).exchange = [] →
        (∀ k ∈ p.granule g, ∀ k' ∈ p.granule g, k ≠ k' → at_ dst k + w / 8 ≤ at_ dst k' ∨ at_ dst k' + w / 8 ≤ at_ dst k) →
        ∃ t x fl, exec .copyGranule s = .next t ∧ t.job? n = some x ∧
          x.ccmd = some { c with bytes := min p.bytes ((g + 1) * 4096), flags := c.flags ||| fl } ∧
          (∀ k ∈ p.granule g, x.padNat (at_ dst k) (w / 8) = (res k).1 % 2 ^ w) ∧
          (∀ o, (∀ k ∈ p.granule g, o < at_ dst k ∨ at_ dst k + w / 8 ≤ o) → x.padNat o 1 = j.padNat o 1) ∧ ∀ a, t.byte a = s.byte a) ∧
      ((c.instr = .cp f ∨ c.instr = .cpfill f ∨ c.instr = .cpr f) → c.started = true → c.record ≠ [] → (j.copyPlan c f c.record).bytes ≤ c.bytes →
        ∃ t x, exec .copyCommandRetire s = .next t ∧ t.job? n = some x ∧ retired x ∧ (∀ a, t.byte a = s.byte a) ∧
          (c.instr = .cpr f → f.tgt.toNat < 8 → x.ring f.tgt.toNat = (j.ring f.tgt.toNat).push)) ∧
      (∀ pa count o, c.started = false → s.objectAt n j c.aux.toNat = .ok pa → s.down 0x05 (paDie pa) = false → s.heldLine [(pa, 64)] = false →
        (s.die (paDie pa)).objects.find? (fun x => x.1 = pa) = some o → s.waitersAt pa = [] →
        (s.record pa = .sem count ∨ s.record pa = .blank ∧ count = 0) →
        (c.instr = .csem f → count + 1 < 2 ^ 32 →
          ∃ t x, exec .copyCommandStart s = .next t ∧ t.job? n = some x ∧ x.ccmd = none ∧ t.readPa pa 64 = semBytes (count + 1) ∧
            ∀ a, a < pa ∨ pa + 64 ≤ a → t.byte a = s.byte a) ∧
        (c.instr = .csemw f → j.frozen = false →
          ∃ t x, exec .copyCommandStart s = .next t ∧ t.job? n = some x ∧ (∀ a, a < pa ∨ pa + 64 ≤ a → t.byte a = s.byte a) ∧
            if 1 ≤ count then x.ccmd = none ∧ t.readPa pa 64 = semBytes (count - 1)
            else x.ccmd = some { c with started := true } ∧ t.waitersAt pa = [⟨n, .c, .units, 1, 0, c.aux.toNat, c.instr.bits / 2 ^ 32⟩])) ∧
      (c.instr = .unbind f → c.started = false →
        ∃ t x, exec .copyCommandStart s = .next t ∧ t.job? n = some x ∧ x.ccmd = none ∧ (∀ a, t.byte a = s.byte a) ∧
          (f.tgt.toNat < 8 → (j.ring f.tgt.toNat).bound = true → (x.ring f.tgt.toNat).exh = true ∧
            ((x.binding f.tgt.toNat).stop = true ∨ (x.ring f.tgt.toNat).bound = false))) ∧
      (c.instr = .ringbind f → c.started = false → c.recd = 0 → f.tgt.toNat < 8 → (j.ring f.tgt.toNat).bound = false →
        let g := c.aux.toNat
        g < 2 ^ 21 → g / 2 ^ 18 % 4 ≤ 2 → g % 256 + (g / 2 ^ 8 % 32 + 1) * (g / 2 ^ 13 % 32 + 1 + g / 2 ^ 18 % 4) ≤ 192 →
        ∃ t x, exec .copyCommandStart s = .next t ∧ t.job? n = some x ∧ x.ccmd = none ∧ (∀ a, t.byte a = s.byte a) ∧
          let r := x.ring f.tgt.toNat
          r.bound = true ∧ r.exh = false ∧ r.count = 0 ∧ r.head = 0 ∧ r.tail = 0 ∧ r.base = g % 256 ∧ r.sizem1 = g / 2 ^ 8 % 32 ∧
            r.eszm1 = g / 2 ^ 13 % 32 ∧ r.scl = g / 2 ^ 18 % 4)) ∧
    (∀ p, let t := s.input.index
      j.patternAt t = some p → j.portRuns t = true → (j.binding t).again = false → p.mem.at_.kind = .pad → (s.core n).exchange = [] →
      (8 ≤ t → (j.bobbin (t - 8)).drain = false → j.targetExh t = false → (j.binding t).stop = false → (j.binding t).done < p.count →
        (j.bobbin (t - 8)).entries.length < 8 →
        ∃ u x e, exec .patternPortPush s = .next u ∧ u.job? n = some x ∧ (x.bobbin (t - 8)).entries = (j.bobbin (t - 8)).entries ++ [e] ∧
          (x.binding t).done = (j.binding t).done + 1 ∧ x.pad = j.pad ∧ ∀ a, u.byte a = s.byte a) ∧
      (8 ≤ t → (j.bobbin (t - 8)).drain = true → (j.bobbin (t - 8)).entries ≠ [] → (j.binding t).stop = false →
        ∃ u x, exec .patternPortDrainPop s = .next u ∧ u.job? n = some x ∧
          (x.bobbin (t - 8)).entries = (j.bobbin (t - 8)).entries.drop 1 ∧ (x.binding t).done = (j.binding t).done + 1 ∧
          ∀ a, u.byte a = s.byte a))

/-! Dispatchers and service cores -/

/-- R391: `gj.dispatch` appends and writes a ticket, or why there is none: −1 for a retired micro-context, −2 for a full queue, −3 with 256
tickets outstanding, −4 for a queue area that is not there; `gj.join` of a ticket that has ended returns its status and frees it, of an
unknown one −1, else it waits; its timeout returns 1, an interrupt abandons it. `x0` reads as zero and takes no value. -/
def Obligations.ServiceInstructions : Prop :=
  ∀ (s : State) (n : Nat) (d a b : BitVec 5),
    let c := s.service n
    let x := (c.rx a.toNat).toNat
    let negative (k : Nat) : Word := BitVec.ofNat 64 (2 ^ 64 - k)
    let answers (i : Instr) (t : State) (v : Word) : Prop := exec i s = .next (t.setService n ((c.wx d.toNat v).retire))
    (c.rx 0 = 0 ∧ ∀ v, c.wx 0 v = c) ∧
    (s.turn = .service n →
      (x < 8192 →
        (s.ctxState x = 5 → answers (.gjDispatch d a b) s (negative 1)) ∧
        (s.ctxState x ≠ 5 → s.queueVa x = 0 → answers (.gjDispatch d a b) s (negative 4)) ∧
        (s.ctxState x ≠ 5 → s.appendArea x 12 = .full → answers (.gjDispatch d a b) s (negative 2)) ∧
        (∀ q, s.ctxState x ≠ 5 → s.appendArea x 12 = .ok q → 256 ≤ (s.die (x / 1024)).tickets.length →
          answers (.gjDispatch d a b) s (negative 3)) ∧
        (∀ q t s1, s.ctxState x ≠ 5 → s.appendArea x 12 = .ok q → (s.die (x / 1024)).tickets.length < 256 →
          s.appendDispatch x ((List.range 6).map fun i => c.rx (10 + i)) (c.rx b.toNat).toNat (s.vocabVersion x) = .ok (s1, t) →
          answers (.gjDispatch d a b) s1 (BitVec.ofNat 64 t) ∧ 1 ≤ t ∧ t < 2 ^ 31)) ∧
      (s.ticket x = none → exec (.gjJoin d a b) s = .next (s.setService n (({ c with join := none }.wx d.toNat (negative 1)).retire))) ∧
      (∀ k t v, s.ticket x = some (k, t) → t.status = some v →
        ∃ u, exec (.gjJoin d a b) s = .next u ∧ u.service n = ({ c with join := none }.wx d.toNat (BitVec.ofNat 64 v)).retire ∧
          ∀ y ∈ (u.die k).tickets, y.number ≠ x) ∧
      (∀ k t, s.ticket x = some (k, t) → t.status = none →
        exec (.gjJoin d a b) s = .next (s.setService n { c with join := some (d.toNat, x, if b = 0 then none else some (c.rx b.toNat).toNat) }))) ∧
    (∀ r t m k y, s.input.index = n → c.join = some (r, t, some m) → s.ticket t = some (k, y) → y.status = none →
      exec .gjJoinTimeout s = .next (s.setService n (({ c with join := none }.wx r 1).retire))) ∧
    (s.input.index = n → exec .serviceCoreInterrupt s = .next (s.setService n { c with join := none }))

/-- R23, R24, R27, R334, R335, R337, R358: a decision of a dispatcher with one block. A bound block all of whose jobs have finished, with no
child and no queue, becomes idle and its cores are free; a queued block whose cores are free is bound, and set 0 starts on each of them. -/
def Obligations.DispatcherDecision : Prop :=
  ∀ (s : State) (c : Nat),
    let d := s.input.die
    (s.die d).alive = true → (∀ p ∈ s.routines, p.2.next = none) → s.homed d = [c] → homeDie c = d →
    (s.isBound c = true → s.ctxState c = 2 → (s.extra c).wanted = false → s.poolOf c = [] → s.childLog c = 0 → s.queueVa c = 0 →
      (∀ n ∈ s.coresOf c, s.unrun n (fun _ => true) = false ∧ ∀ j, s.job? n = some j → j.finished = true) →
      ∃ t, exec .dispatcherDecision s = .next t ∧ t.ctxState c = 0 ∧ t.isBound c = false ∧ t.coresOf c = [] ∧
        ∀ a, t.byte a = s.byte a) ∧
    (∀ cs desc seed regs image, s.isBound c = false → s.ctxState c = 1 → (∀ n < 128, (s.core n).reserved = none) →
      (s.places c).find? (fun cs => cs.all (s.freeFor c)) = some cs → s.needsReservation c = false →
      s.bindInfo c = .ok (desc, seed, regs) → s.readImage c 0 = .ok image → s.coresOf c = [] → (s.extra c).trapAll = [] → (s.extra c).trapZero = [] →
      cs.headD 0 + s.groupSize c ≤ 128 →
      ∃ t, exec .dispatcherDecision s = .next t ∧ t.ctxState c = 2 ∧ t.isBound c = true ∧ t.blkBits c 0x88 6 0 = cs.headD 0 % 128 ∧
        ∀ i < s.groupSize c, ∃ j, t.job? (cs.headD 0 + i) = some j ∧ j.ctx = c ∧ j.gidx = i ∧ j.child = false ∧ j.srseed = seed ∧
          j.hmode = false ∧ j.streams.s.hdr = image.entries.s ∧ j.streams.v.hdr = image.entries.v ∧ j.streams.m.hdr = image.entries.m ∧
          j.streams.c.hdr = image.entries.c ∧ j.handS = image.handler.s ∧ (∀ r, regs.length < r → j.rs r = 0) ∧ j.v = [] ∧ j.pad = [])

/-- R339, R342, R343: a period of an admitted contract sets BUDLEFT to the budget, DLINE and the next release from the last, and clears
DEMOTED; a bound contract whose BUDLEFT is 0 becomes DEMOTED; a passed DLINE counts one overrun, once; a block that has waited STARVE cycles is
served as a starved one. None before its cycle. -/
def Obligations.ContractPeriods : Prop :=
  ∀ (s : State),
    let c := s.input.ctx
    let now := s.clock + Config.dieOffset s.resets (homeDie c)
    let release := s.blk c 0x70
    let admitted : Prop := (s.blk c 0).testBit 56 = true
    (admitted → release ≤ now →
      ∃ t, exec .periodRelease s = .next t ∧ t.blkBits c 0x68 31 0 = s.blkBits c 0x58 63 32 ∧ t.blkBits c 0x68 63 63 = 0 ∧
        t.blk c 0x70 = (release + s.blkBits c 0x58 31 0) % 2 ^ 64 ∧ t.blk c 0x140 = (release + s.blkBits c 0x60 31 0) % 2 ^ 64 ∧
        (t.extra c).usedB = 0 ∧ (t.extra c).dlDone = false) ∧
    (now < release → exec .periodRelease s = .next s) ∧
    (admitted → (s.blk c 0x88).testBit 8 = true → s.blkBits c 0x68 31 0 = 0 →
      ∃ t, exec .budgetExhausted s = .next t ∧ (t.blk c 0x68).testBit 63 = true ∧ (∀ k < 63, (t.blk c 0x68).testBit k = (s.blk c 0x68).testBit k) ∧
        ∀ b off, (b ≠ c ∨ off / 8 ≠ 0x68 / 8) → t.blk b off = s.blk b off) ∧
    (admitted → (s.extra c).dlDone = false → s.blk c 0x140 ≤ now → (s.blk c 0).testBit 55 = false → s.ctxState c ∈ [1, 2, 3] →
      ∃ t, exec .deadlineOverrun s = .next t ∧ (t.extra c).dlDone = true ∧
        t.blkBits c 0x68 47 32 = min 0xFFFF (s.blkBits c 0x68 47 32 + 1) ∧ ∀ a, t.byte a = s.byte a) ∧
    ((s.extra c).dlDone = true ∨ now < s.blk c 0x140 → exec .deadlineOverrun s = .next s) ∧
    (s.ctxState c ∈ [1, 3] → s.blk c 0x80 + (s.die (homeDie c)).starve ≤ now →
      exec .starvation s = .next (s.updExtra c fun y => { y with starved := true })) ∧
    (now < s.blk c 0x80 + (s.die (homeDie c)).starve → exec .starvation s = .next s)

/-- R30, R337: a die grants the reservation at the head of its requests and the next die is asked; after 2,048 cycles everything the group
holds is released; as a best-effort quantum ends, the group is pre-empted for a waiting block that beats it, and with none waiting a new
quantum begins. -/
def Obligations.ReservationsAndQuanta : Prop :=
  ∀ (s : State) (c : Nat),
    let h := homeDie c
    let now := s.clock + Config.dieOffset s.resets h
    s.input.ctx = c →
    (∀ r d left cs rest, (s.die h).reserves.find? (fun r => r.ctx = c) = some r → s.input.die = d → (s.die d).asks = c :: rest → r.left = d :: left →
      s.grantable c d = some cs → now ≤ r.since + 2048 → s.ctxState c ∈ [1, 3] →
      (∀ e more, left = e :: more →
        ∃ t, exec .multiDieReservationGrant s = .next t ∧ (∀ n ∈ cs, (t.core n).reserved = some c) ∧ c ∈ (t.die e).asks ∧
          ∃ r' ∈ (t.die h).reserves, r'.ctx = c ∧ r'.left = left ∧ r'.first.isSome = true) ∧
      (left = [] → ∃ t, exec .multiDieReservationGrant s = .next t ∧ ∀ r' ∈ (t.die h).reserves, r'.ctx ≠ c)) ∧
    (∀ r, (s.die h).reserves.find? (fun r => r.ctx = c) = some r →
      (r.since + 2048 < now →
        ∃ t, exec .multiDieReservationTimeout s = .next t ∧ (∀ n < 128, (t.core n).reserved ≠ some c) ∧ (∀ d < 8, c ∉ (t.die d).asks) ∧
          ∀ r' ∈ (t.die h).reserves, r'.ctx ≠ c) ∧
      (now ≤ r.since + 2048 → exec .multiDieReservationTimeout s = .next s)) ∧
    (s.ctxState c = 2 → s.bestEffort c = true → (s.extra c).wanted = false →
      (now < (s.extra c).quantum + (s.die h).quant → exec .quantumEnd s = .next s) ∧
      ((s.extra c).quantum + (s.die h).quant ≤ now →
        ((∀ b ∈ s.blocks, s.ctxState b.1 ≠ 1 ∧ s.ctxState b.1 ≠ 3) →
          exec .quantumEnd s = .next (s.updExtra c fun y => { y with quantum := now })) ∧
        (∀ b cs, b ∈ s.blocks.map Prod.fst → s.ctxState b = 1 → s.contractServed b = false →
          (∀ b' ∈ s.blocks, s.ctxState b'.1 = 1 ∨ s.ctxState b'.1 = 3 → b'.1 = b) →
          s.places b = [cs] → s.groupsOn b cs = some [c] → s.beatsAtQuantum b c = true →
          ∃ t, exec .quantumEnd s = .next t ∧ (t.extra c).wanted = true ∧ ∀ n ∈ cs, (t.core n).reserved = some b)))

/-! Pre-emption and gangs -/

/-- R200, R201, R204, R205, R23, R351, R355, R202: a pre-emption request reaches a job of a group the dispatcher takes; once every engine
holds, the save begins and PREREC counts it; a drain past EPLEN is cut and leaves cause 0x0F for the S stream; a save that completes puts the
image, the record and the scratchpad into the park page, frees the core and, with the group's last job, parks the block. -/
def Obligations.Preemption : Prop :=
  ∀ (s : State) (n : Nat) (j : Job),
    let now := s.clock + Config.dieOffset s.resets (n / 16)
    s.input.core = n → s.job? n = some j →
    ((s.extra j.ctx).wanted = true → j.preempt = none →
      ∃ t k p, exec .preemptionRequest s = .next t ∧ t.job? n = some k ∧ k.preempt = some p ∧ p.arrived = s.clock + Config.dieOffset s.resets (j.core / 16) ∧
        p.saving = false ∧ p.cut = false ∧ p.swap = false ∧
        ((∀ d < 8, (s.die d).waiters = []) → (∀ a, t.byte a = s.byte a) ∧ ∀ r, k.rs r = j.rs r)) ∧
    ((s.extra j.ctx).wanted = false ∨ (∃ p, j.preempt = some p ∧ p.swap = false) → exec .preemptionRequest s = .next s) ∧
    (∀ p, j.preempt = some p → p.swap = false → p.saving = false →
      ((∀ e, j.holdsAt p e = true) → (s.unrun n fun _ => true) = false →
        ∃ k, exec .engineHold s = .next (s.setJob n k) ∧ k.preempt = some { p with saving := true } ∧
          k.prerec.toNat % 2 ^ 20 = min 0xFFFFF (j.prerec.toNat % 2 ^ 20 + 1) ∧ k.prerec.toNat / 2 ^ 20 % 2 ^ 12 = min 4095 (now - p.arrived) ∧
          (p.clamp = none → k.loopsave = j.loopsave) ∧
          (∀ c, p.clamp = some c → j.drained? p = some c →
            k.loopsave.toNat = 2 ^ 63 + p.level % 8 * 2 ^ 32 + c % 2 ^ 32)) ∧
      ((∃ e, j.holdsAt p e = false) ∨ (s.unrun n fun _ => true) = true → exec .engineHold s = .next s) ∧
      (∀ m, p.eplen = some m → p.cut = false →
        (p.arrived + m ≤ now → (∃ e, p.left e = false) →
          ∃ r : TrapRecord, exec .drainCut s = .next (s.setJob n { j with preempt := some { p with cut := true }, rebind := j.rebind ++ [r] }) ∧
            r.cause = 0x0F ∧ r.stream = 0 ∧ r.addr = 0 ∧ r.aux = now - (p.arrived + m)) ∧
        (now < p.arrived + m ∨ (∀ e, p.left e = true) → exec .drainCut s = .next s))) ∧
    (∀ p s1 s2 s3, j.preempt = some p → p.swap = false → p.saving = true →
      let x : Job := { j with preempt := none, frozen := false, stalls := .all none }
      s.ctxStore j.ctx j.page x.contextImage = .ok s1 → s1.ctxStore j.ctx (j.page + 0xE0000) x.extensionRecord = .ok s2 →
      s2.ctxStore j.ctx (j.page + 0x100000) (x.padRead 0 0x300000) = .ok s3 →
      ∃ t, exec .jobSaveComplete s = .next t ∧ t.job? n = none ∧ (∀ a, t.byte a = s3.byte a) ∧ x ∈ (t.extra j.ctx).parked ∧
        (s.coresOf j.ctx = [n] → (s.extra j.ctx).wanted = true → (s.blk j.ctx 0x88).testBit 8 = true →
          (t.extra j.ctx).wanted = false ∧ t.isBound j.ctx = false ∧ t.ctxState j.ctx = if s.ctxState j.ctx = 4 then 4 else 3)) ∧
    (exec .scratchpadGranuleExchange s =
      .next (s.updCore n fun c => { c with exchange := c.exchange.filter fun g => g ≠ s.input.index })) ∧
    (∀ s1, s.input.flag = false → j.areaPending = true → j.preempt = none → j.stalls.s = none → s.blk j.ctx 0x28 ≠ 0 → s.blk j.ctx 0x28 % 64 = 0 →
      s.jobStore j (s.blk j.ctx 0x28) (recordBytes j.pend j.trap j.rets.toNat) = .ok s1 →
      exec .trapAreaWrite s = .next ((s1.updJob n fun j => { j with areaPending := false }).unstalled n .s))

/-- R29, R349: a member of a gang begins its next pass of a lockstep level once every member has finished the pass before, and not before;
the freeze of a gang lifts on every frozen member once no stall of one remains. -/
def Obligations.Gangs : Prop :=
  ∀ (s : State),
    let gang := s.gangCores s.input.ctx s.input.die
    let m := s.input.index
    (∃ t, exec .gangPassStart s = .next t ∧ (∀ a, t.byte a = s.byte a) ∧
      ∀ n ∈ gang, ∀ j, s.job? n = some j →
        ((j.loop m).lock = true → (j.level m).active = true →
          (∀ i ∈ gang, ∀ k, s.job? i = some k → k.finishedPass m (j.level m).made (j.level m).gangGo = true) →
          ∃ k, t.job? n = some k ∧ (k.level m).gangGo = (j.level m).gangGo + 1 ∧ k.kept = j.kept ∧ ∀ r, k.rs r = j.rs r) ∧
        ((∃ i ∈ gang, ∃ k, s.job? i = some k ∧ k.finishedPass m (j.level m).made (j.level m).gangGo = false) →
          t.job? n = some j)) ∧
    ((∀ n ∈ gang, ∀ j e y, s.job? n = some j → j.frozen = true → j.stalls.get e = some y → s.stillStalls j y = false) →
      ∃ t, exec .gangFreezeLift s = .next t ∧ (∀ a, t.byte a = s.byte a) ∧
        ∀ n ∈ gang, ∀ j, s.job? n = some j → t.job? n = some (if j.frozen then { j with frozen := false, stalls := .all none } else j)) ∧
    ((∃ n ∈ gang, ∃ j e y, s.job? n = some j ∧ j.frozen = true ∧ j.stalls.get e = some y ∧ s.stillStalls j y = true) → exec .gangFreezeLift s = .next s)

/-! Firmware's commands on pages and translations -/

/-- R206, R220, R223, R224, R225, R229, R264, R316, R323, R325: firmware assigns FREE frames and frees owned ones into the scrub path, whose
zero-fill ends FREE or with the next owner; migration moves a page's bytes and its entry frame by frame; read-duplication copies a page;
what a rule does not allow is refused and changes nothing. -/
def Obligations.FramesAndPages : Prop :=
  ∀ (s : State),
    let d := s.input.die
    let i := s.input.frame
    let n := s.input.len
    let dst := s.input.dest
    let wid := s.input.wid
    let e := s.ownerEntry d i
    let pa := framePa d i
    let runs (i : Instr) (u : State) : Prop := s.ringTurn ⟨i, s.input⟩ = true → exec i s = .next (u.ringDone ⟨i, s.input⟩)
    let done (i : Instr) (c : String) (t : State) : Prop := runs i (t.respond c 0 [])
    let refused (i : Instr) (c : String) : Prop := ∃ r, r ≠ 0 ∧ runs i (s.respond c r [])
    (s.frameExists d i = true → wid < 4096 → s.input.kind ≤ 2 → ownState e = ownFree →
      ∃ v, done .frameAssign "FRAME_ASSIGN" ((s.unname d wid i).setOwnerTag d i v) ∧ ownState v = (if hostBase ≤ i then ownHost else ownOwned) ∧
        ownWid v = wid ∧ ownReg v = decide (s.input.kind ≠ 0) ∧ ownPriv v = decide (s.input.kind = 2) ∧ ownCode v = false) ∧
    (ownState e ≠ ownFree → ownState e ≠ ownScrub → refused .frameAssign "FRAME_ASSIGN") ∧
    (s.mayFree d i = true → wid < 4096 → s.replicasOf pa = [] →
      ∃ t, done .frameFree "FRAME_FREE" t ∧ (∀ a, t.byte a = s.byte a) ∧ ownState (t.ownerEntry d i) = ownScrub ∧
        ownNv (t.ownerEntry d i) = s.input.flag ∧ (s.input.flag = true → ownNwid (t.ownerEntry d i) = wid)) ∧
    (s.mayFree d i = false → refused .frameFree "FRAME_FREE") ∧
    (s.frameExists d i = true → ownState e = ownScrub → s.roundsRun pa 1 = false → (s.die d).frameHeld pa = false →
      ∃ t, exec .scrubZeroFillEnd s = .next t ∧ (∀ a, t.byte a = if pa ≤ a ∧ a < pa + 131072 then 0 else s.byte a) ∧
        (ownNv e = true → ownState (t.ownerEntry d i) = (if hostBase ≤ i then ownHost else ownOwned) ∧
          ownWid (t.ownerEntry d i) = ownNwid e) ∧
        (ownNv e = false → t.ownerEntry d i = 0)) ∧
    (ownState e ≠ ownScrub ∨ s.roundsRun pa 1 = true ∨ (s.die d).frameHeld pa = true → exec .scrubZeroFillEnd s = .next s) ∧
    (let held := ((s.die d).lent.map (·.2)).sum
     (held + n ≤ 1048576 → i + n ≤ 1048576 →
       done .hostTierLending "HOST_TIER_LENDING" (s.updDie d fun x => { x with lent := x.lent ++ [(i, n)] })) ∧
     (1048576 < held + n → refused .hostTierLending "HOST_TIER_LENDING")) ∧
    (s.input.value ≤ 2 ^ 24 →
      done .arrivalBoundSet "ARRIVAL_BOUND_SET" { s with hub := { s.hub with arrivalBound := s.input.value } }) ∧
    (2 ^ 24 < s.input.value → refused .arrivalBoundSet "ARRIVAL_BOUND_SET") ∧
    (s.input.slot < 4096 →
      (s.ownsOutside s.input.slot = false → ∃ t, done .keyWrite "KEY_WRITE" t ∧ Sparse.get [] t.hub.keySlots s.input.slot = s.input.data ∧
        (∀ k, k ≠ s.input.slot → Sparse.get [] t.hub.keySlots k = Sparse.get [] s.hub.keySlots k) ∧ ∀ a, t.byte a = s.byte a) ∧
      (s.ownsOutside s.input.slot = true → refused .keyWrite "KEY_WRITE")) ∧
    runs .ownershipEntryRead (s.respond "OWNERSHIP_ENTRY_READ" 0 (leBytes 8 (s.ownerEntry d s.input.index))) ∧
    (∀ t, (s.die d).mtlb[s.input.index]? = some t →
      runs .tlbEntryRead
        (s.respond "TLB_ENTRY_READ" 0 (leBytes 2 t.hold ++ leBytes 2 t.repl ++ leBytes 1 (if t.coll then 1 else 0) ++ leBytes 1 t.perm))) ∧
    (s.mayMove d i dst n = true →
      ∃ t, done .migration "MIGRATION" t ∧ (∀ a, t.byte a = s.byte a) ∧ PageWork.move i dst n 0 ∈ (t.die d).work ∧
        ∀ k < n, ∀ f ∈ [i + k, dst + k], ownState (t.ownerEntry d f) = ownMigrating ∧ ownPrev (t.ownerEntry d f) = ownState e ∧
          ownWid (t.ownerEntry d f) = ownWid e) ∧
    (s.mayMove d i dst n = false → refused .migration "MIGRATION") ∧
    (∀ m, (s.die d).work = [.move i dst n m] →
      (m < n → (s.die d).frameHeld (framePa d (i + m)) = false →
        ∃ t, exec .migrationPartMoved s = .next t ∧ PageWork.move i dst n (m + 1) ∈ (t.die d).work ∧
          (∀ k < 131072, t.byte (framePa d (dst + m) + k) = s.byte (framePa d (i + m) + k)) ∧
          ∀ a, (a < framePa d (dst + m) ∨ framePa d (dst + m) + 131072 ≤ a) → t.byte a = s.byte a) ∧
      (m < n → (s.die d).frameHeld (framePa d (i + m)) = true → exec .migrationPartMoved s = .next s) ∧
      (m = n → i + n ≤ dst ∨ dst + n ≤ i → (∀ k < n, s.frameExists d (i + k) = true ∧ s.frameExists d (dst + k) = true) →
        ∃ t, exec .migrationPartMoved s = .next t ∧ (∀ a, t.byte a = s.byte a) ∧
          ∀ k < n, ownState (t.ownerEntry d (i + k)) = ownScrub ∧
            ownState (t.ownerEntry d (dst + k)) =
              (if ownPrev e = ownShared then ownShared else if hostBase ≤ dst then ownHost else ownOwned) ∧
            ownWid (t.ownerEntry d (dst + k)) = ownWid (s.ownerEntry d (i + k)))) ∧
    (∀ t, (s.die d).mtlb.find? (fun t => t.pa = pa) = some t →
      (s.mayDuplicate d i t s.input.nats = true →
        ∃ u, done .readDuplicate "READ_DUPLICATE" u ∧
          (∀ r ∈ s.input.nats, ∀ k < 2 ^ t.size / 131072, u.ownerEntry d (r + k) = s.ownerEntry d (i + k) ∧
            ∀ o < 131072, u.byte (framePa d (r + k) + o) = s.byte (framePa d (i + k) + o)) ∧
          ∃ y ∈ (u.die d).mtlb, y.pa = t.pa ∧ y.size = t.size ∧ y.perm.testBit 1 = false ∧ y.copies = s.input.nats.map (framePa d)) ∧
      (s.mayDuplicate d i t s.input.nats = false → refused .readDuplicate "READ_DUPLICATE"))

/-- R227, R246, R264, R314, R317, R319, R320, R321, R327: a fill puts the walk's leaf into the memory-side TLB and, on the die, into the
core's; a core that acknowledges a round has dropped the translation; the shadow commands write, clear and install table entries or give
their reason, in their order, a command that starts a round answering at its end; a seal, once no accepted write of the page is left, sets CODE and extends the measurement; a segment is shared through MIGRATING; a cold-start segment whose hash holds
leaves ARRIVING, and one whose hash does not fails, as does an access that waits for the arrival bound. -/
def Obligations.TranslationsAndSharing : Prop :=
  ∀ (s : State),
    let c := s.input.ctx
    let d := s.input.die
    let n := s.input.core
    let va := s.input.va
    let runs (i : Instr) (u : State) : Prop := s.ringTurn ⟨i, s.input⟩ = true → exec i s = .next (u.ringDone ⟨i, s.input⟩)
    let waits (i : Instr) (u : State) : Prop := s.ringTurn ⟨i, s.input⟩ = true → exec i s = .next (u.ringWait ⟨i, s.input⟩)
    let done (i : Instr) (c : String) (t : State) : Prop := runs i (t.respond c 0 [])
    let reason (i : Instr) (c : String) (r : Nat) : Prop := runs i (s.respond c r [])
    (∀ j l, s.job? n = some j → va < 2 ^ 52 → s.walk j.ctx va = some l →
      let home := va / 2 ^ 49
      let e := s.ownerAt (l.pa + va % 2 ^ l.size)
      ownState e = ownOwned → ownWid e = j.wid → ownReg e = false → ownCode e = decide (l.perm = 4) → (s.die home).work = [] →
      (s.die home).alive = true → s.flushing j.ctx = false → (∀ y ∈ (s.die home).mtlb, y.hits j.ctx va = false ∧ y.pa ≠ l.pa ∧ y.copies = []) →
      (∀ y ∈ (s.core n).tlb, y.copies = []) →
      ∃ t, exec .translationFill s = .next t ∧ (∀ a, t.byte a = s.byte a) ∧
        (∃ y ∈ (t.die home).mtlb, y.asid = j.ctx ∧ y.va = va / 2 ^ l.size * 2 ^ l.size ∧ y.size = l.size ∧ y.pa = l.pa ∧ y.perm = l.perm) ∧
        (home = n / 16 → ∃ y ∈ (t.core n).tlb, y.asid = j.ctx ∧ y.va = va / 2 ^ l.size * 2 ^ l.size ∧ y.size = l.size ∧ y.pa = l.pa)) ∧
    (∀ j y l, s.job? n = some j → s.input.sel = .s → j.stalls.get Engine.s = some y → s.leafOf n j.ctx y.va = some l → j.areaPending = false → j.awaitsReply = false →
      let e := s.ownerAt (l.pa + y.va % 2 ^ l.size)
      let now := s.clock + Config.dieOffset s.resets (n / 16)
      (ownState e = ownArriving → y.since + s.hub.arrivalBound ≤ now →
        (j.atHcall .s = false → exec .arrivalBoundExpiry s =
          .next ((s.takeTrap n .s { trap 0x0A y.va (ownSeg e) with estat := j.sentRemote .s n y.va }).unstalled n .s)) ∧
        (j.atHcall .s = true → exec .arrivalBoundExpiry s = .next ((s.hcallFails n j).unstalled n .s))) ∧
      (ownState e ≠ ownArriving ∨ now < y.since + s.hub.arrivalBound → exec .arrivalBoundExpiry s = .next s)) ∧
    (∀ a v z p k, (s.die (n / 16)).work = [.round a v z p k] → n % 16 ∈ p → k ≠ .collapse →
      ∃ t, exec .invalidationAck s = .next t ∧ (∀ x, t.byte x = s.byte x) ∧ (∀ m, m ≠ n → t.core m = s.core m) ∧
        (t.core n).tlb = ((s.core n).tlb.filter fun y => !(y.asid = a && y.va / 2 ^ z = v / 2 ^ z)) ∧
        (t.die (n / 16)).work = if p.filter (· ≠ n % 16) = [] then [] else [.round a v z (p.filter (· ≠ n % 16)) k]) ∧
    (let level := s.input.index
     let value := s.input.value
     let bad : Prop := if level = 5 then directoryMalformed value = true else value.testBit 0 = true ∧ entryMalformed level d value = true
     let home := homeDie c
     let queued (i : Instr) (k : Nat) (performed : Bool) (t : State) : State :=
       t.updDie k fun y => { y with shadow := y.shadow ++ [⟨c, i, s.input, performed⟩] }
     ((∀ y ∈ (s.die d).shadow, y.ctx ≠ c) →
       (bad → reason .shset "SHSET" 1) ∧
       (¬ bad → (s.byte va).getLsbD 0 = true → reason .shset "SHSET" 2) ∧
       (¬ bad → (s.byte va).getLsbD 0 = false → level ≠ 5 → s.codeMismatch level value = true → reason .shset "SHSET" 3) ∧
       (¬ bad → (s.byte va).getLsbD 0 = false → level = 5 ∨ s.codeMismatch level value = false →
         done .shset "SHSET" (s.writePa va (leBytes 8 value))) ∧
       (s.tablePage c va = false → reason .shclr "SHCLR" 4) ∧
       (s.tablePage c va = true →
         ∃ t : State, (t.byte va).toNat = (s.byte va).toNat / 2 * 2 ∧ (∀ a, a ≠ va → t.byte a = s.byte a) ∧
           (∀ y ∈ (t.die d).mtlb, y.asid = c → (s.walkReads c y.va).contains va = false) ∧
           (t.roundOf d c = false → done .shclr "SHCLR" t) ∧ (t.roundOf d c = true → waits .shclr (queued .shclr d true t)))) ∧
     ((∀ y ∈ (s.die home).shadow, y.ctx ≠ c) →
       (s.tablePage c va = false → reason .shroot "SHROOT" 4) ∧
       (s.tablePage c va = true → va < 2 ^ 64 →
         ∃ t : State, t.blk c 0x08 = va ∧ (∀ a, t.byte a = s.byte a) ∧ (∀ k < 8, ∀ y ∈ (t.die k).mtlb, y.asid ≠ c) ∧
           ((∀ k < 8, t.roundOf k c = false) → done .shroot "SHROOT" t) ∧
           ((∃ k < 8, t.roundOf k c = true) → waits .shroot (queued .shroot home true t)))) ∧
     (∀ i name k (running : Prop) rest,
       (i = .shclr ∧ name = "SHCLR" ∧ k = d ∧ (running ↔ s.roundOf d c = true) ∨
         i = .shroot ∧ name = "SHROOT" ∧ k = home ∧ (running ↔ ∃ q < 8, s.roundOf q c = true)) →
       (s.die k).shadow = ⟨c, i, s.input, true⟩ :: rest →
       (running → waits i s) ∧
       (¬ running → ∃ t, done i name t ∧ t.mem = s.mem ∧ (t.die k).shadow = rest.filter fun y => !(y.row = i && y.input = s.input))) ∧
     (∀ i k y rest, (i, k) ∈ [(Instr.shset, d), (.shclr, d), (.shroot, home)] → (s.die k).shadow = y :: rest → y.ctx = c →
       (y.row ≠ i ∨ y.input ≠ s.input) →
       ((∃ z ∈ rest, z.row = i ∧ z.input = s.input) → waits i s) ∧
       ((∀ z ∈ rest, z.row ≠ i ∨ z.input ≠ s.input) → waits i (queued i k false s)))) ∧
    ((va % 131072 ≠ 0 ∨ s.input.len = 0 → ∃ r, r ≠ 0 ∧ reason .sealPages "SEAL" r) ∧
     (∀ f, va % 131072 = 0 → s.input.len = 1 → s.pageFrames c va 1 = some [f] →
      let pa := f * 131072
      let e := s.ownerAt pa
      (ownState e = ownOwned → ownWid e = s.ctxWid c → ownCode e = false → s.framesHeld [f] = true → waits .sealPages s) ∧
      (ownState e = ownOwned → ownWid e = s.ctxWid c → ownCode e = false → s.framesHeld [f] = false →
        ∃ t, done .sealPages "SEAL" t ∧ ownCode (t.ownerAt pa) = true ∧ ownState (t.ownerAt pa) = ownOwned ∧ ownWid (t.ownerAt pa) = ownWid e ∧
          t.meas c = sha384 (s.meas c ++ sha384 (leBytes 8 va ++ s.readPa pa 131072)) ∧ (∀ a, t.byte a = s.byte a) ∧
          ∀ y ∈ (t.die (paDie pa)).mtlb, y.meets pa 1 = false) ∧
      (ownCode e = true ∨ ownWid e ≠ s.ctxWid c → ∃ r, r ≠ 0 ∧ reason .sealPages "SEAL" r))) ∧
    (∀ fs, s.pageFrames c va ((s.input.len + 131071) / 131072) = some fs → va % 131072 = 0 → s.input.len ≠ 0 → (s.blk c 0).testBit 59 = false →
      (∀ f ∈ fs, let e := s.ownerAt (f * 131072)
        ownState e = ownOwned ∧ ownWid e = s.ctxWid c ∧ ownReg e = false ∧ s.parkInUse (f * 131072) = false) →
      let bytes := (fs.flatMap fun f => s.readPa (f * 131072) 131072).take s.input.len
      (s.framesHeld fs = true → waits .segmentShare s) ∧
      (s.framesHeld fs = false → sha384 bytes = s.input.data → ∃ t, done .segmentShare "SEGMENT_SHARE" t ∧ (∀ a, t.byte a = s.byte a) ∧
        t.hub.shared = s.hub.shared ++ [⟨s.input.data, fs, [], true⟩] ∧ ∀ f ∈ fs, ownState (t.ownerAt (f * 131072)) = ownMigrating) ∧
      (s.framesHeld fs = false → sha384 bytes ≠ s.input.data → ∃ r, r ≠ 0 ∧ reason .segmentShare "SEGMENT_SHARE" r)) ∧
    (∀ g, s.hub.shared[s.input.index]? = some g → g.pending = true → g.frames ≠ [] →
      (∀ f ∈ g.frames, ownState (s.ownerAt (f * 131072)) = ownMigrating) →
      let wid := ownWid (s.ownerAt (g.frames.headD 0 * 131072))
      let dies (x : SharedSegment) : List Nat := x.frames.map fun f => paDie (f * 131072)
      ((∀ h ∈ s.hub.shared, h.pending = false → h.hash ≠ g.hash) →
        ∃ t, exec .sharingEnd s = .next t ∧ (∀ a, t.byte a = s.byte a) ∧ { g with pending := false, sharers := [wid] } ∈ t.hub.shared ∧
          ∀ f ∈ g.frames, ownState (t.ownerAt (f * 131072)) = ownShared) ∧
      (∀ h, s.hub.shared.find? (fun h => !h.pending && h.hash = g.hash && dies h = dies g) = some h →
        ∃ t, exec .sharingEnd s = .next t ∧ (∀ a, t.byte a = s.byte a) ∧ g ∉ t.hub.shared ∧
          (∃ y ∈ t.hub.shared, y.frames = h.frames ∧ wid ∈ y.sharers) ∧ ∀ f ∈ g.frames, ownState (t.ownerAt (f * 131072)) = ownScrub)) ∧
    (∀ g, s.hub.segments[s.input.index]? = some g → s.input.data.length = g.len → g.frames.Nodup → g.share = false →
      (∀ y ∈ s.hub.segments.take s.input.index, ¬ (y.ctx = g.ctx ∧ y.gidx = g.gidx ∧ y.child = g.child)) →
      (∀ f ∈ g.frames, ownState (s.ownerAt (f * 131072)) = ownArriving) →
      (sha384 s.input.data = g.hash → g.last = false →
        ∃ t, exec .segmentVerified s = .next t ∧ t.hub.segments = s.hub.segments.eraseIdx s.input.index ∧
          (∀ f ∈ g.frames, ownState (t.ownerAt (f * 131072)) = if hostBase ≤ ownerIndex (f * 131072) then ownHost else ownOwned) ∧
          ∀ (b f : Nat) (x : Byte), g.frames[b / 131072]? = some f → s.input.data[b]? = some x → t.byte (f * 131072 + b % 131072) = x) ∧
      (∀ m j, sha384 s.input.data ≠ g.hash → g.tok ≠ 0 → s.job? m = some j →
        (s.coresOf g.ctx).find? (fun m => (s.job? m).any fun j => j.gidx = g.gidx && j.child = g.child) = some m →
        ∃ t, exec .segmentVerified s = .next t ∧ (∀ a, t.byte a = s.byte a) ∧ t.job? m = some (j.token g.tok (statusWord true 0x0A g.before)) ∧
          ∀ f ∈ g.frames, ownState (t.ownerAt (f * 131072)) = ownArriving ∧ ownFail (t.ownerAt (f * 131072)) = true))

/-! Firmware's commands on blocks and units -/

/-- R23, R36, R328, R330, R332, R336, R340, R341: an accepted write changes the word it names alone; a refused write of one word, and a
refused submission, change nothing and give their reason: a locked field, a reserved bit or a range, the terms of a contract, COST, a full
table, the two admission tests; of a write that is refused for its terms alone the other fields take effect; an admitted contract begins its
first period at once and a withdrawn one is no longer admitted; retirement, the clearing of a fault, installation and pre-emption make the
change of state R23 gives, from the states it gives, and a retirement or an installation that has to wait keeps its place in its ring. -/
def Obligations.BlockCommands : Prop :=
  ∀ (s : State),
    let c := s.input.ctx
    let x := s.input
    let runs (i : Instr) (u : State) : Prop := s.ringTurn ⟨i, s.input⟩ = true → exec i s = .next (u.ringDone ⟨i, s.input⟩)
    let waits (i : Instr) (u : State) : Prop := s.ringTurn ⟨i, s.input⟩ = true → exec i s = .next (u.ringWait ⟨i, s.input⟩)
    let done (i : Instr) (c : String) (t : State) : Prop := runs i (t.respond c 0 [])
    let reason (i : Instr) (c : String) (r : Nat) : Prop := runs i (s.respond c r [])
    let P := fieldNat x.data 0 8 % 2 ^ 32
    let B := fieldNat x.data 0 8 / 2 ^ 32 % 2 ^ 32
    let D := fieldNat x.data 8 8 % 2 ^ 32
    let cost := fieldNat x.data 8 8 / 2 ^ 32 % 2 ^ 14
    let shape := s.blkBits c 0 47 44
    let home := s.die (homeDie c)
    let place := s.die (s.blkBits c 0x50 42 40)
    let legal : Prop := placementLegal shape (s.blkBits c 0x50 42 40) (s.blkBits c 0x50 39 36) = true ∧ s.ctxWid c ≠ 0 ∧
      s.blkBits c 0 54 52 = 0 ∧ s.blkBits c 0 31 8 = 0
    let terms : Prop := 1 ≤ B ∧ B ≤ D ∧ D ≤ P
    (c < 8192 → x.data.length = 8 →
      let v := fieldNat x.data 0 8
      (x.index ∈ [0x10, 0x28, 0x38] → v < 2 ^ 52 →
        ∃ t, done .controlBlockWrite "CONTROL_BLOCK_WRITE" t ∧ t.blk c x.index = v ∧ (∀ a, t.byte a = s.byte a) ∧
          ∀ b o, (b ≠ c ∨ (o / 8 ≠ 0 ∧ o / 8 ≠ x.index / 8)) → t.blk b o = s.blk b o) ∧
      (x.index ∈ [0x10, 0x28, 0x38] → 2 ^ 52 ≤ v → reason .controlBlockWrite "CONTROL_BLOCK_WRITE" 6) ∧
      (x.index ∈ [0x18, 0x30, 0x48] → s.ctxState c ≠ 0 → s.ctxState c ≠ 5 → v ≠ s.blk c x.index →
        reason .controlBlockWrite "CONTROL_BLOCK_WRITE" 7) ∧
      (x.index = 0x18 → s.ctxState c = 0 → (v % 64 ≠ 0 ∨ v / 2 ^ 52 % 256 < 2 ∨ 2 ^ 60 ≤ v) →
        reason .controlBlockWrite "CONTROL_BLOCK_WRITE" 6)) ∧
    (8192 ≤ c ∨ x.index % 8 ≠ 0 ∨ x.data.length % 8 ≠ 0 ∨ 512 < x.index + x.data.length → ∃ r, r ≠ 0 ∧ reason .controlBlockWrite "CONTROL_BLOCK_WRITE" r) ∧
    (let w := blockWords x.index x.data
     c < 8192 → x.index % 8 = 0 → x.data.length % 8 = 0 → x.index + x.data.length ≤ 512 →
      ∀ r, s.writeReason c w = some r →
        (4 < r → reason .controlBlockWrite "CONTROL_BLOCK_WRITE" r) ∧
        (r ≤ 4 → s.newState c (s.withoutTerms c w) = none →
          ∃ t : State, runs .controlBlockWrite (t.respond "CONTROL_BLOCK_WRITE" r []) ∧ (∀ a, t.byte a = s.byte a) ∧
            (∀ off ∈ [0x58, 0x60], t.blk c off = s.blk c off) ∧ (t.blk c 0).testBit 57 = (s.blk c 0).testBit 57 ∧
            ∀ off ∈ [0x10, 0x28, 0x38], w.covers off = true → t.blk c off = w.raw off % 2 ^ 64)) ∧
    runs .controlBlockRead (s.respond "CONTROL_BLOCK_READ" 0 (s.blkBytes c 0 512)) ∧
    (c < 8192 → legal → shape ≤ 4 → fieldNat x.data 8 8 < 2 ^ 46 →
      (¬ terms → reason .contractSubmission "CONTRACT_SUBMISSION" 1) ∧
      (terms → home.bcap < cost → reason .contractSubmission "CONTRACT_SUBMISSION" 5) ∧
      (terms → cost ≤ home.bcap → 256 ≤ s.tableCount c → reason .contractSubmission "CONTRACT_SUBMISSION" 4) ∧
      (terms → cost ≤ home.bcap → s.tableCount c < 256 → (∀ b ∈ s.blocks, b.1 ≠ c → s.admitted b.1 = false) →
        (place.ubound * P < B * 1000 → reason .contractSubmission "CONTRACT_SUBMISSION" 2) ∧
        (B * 1000 ≤ place.ubound * P → place.ubound * (P * D) < (B * D + (place.bcap + 3600) * P) * 1000 →
          reason .contractSubmission "CONTRACT_SUBMISSION" 3) ∧
        (B * 1000 ≤ place.ubound * P → (B * D + (place.bcap + 3600) * P) * 1000 ≤ place.ubound * (P * D) →
          ∃ t, done .contractSubmission "CONTRACT_SUBMISSION" t ∧ (t.blk c 0).testBit 57 = true ∧ (t.blk c 0).testBit 56 = true ∧
            t.blk c 0x58 = fieldNat x.data 0 8 ∧ t.blk c 0x60 = fieldNat x.data 8 8 ∧
            t.blk c 0x70 = (s.clock + Config.dieOffset s.resets (homeDie c)) % 2 ^ 64 ∧ ∀ a, t.byte a = s.byte a))) ∧
    (c < 8192 → legal →
      ∃ t, done .contractWithdrawal "CONTRACT_WITHDRAWAL" t ∧ (t.blk c 0).testBit 57 = false ∧ (t.blk c 0).testBit 56 = false ∧
        ∀ b o, (b ≠ c ∨ o / 8 ≠ 0) → t.blk b o = s.blk b o) ∧
    (∀ (d1 : Die) (lo hi : Nat), (x.index, lo, hi, d1) ∈ [(0, 0, 900, { s.die x.die with ubound := x.value }),
        (1, 0, 8192, { s.die x.die with bcap := x.value }), (2, 1, 2 ^ 24, { s.die x.die with starve := x.value }),
        (3, 4096, 2 ^ 24, { s.die x.die with quant := x.value })] →
      (lo ≤ x.value → x.value ≤ hi → done .dispatcherParameterWrite "DISPATCHER_PARAMETER_WRITE" (s.setDie x.die d1)) ∧
      (x.value < lo ∨ hi < x.value → reason .dispatcherParameterWrite "DISPATCHER_PARAMETER_WRITE" 1)) ∧
    (c < 8192 →
      (s.ctxState c ≠ 2 → s.ctxState c ≠ 5 → s.isBound c = false → s.retireWaits c = false →
        ∃ t, done .microContextRetire "MICRO_CONTEXT_RETIRE" t ∧ t.ctxState c = 5 ∧ (∀ p ∈ t.hub.keys, p.2 ≠ some c) ∧
          ∀ d < 8, ∀ y ∈ (t.die d).mtlb, y.asid ≠ c) ∧
      (s.ctxState c ≠ 2 → s.ctxState c ≠ 5 → s.isBound c = false → s.retireWaits c = true → waits .microContextRetire (s.unkey c)) ∧
      (s.ctxState c = 2 ∨ s.ctxState c = 5 ∨ s.isBound c = true → reason .microContextRetire "MICRO_CONTEXT_RETIRE" 7) ∧
      (s.ctxState c = 4 → s.isBound c = false → s.queueVa c = 0 →
        ∃ t, done .faultClear "FAULT_CLEAR" t ∧ t.ctxState c = 0 ∧ (t.extra c).parked = [] ∧ t.poolOf c = [] ∧ ∀ a, t.byte a = s.byte a) ∧
      (s.ctxState c ≠ 4 ∨ s.isBound c = true → reason .faultClear "FAULT_CLEAR" 7) ∧
      (x.data.length = 512 →
        let words := (blockWords 0 x.data).map fun p => if p.1 = 0 then (0, putBits p.2 63 61 0) else p
        (s.ctxState c = 5 → s.writeReason c words = none → s.installWaits c = false → fieldNat x.data 0x10 8 = 0 →
          ∃ t, runs .controlBlockInstall t ∧ t.hub.responses = s.hub.responses ++ [⟨x.ring, x.tag, "CONTROL_BLOCK_INSTALL", 0, []⟩] ∧
            (t.extra c).ringPresets = x.nats.map ringPresetOf ∧ (t.extra c).bobbinPresets = bobbinPresetsOf x.extra ∧ t.ctxState c = 0 ∧ t.blk c 0x78 = 0 ∧ t.blk c 0x88 = 0 ∧ t.blk c 0x140 = 0 ∧
            (∀ off ∈ [0x10, 0x18, 0x20, 0x28, 0x30, 0x38, 0x40, 0x48, 0x50, 0x58, 0x60], t.blk c off = fieldNat x.data off 8) ∧
            ∀ a, t.byte a = s.byte a) ∧
        (s.ctxState c = 5 → s.writeReason c words = none → s.installWaits c = true → waits .controlBlockInstall s) ∧
        (s.ctxState c ≠ 5 → reason .controlBlockInstall "CONTROL_BLOCK_INSTALL" 7))) ∧
    (s.ctxState c = 2 → done .preemptCommand "PREEMPT_COMMAND" (s.updExtra c fun y => { y with wanted := true })) ∧
    (s.ctxState c ≠ 2 → reason .preemptCommand "PREEMPT_COMMAND" 7)

/-- R301 to R305, R359, R364, R365, R374, R375, R390, R392, R394, R416, R422, R425, R426, R434: a firmware command behind another in its
ring waits there, in a ring of 256, and leaves it once it has run; a routine that passes the tests of R302 takes its
slot, with GEN one greater, unless one is under way there; a map entry is resolved where its slot is live with the expected hash; vocabulary
slots load, refuse and unload; keys, groups and run lengths are written; a replay goes to a target of equal measurements, or gives its
reason; a boot step's status is cleared. -/
def Obligations.UnitCommands : Prop :=
  ∀ (s : State),
    let x := s.input
    let runs (i : Instr) (u : State) : Prop := s.ringTurn ⟨i, s.input⟩ = true → exec i s = .next (u.ringDone ⟨i, s.input⟩)
    let waits (i : Instr) (u : State) : Prop := s.ringTurn ⟨i, s.input⟩ = true → exec i s = .next (u.ringWait ⟨i, s.input⟩)
    let done (i : Instr) (c : String) (t : State) : Prop := runs i (t.respond c 0 [])
    let reason (i : Instr) (c : String) (r : Nat) : Prop := runs i (s.respond c r [])
    let refused (i : Instr) (c : String) : Prop := ∃ r, r ≠ 0 ∧ reason i c r
    let old := s.routine x.slot
    (∀ i, ofFirmware i = true → s.ringTurn ⟨i, x⟩ = false → exec i s = .next (s.ringWait ⟨i, x⟩)) ∧
    (∀ (c : Command), let q := s.ring c.input.ring
      (s.ringTurn c = true ↔ q = [] ∨ q.head? = some c) ∧
      (c ∉ q → q.length < 256 → (s.ringWait c).ring c.input.ring = q ++ [c]) ∧
      (c ∈ q ∨ 256 ≤ q.length → s.ringWait c = s) ∧
      (∀ r, q = c :: r → c ∉ r → (s.ringDone c).ring c.input.ring = r) ∧ (q = [] → s.ringDone c = s) ∧
      ∀ k, k ≠ c.input.ring → (s.ringWait c).ring k = s.ring k ∧ (s.ringDone c).ring k = s.ring k) ∧
    ((∀ p ∈ s.routines, p.2.next = none ∨ s.slotRuns p.1 = true) → x.slot < 256 →
      (∀ r, routineReason x.code = some r → reason .routineInstallation "ROUTINE_INSTALLATION" r) ∧
      (x.code.length = 0 ∨ 24 < x.code.length → reason .routineInstallation "ROUTINE_INSTALLATION" 1) ∧
      (old.next ≠ none → (routineReason x.code = none → reason .routineInstallation "ROUTINE_INSTALLATION" 6) ∧
        reason .routineClearing "ROUTINE_CLEARING" 6) ∧
      (old.next = none → s.slotRuns x.slot = false →
        (routineReason x.code = none →
          ∃ t, done .routineInstallation "ROUTINE_INSTALLATION" t ∧ (∀ k, k ≠ x.slot → t.routine k = s.routine k) ∧
            t.routine x.slot = ⟨true, (old.gen + 1) % 65536, x.code, sha384 (x.code.flatMap fun w => leBytes 4 w.toNat), none⟩ ∧
            ∀ a, t.byte a = s.byte a) ∧
        (∃ t, done .routineClearing "ROUTINE_CLEARING" t ∧ (t.routine x.slot).live = false ∧ (∀ k, k ≠ x.slot → t.routine k = s.routine k) ∧
          ∀ a, t.byte a = s.byte a)) ∧
      (old.next = none → s.slotRuns x.slot = true → routineReason x.code = none →
        ∃ t, done .routineInstallation "ROUTINE_INSTALLATION" t ∧ t.routine x.slot = { old with next := some x.code })) ∧
    (x.index < 16 → x.slot < 256 → x.value < 256 →
      ∃ t, done .routineMapWrite "ROUTINE_MAP_WRITE" t ∧ (∀ b o, (b ≠ x.ctx ∨ o / 8 ≠ 0x18 + x.index) → t.blk b o = s.blk b o) ∧
        let e := t.blk x.ctx (0xC0 + 8 * x.index)
        e.testBit 63 = x.flag ∧ e / 2 ^ 8 % 2 ^ 8 = x.slot ∧ e % 2 ^ 8 = x.value ∧
          (e.testBit 62 = true ↔ x.flag = true ∧ old.live = true ∧ s.expectedHash x.ctx x.value = some old.hash) ∧
          (e.testBit 62 = true → e / 2 ^ 16 % 2 ^ 16 = old.gen % 2 ^ 16)) ∧
    (16 ≤ x.index → refused .routineMapWrite "ROUTINE_MAP_WRITE") ∧
    runs .slotRecordRead (s.respond "SLOT_RECORD_READ" 0 old.record) ∧
    (let v := Sparse.get .empty s.hub.vocab x.slot
     let load : Command := ⟨.vocabularyLoad, x⟩
     let unload : Command := ⟨.vocabularyUnload, x⟩
     (x.slot < 8 → v.state = 0 → v.loader ≠ some load →
       ∃ t : State, waits .vocabularyLoad t ∧ Sparse.get .empty t.hub.vocab x.slot = ⟨1, x.va, x.len, [], some load⟩ ∧
         t.hub.responses = s.hub.responses ∧ ∀ a, t.byte a = s.byte a) ∧
     (x.slot < 8 → v.loader = some load → waits .vocabularyLoad s) ∧
     (x.slot < 8 → v.state ≠ 0 → v.loader ≠ some load → reason .vocabularyLoad "VOCABULARY_LOAD" 1) ∧
     (∀ c, v.state = 1 → v.loader = some c →
       let image := s.readPa v.source (min v.length (2 ^ 24))
       (vocCheck image v.length = none →
         ∃ t : State, exec .vocabularyLoadEnd s = .next ((t.respondTo c.input "VOCABULARY_LOAD" 0 []).ringDone c) ∧ (∀ a, t.byte a = s.byte a) ∧
           Sparse.get .empty t.hub.vocab x.slot = ⟨2, v.source, v.length, image, none⟩) ∧
       (∀ r, vocCheck image v.length = some r →
         ∃ t : State, exec .vocabularyLoadEnd s = .next ((t.respondTo c.input "VOCABULARY_LOAD" r []).ringDone c) ∧
         Sparse.get .empty t.hub.vocab x.slot = .empty)) ∧
     (v.state ≠ 1 → exec .vocabularyLoadEnd s = .next s) ∧
     (v.state ≠ 2 → v.state ≠ 3 ∨ v.loader ≠ some unload → reason .vocabularyUnload "VOCABULARY_UNLOAD" 8) ∧
     (v.state = 2 → s.vocabUsers x.slot ≠ 0 → reason .vocabularyUnload "VOCABULARY_UNLOAD" 7) ∧
     (v.state = 2 → s.vocabUsers x.slot = 0 → ∃ t : State, waits .vocabularyUnload t ∧ t.hub.responses = s.hub.responses ∧
       Sparse.get .empty t.hub.vocab x.slot = { v with state := 3, image := [], loader := some unload }) ∧
     (v.state = 3 → v.loader = some unload → ∃ t, done .vocabularyUnload "VOCABULARY_UNLOAD" t ∧
       Sparse.get .empty t.hub.vocab x.slot = .empty ∧ ∀ k, k ≠ x.slot → Sparse.get .empty t.hub.vocab k = Sparse.get .empty s.hub.vocab k) ∧
     runs .vstatRead (s.respond "VSTAT_READ" 0 (leBytes 8 (v.state % 4 + 2 ^ 16 * (s.vocabUsers x.slot % 2 ^ 20))))) ∧
    (x.data.length = 16 → x.ctx < 8192 → s.hub.keys.length < 65536 →
      ∃ t, done .contextKeyInstall "CONTEXT_KEY_INSTALL" t ∧ (∀ a, t.byte a = s.byte a) ∧
        Sparse.get none t.hub.keys (leNat x.data) = (if x.flag then none else some x.ctx) ∧
        ∀ k, k ≠ leNat x.data → Sparse.get none t.hub.keys k = Sparse.get none s.hub.keys k) ∧
    (x.data.length ≠ 16 → refused .contextKeyInstall "CONTEXT_KEY_INSTALL") ∧
    (x.data.length = 32 → ∃ t, done .transportKeyInstall "TRANSPORT_KEY_INSTALL" t ∧ Sparse.get [] t.hub.transport x.slot = x.data ∧
      (∀ a, t.byte a = s.byte a) ∧ ∀ k, k ≠ x.slot → Sparse.get [] t.hub.transport k = Sparse.get [] s.hub.transport k) ∧
    (x.index < 1024 → x.nats.length ≤ 1024 → (∀ m ∈ x.nats, m < 65536) → ∃ t, done .fabricGroupWrite "FABRIC_GROUP_WRITE" t ∧
      Sparse.get .empty t.hub.groups x.index = ⟨x.nats.length, x.va⟩ ∧
      (∀ k, k ≠ x.index → Sparse.get .empty t.hub.groups k = Sparse.get .empty s.hub.groups k) ∧
      (∀ (k m : Nat), x.nats[k]? = some m → Sparse.read 0#8 t.hub.memory (x.va + 2 * k) 2 = leBytes 2 m) ∧
      ∀ a, (a < x.va ∨ x.va + 2 * x.nats.length ≤ a) → Sparse.get 0#8 t.hub.memory a = Sparse.get 0#8 s.hub.memory a) ∧
    (x.port < 32 → (1 ≤ x.value → x.value ≤ 64 → ∃ t, done .runLengthSet "RUN_LENGTH_SET" t ∧
        t.linkPort x.port = { s.linkPort x.port with runLength := x.value } ∧ ∀ k, k ≠ x.port → t.linkPort k = s.linkPort k) ∧
      (x.value = 0 ∨ 64 < x.value → refused .runLengthSet "RUN_LENGTH_SET")) ∧
    (∀ v, (x.index, v) ∈ [(0, if (s.blk x.ctx 0).testBit 56 then s.blk x.ctx 0x68 % 2 ^ 32 else 0), (1, s.blk x.ctx 0x68 / 2 ^ 32 % 2 ^ 16),
        (2, s.blk x.ctx 0x140), (3, s.blk x.ctx 0x70)] →
      runs .counterRead (s.respond "COUNTER_READ" 0 (leBytes 8 v))) ∧
    (x.kind = 1 → runs .attestationCommand (s.respond "ATTESTATION_COMMAND" 0 Config.deviceCertificate)) ∧
    (x.kind = 0 → s.ctxState x.ctx = 5 → reason .attestationCommand "ATTESTATION_COMMAND" 1) ∧
    (x.kind = 0 → s.ctxState x.ctx ≠ 5 → s.cfghStalls x.ctx = true → waits .attestationCommand s) ∧
    (x.kind = 0 → s.ctxState x.ctx ≠ 5 → s.cfghStalls x.ctx = false → ∃ r, runs .attestationCommand (s.respond "ATTESTATION_COMMAND" 0 r) ∧
      (x.ctx < 65536 → r.take 8 = leBytes 4 1 ++ leBytes 2 x.ctx ++ leBytes 2 (s.ctxWid x.ctx)) ∧
      (r.drop 16).take 48 = s.meas x.ctx ∧ (r.drop 64).take 48 = s.cfgh x.ctx ∧ (x.data.length = 48 → (r.drop 112).take 48 = x.data)) ∧
    (∀ bs m, s.replayed x.ctx x.index = .ok (bs, m) →
      let kind := fieldNat bs 4 4
      let version := fieldNat bs 0x70 8
      let sameMeas : Prop := s.meas x.dest = (bs.drop 0x10).take 48
      let sameCfg : Prop := s.cfgh x.dest = (bs.drop 0x40).take 48
      let slot := (List.range 8).find? fun k =>
        let v := Sparse.get .empty s.hub.vocab k
        v.state = 2 && vocVersion v.image = version
      (¬ sameMeas → reason .replayCommand "REPLAY_COMMAND" 1) ∧
      (sameMeas → s.cfghStalls x.dest = true → waits .replayCommand s) ∧
      (s.cfghStalls x.dest = false → sameMeas → ¬ sameCfg → reason .replayCommand "REPLAY_COMMAND" 2) ∧
      (s.cfghStalls x.dest = false → sameMeas → sameCfg → slot = none → kind ≠ 1 ∨ version ≠ 0 → reason .replayCommand "REPLAY_COMMAND" 3) ∧
      (∀ k, s.cfghStalls x.dest = false → sameMeas → sameCfg → slot = some k →
        (s.ctxState x.dest ≠ 0 → reason .replayCommand "REPLAY_COMMAND" 4) ∧
        (s.ctxState x.dest = 0 → kind ≠ 1 →
          done .replayCommand "REPLAY_COMMAND" { s with hub := { s.hub with requests := s.hub.requests ++
            [⟨x.dest, none, m.take 0x28 ++ (bs.drop 8).take 8 ++ m.drop 0x30, k, version, .classified, []⟩] } }) ∧
        (∀ s1 t, s.ctxState x.dest = 0 → kind = 1 →
          s.appendDispatch x.dest ((List.range 6).map fun i => BitVec.ofNat 64 (fieldNat bs (0x88 + 8 * i) 8)) (fieldNat bs 8 8) version = .ok (s1, t) →
          runs .replayCommand (s1.respond "REPLAY_COMMAND" 0 (leBytes 8 t))))) ∧
    (1 ≤ x.index → x.index ≤ 9 → recordSeq s.platform.current.1 < 2 ^ 32 - 1 →
      ∃ t, done .bootStepClear "BOOT_STEP_CLEAR" t ∧ t.platform.stepStatus x.index = 0 ∧ t.platform.stepAlt x.index = false ∧
        (∀ k ≤ 9, k ≠ x.index → t.platform.stepStatus k = s.platform.stepStatus k ∧ t.platform.stepAlt k = s.platform.stepAlt k) ∧
        (x.flag = true → x.data ≠ [] → t.platform.image x.index (decide (x.kind % 2 = 1)) = x.data) ∧ ∀ a, t.byte a = s.byte a) ∧
    (x.index = 0 ∨ 9 < x.index → refused .bootStepClear "BOOT_STEP_CLEAR")

/-! The hub, the ports and the platform -/

/-- R31, R366, R369, R374 to R380, R389, R393, R394, R397: a message is dropped, answered with its error, or classified under its context
key and vocabulary; a Hackle engine tokenises it; its append takes a descriptor or answers why not; an open chunk leaves after 2,048 cycles;
a flit advances its port's run, a verified run is delivered, and a run whose tag fails is expected again; a payload is sent unless its channel is
paused, a payload taken frees its place, and a pause stops its channel within four flits. -/
def Obligations.HubAndPorts : Prop :=
  ∀ (s : State),
    let x := s.input
    let m := x.data
    let f (off n : Nat) : Nat := fieldNat m off n
    (∀ (i : Instr) (conn : Conn),
      (i = .requestMessage ∧ conn = .ethernet (65536 * x.port + x.index) ∧ x.port ≤ 3 ∨
        i = .virtioNetMessage ∧ conn = .virtio x.index ∧ (Sparse.get 0 s.hub.devStatus 0).testBit 2 = true) →
      x.flag = false → x.kind ≤ 1 → x.value = 0 → (∀ k ∈ x.nats, k ≤ 9000) → x.index < 65536 → m.length ≤ 1048576 →
      let answers (status aux : Nat) : Prop := exec i s = .next
        { s with hub := { s.hub with sent := s.hub.sent ++ [⟨conn, chunkBytes 1 status (f 0x30 8) 0 aux [], .rod⟩] } }
      let malformed : Prop := f 0 2 ≠ 1 ∨ f 2 2 < 64 ∨ m.length < f 2 2 ∨ 1 < f 4 4 ∨ f 0x39 7 ≠ 0 ∨ f 0x18 4 = 0 ∨ 1048576 < f 0x18 4
      (64 ≤ m.length → malformed → answers 5 0) ∧
      (64 ≤ m.length → ¬ malformed →
        (s.keyed (f 8 16) = none → answers 3 0) ∧
        (∀ c, s.keyed (f 8 16) = some c →
          (stopsMalformed m = true → answers 4 4) ∧
          (stopsMalformed m = false →
            (s.vocabSlot c = none → answers 4 1) ∧
            (∀ k, s.vocabSlot c = some k →
              exec i s = .next { s with hub := { s.hub with requests := s.hub.requests ++
                [⟨c, some conn, m, k, vocVersion (Sparse.get .empty s.hub.vocab k).image, .classified, []⟩] } }))))) ∧
    (let unsupported : Prop := 1 < x.kind ∨ x.value ≠ 0 ∨ 1048576 < m.length ∨ (∃ k ∈ x.nats, 9000 < k) ∨ 65536 ≤ x.index
     let drops (i : Instr) : Prop := exec i s = .next { s with hub := { s.hub with dropped := s.hub.dropped + 1 } }
     (x.flag = false → unsupported ∨ 3 < x.port → drops .requestMessage) ∧
     (x.flag = false → unsupported → (Sparse.get 0 s.hub.devStatus 0).testBit 2 = true → drops .virtioNetMessage)) ∧
    ((Sparse.get 0 s.hub.devStatus 0).testBit 2 = false → exec .virtioNetMessage s = .next s) ∧
    (∀ r, s.hub.requests[x.index]? = some r →
      let put (t : State) (q : List Request) : State :=
        { t with hub := { t.hub with requests := t.hub.requests.take x.index ++ q ++ t.hub.requests.drop (x.index + 1) } }
      let ts := hackle (Sparse.get .empty s.hub.vocab r.slot).image (r.message.drop (r.field 2 2))
      let earlier : Prop := ∃ y ∈ s.hub.requests.take x.index, y.ctx = r.ctx ∧ ∀ k, y.stage ≠ .appended k
      (r.stage = .classified → ts.length ≤ 1048576 →
        exec .hackleTokenisation s = .next (put s [{ r with stage := .tokenised, tokens := ts }])) ∧
      (∀ p, r.stage = .classified → 1048576 < ts.length → r.conn = some (.ethernet p) →
        exec .hackleTokenisation s = .next { put s [] with hub := { (put s []).hub with
          sent := s.hub.sent ++ [⟨.ethernet p, chunkBytes 1 4 (r.field 0x30 8) 0 2 [], .rod⟩] } }) ∧
      (r.stage ≠ .classified → exec .hackleTokenisation s = .next s) ∧
      (r.stage ≠ .tokenised ∨ earlier → exec .requestAppend s = .next s) ∧
      (r.stage = .tokenised → ¬ earlier →
        (∀ p status, r.conn = some (.ethernet p) →
          (s.appendArea r.ctx r.tokens.length = .full ∧ status = 6 ∨ s.appendArea r.ctx r.tokens.length = .bad ∧ status = 7) →
          exec .requestAppend s = .next { put s [] with hub := { (put s []).hub with
            sent := s.hub.sent ++ [⟨.ethernet p, chunkBytes 1 status (r.field 0x30 8) 0 0 [], .rod⟩] } }) ∧
        (s.appendArea r.ctx r.tokens.length = .stall → exec .requestAppend s = .next s) ∧
        (∀ q s1, s.appendArea r.ctx r.tokens.length = .ok q → (s.blk r.ctx 0).testBit 60 = false →
          let n := (s.extra r.ctx).reqseq
          s.writeAppend r.ctx q r.tokens { r.desc with tstart := q.ttail, tcount := r.tokens.length, reqid := n } = .ok s1 →
          ∃ t, exec .requestAppend s = .next t ∧ (∀ a, t.byte a = s1.byte a) ∧ (t.extra r.ctx).reqseq = (n + 1) % 2 ^ 32 ∧
            t.hub.requests[x.index]? = some { r with stage := .appended n, tokens := [] } ∧
            t.ctxState r.ctx = if s.ctxState r.ctx = 0 then 1 else s.ctxState r.ctx))) ∧
    (∀ r, s.stream? x.ctx = some r →
      let now := s.clock + Config.dieOffset s.resets (homeDie x.ctx)
      (∀ p, r.chunk ≠ [] → r.chunkAt + 2048 ≤ now → r.oneChunk = false → r.conn = some (.ethernet p) →
        ∃ t y, exec .chunkTimeout s = .next t ∧ t.stream? x.ctx = some y ∧ y.chunk = [] ∧ y.offset = r.offset ∧
          t.hub.sent = s.hub.sent ++ [⟨.ethernet p, chunkBytes 0 0 r.tag (r.offset - r.chunk.length) 0 r.chunk, .rod⟩]) ∧
      (r.chunk = [] ∨ now < r.chunkAt + 2048 → exec .chunkTimeout s = .next s)) ∧
    (let p := s.linkPort x.port
     let h := f 0 8
     let becomes (q : LinkPort) : Prop := exec .vudricFlitReceive s = .next (s.setLinkPort x.port q)
     let next := (p.expected + 1) % 2 ^ 24
     let vc := x.slot % 4
     (p.up = false → exec .vudricFlitReceive s = .next s) ∧
     (x.kind = 0 → Config.crc64 (m.take 248) ≠ m.drop 248 ∨ h % 2 ^ 24 ≠ p.expected ∨ flitLegal p.run.length m = false →
       exec .vudricFlitReceive s = .next s) ∧
     (x.kind = 0 → x.port < 32 → p.up = true → m.length = 256 → Config.crc64 (m.take 248) = m.drop 248 → h % 2 ^ 24 = p.expected →
       flitLegal p.run.length m = true →
       (h.testBit 30 = false → becomes { p with expected := next, run := p.run ++ [m] }.flow) ∧
       (h.testBit 30 = true → runHolds x.port p.run m = true →
         becomes ({ p with expected := next, run := [], failures := 0 }.deliver (p.run ++ [m])).flow) ∧
       (h.testBit 30 = true → runHolds x.port p.run m = false → p.failures < 7 →
         becomes { p with expected := (p.expected + 2 ^ 24 - p.run.length) % 2 ^ 24, run := [], failures := p.failures + 1 }.flow) ∧
       (h.testBit 30 = true → runHolds x.port p.run m = false → 7 ≤ p.failures →
         (∀ n ∈ allCores, ∀ j, s.job? n = some j → j.waitsOnPort x.port = false) →
         ∃ t, exec .vudricFlitReceive s = .next t ∧ (t.linkPort x.port).up = false ∧ t.down 0x20 x.port = true)) ∧
     (x.kind = 1 → x.port < 32 → p.up = true → Sparse.get none p.stopping vc ≠ some 0 →
       ∃ q flit, becomes q ∧ q.nextSeq = (p.nextSeq + 1) % 2 ^ 24 ∧ q.expected = p.expected ∧ q.sent.getLast? = some flit ∧
         fieldNat flit 0 3 = p.nextSeq % 2 ^ 24 ∧ flitChannel flit = vc ∧ flit.drop 248 = Config.crc64 (flit.take 248) ∧
         ∀ k : Nat, Sparse.get none p.stopping vc = some k → Sparse.get none q.stopping vc = some (k - 1)) ∧
     (x.kind = 1 → Sparse.get none p.stopping vc = some 0 → exec .vudricFlitReceive s = .next s) ∧
     (x.kind = 2 → x.port < 32 → p.up = true → ∃ q, becomes q ∧ q.run = p.run ∧
       Sparse.get [] q.delivered vc = (Sparse.get [] p.delivered vc).drop x.len) ∧
     (x.kind = 3 → x.port < 32 → p.up = true → ∃ q, becomes q ∧ q.run = p.run ∧
       (x.flag = true → Sparse.get none q.stopping vc = none) ∧ (x.flag = false → ∃ k ≤ 4, Sparse.get none q.stopping vc = some k))) ∧
    (x.index ≤ 2 → ∃ t, exec .virtioDeviceStatus s = .next t ∧
      Sparse.get 0 t.hub.devStatus x.index = virtioStatus virtioFeatures x.nats x.value ∧
      (∀ k, k ≠ x.index → Sparse.get 0 t.hub.devStatus k = Sparse.get 0 s.hub.devStatus k) ∧ ∀ a, t.byte a = s.byte a)

/-- R4, R208, R213, R231, R397, R419 to R423, R428 to R431, R435: the boot steps run in order by their recorded status and images, a failed one
resets the module; a reset leaves boot flash alone; heat throttles a core and a trip holds the module; an error takes its partition out of
service, with what R429 to R431 say of its jobs and worlds, until it is back; it ends a move of its page (R231). -/
def Obligations.PlatformEvents : Prop :=
  ∀ (s : State),
    let x := s.input
    let p := s.platform
    let n := p.step
    let fresh (t : State) : Prop := t.clock = 0 ∧ t.resets = s.resets + 1 ∧ t.mem = [] ∧ t.dies = [] ∧ t.blocks = [] ∧ t.routines = [] ∧
      t.hub = .reset ∧ t.platform.step = 0 ∧ t.platform.running = false ∧ t.platform.recovery = false ∧ t.platform.flash = p.flash
    let sameFlash (t : State) : Prop := t.platform.record = p.record ∧ t.platform.recordB = p.recordB
    let optional : Prop := n ∈ [4, 6, 7, 8, 9]
    let found := if p.stepStatus n = 1 then (if p.stepAlt n then 6 else 3) else p.stepStatus n
    let image := p.image n (p.stepAlt n)
    (p.held = true ∨ p.recovery = true ∨ 9 < n → exec .bootStep s = .next s) ∧
    (p.held = false → p.recovery = false → n ≤ 9 → recordSeq p.current.1 < 2 ^ 32 - 1 →
      ∃ t, exec .bootStep s = .next t ∧
        (n = 0 → t.platform = { p with step := 1, fwm := List.replicate 48 0 }) ∧
        (n ≠ 0 → p.running = false →
          ((found = 3 ∨ found = 6) → optional → t.platform.step = n + 1 ∧ t.platform.stepStatus n = 4) ∧
          (found = 4 → t.platform = { p with step := n + 1 }) ∧
          (found = 6 → ¬ optional → t.platform = { p with recovery := true }) ∧
          (found ∉ [4, 6] → ¬ (found = 3 ∧ optional) → t.platform.running = true ∧ t.platform.step = n ∧ t.platform.stepStatus n = 1 ∧
            (t.platform.stepAlt n = true ↔ p.stepAlt n = true ∨ found = 3))) ∧
        (n ≠ 0 → p.running = true →
          (imageHolds n image = true → x.flag = true → t.platform.step = n + 1 ∧ t.platform.running = false ∧
            t.platform.stepStatus n = (if p.stepAlt n then 5 else 2) ∧ t.platform.fwm = sha384 (p.fwm ++ sha384 (imageBody image)) ∧
            t.clock = (if n = 3 then 0 else s.clock) ∧
            (n = 3 → ∀ d i, t.frameExists d i = true → ownState (t.ownerEntry d i) = ownScrub)) ∧
          (imageHolds n image = false ∨ x.flag = false → fresh t ∧ t.platform.stepStatus n = if p.stepAlt n then 6 else 3))) ∧
    (p.recovery = true → imageHolds n x.data = true → recordSeq p.current.1 < 2 ^ 32 - 1 →
      ∃ t, exec .recoveryImage s = .next t ∧ t.platform.recovery = false ∧ t.platform.image n false = x.data ∧ t.platform.stepStatus n = 0 ∧
        t.platform.stepAlt n = false) ∧
    (p.recovery = false ∨ imageHolds n x.data = false → exec .recoveryImage s = .next s) ∧
    (∃ t, exec .moduleReset s = .next t ∧ fresh t ∧ sameFlash t ∧ t.platform.held = false) ∧
    (∃ t, exec .powerLoss s = .next t ∧ fresh t ∧ sameFlash t ∧ t.platform.held = true) ∧
    (recordSeq p.current.1 < 2 ^ 32 - 1 →
      ∃ t, exec .thermalTrip s = .next t ∧ fresh t ∧ t.platform.held = true ∧ (t.platform.word 0).testBit 0 = true) ∧
    (∃ t, exec .hotReset s = .next t ∧ (Config.hosted = true → fresh t) ∧
      (Config.hosted = false → t = { s with hub := { s.hub with devStatus := [] } })) ∧
    (∃ t, exec .bankThrottle s = .next t ∧ (∀ k, k ≠ x.core → t.core k = s.core k) ∧ (∀ a, t.byte a = s.byte a) ∧
      (112 ≤ x.value → (t.core x.core).throttle = 2) ∧
      (105 ≤ x.value → x.value < 112 → (t.core x.core).throttle = max 1 (s.core x.core).throttle) ∧
      (x.value ≤ 100 → (∀ b ∈ (s.core x.core).hot, b = x.index) → (t.core x.core).throttle = 0)) ∧
    (∀ j, x.kind = 0 → s.job? x.core = some j → x.engine = .s →
      let sel : Sel := if j.hmode then .hs else .s
      (j.areaPending = false → j.atHcall sel = false →
        exec .uncorrectableError s = .next (s.takeTrap x.core sel
          { trap 0x17 (x.va % 2 ^ 52) x.value with estat := j.sentRemote sel x.core x.dest })) ∧
      (j.areaPending = true → exec .uncorrectableError s = .next (s.recordFails x.core j)) ∧
      (j.areaPending = false → j.atHcall sel = true → exec .uncorrectableError s = .next (s.hcallFails x.core j))) ∧
    (∀ j, x.kind = 0x01 → s.job? x.unit = some j → s.ctxState j.ctx ≠ 4 → (∀ d < 8, (s.die d).objects = []) →
      ∃ t, exec .uncorrectableError s = .next t ∧ (t.core x.unit).alive = false ∧ t.job? x.unit = none ∧ t.ctxState j.ctx = 4 ∧
        t.blk j.ctx 0 % 2 ^ 8 = 0x17 ∧ (t.extra j.ctx).wanted = true ∧ t.down 0x01 x.unit = true) ∧
    ((∀ b ∈ s.blocks, s.ctxWid b.1 ∉ s.blastSet x.kind x.unit) →
      ∃ t, exec .uncorrectableError s = .next t ∧
        (∀ l, x.kind = 0x02 → x.flag = true → let y := s.slice (x.unit / 32) (x.unit % 32)
          y.queues = [] → y.lines.filter (fun l => l.line = x.line && l.dirty) = [l] →
          (t.slice (x.unit / 32) (x.unit % 32)).lines = [] ∧ ∀ a, t.byte a = (s.writePa (64 * x.line) l.stale).byte a) ∧
        (x.kind = 0x03 → ∀ k < 8, x.unit % 2048 * 8 + k < hostBase →
          ownState (t.ownerEntry (x.unit / 2048) (x.unit % 2048 * 8 + k)) = ownScrub) ∧
        (x.kind = 0x04 → ∀ a, (a < x.va ∨ x.va + x.len ≤ a ∨ inChannel x.unit a = false) → t.byte a = s.byte a) ∧
        (∀ d src dst m, (s.die d).work = [.move src dst 1 m] → src ≠ dst → s.frameExists d src = true → s.frameExists d dst = true →
          (x.kind = 0x03 ∧ d = x.unit / 2048 ∧ src / 8 = x.unit % 2048 ∨
            x.kind = 0x04 ∧ d = x.unit / 64 ∧ inChannel x.unit (framePa d src) = true ∧ x.va < framePa d src + 131072 ∧
              framePa d src < x.va + x.len) →
          PageWork.move src dst 1 m ∉ (t.die d).work ∧ ownState (t.ownerEntry d dst) = ownScrub ∧
            (x.kind = 0x04 → ownState (t.ownerEntry d src) = ownPrev (s.ownerEntry d src))) ∧
        (x.kind = 0x05 → (t.die x.unit).objects = [] ∧ (t.die x.unit).waiters = []) ∧
        (x.kind = 0x06 → t = { s with platform := { p with resets := p.resets ++ [⟨0x06, x.unit⟩] } }) ∧
        (x.kind = 0x07 → (t.die x.unit).alive = false ∧ ∀ c < 16, ∀ j, s.job? (16 * x.unit + c) = some j → (t.extra j.ctx).wanted = true) ∧
        (x.kind = 0x20 → (t.linkPort x.unit).up = false ∧ t.down 0x20 x.unit = true)) ∧
    (∀ c b k, x.kind = 0x06 → s.blocks = [(c, b)] → s.ctxState c ≠ 5 → s.ctxWid c ∈ s.blastSet 0x06 x.unit → s.coresOf c = [k] →
      ∃ a, exec .uncorrectableError s =
        .next (({ s with platform := { p with resets := p.resets ++ [⟨0x06, x.unit⟩] } } : State).asyncTrap k 0x17 a 0x06)) ∧
    (s.down x.kind x.unit = false → exec .partitionBackInService s = .next s) ∧
    (s.down x.kind x.unit = true →
      ∃ t, exec .partitionBackInService s = .next t ∧ t.down x.kind x.unit = false ∧ (∀ a, t.byte a = s.byte a) ∧
        (x.kind = 0x01 → (t.core x.unit).alive = true) ∧ (x.kind = 0x07 → (t.die x.unit).alive = true) ∧
        (x.kind = 0x20 → (t.linkPort x.unit).up = true))

/-! The machine as a whole -/

/-- R4, R211, R301, R323, R329, R359, R420: after reset the boot steps come first and the clock stands at 0; every control block is retired
with every other field zero, every ownership entry of a frame of the module is in SCRUB and every bank tag too, no routine slot is live and no
vocabulary slot holds an image; no core runs a job, and memory is in its canonical form. -/
def Obligations.ResetState : Prop :=
  let s := State.reset
  s.turn = .event .bootStep {} ∧ s.platform.step = 0 ∧ s.platform.held = false ∧ s.clock = 0 ∧ Memory.wf s.mem = true ∧
    (∀ c, s.ctxState c = 5 ∧ s.blk c 0 = 0xA000000000000000 ∧ ∀ off, 8 ≤ off → s.blk c off = 0) ∧
    (∀ d i, s.frameExists d i = true → ownState (s.ownerEntry d i) = ownScrub) ∧ (∀ r, s.ring r = []) ∧ (∀ d b, Sparse.get tagReset (s.die d).tags b = 0x4000) ∧
    (∀ k, (s.routine k).live = false ∧ (s.routine k).gen = 0) ∧ (∀ k, (Sparse.get .empty s.hub.vocab k).state = 0) ∧
    ∀ n, s.job? n = none ∧ (s.core n).tlb = []

/-- R57 to R60, R297, R298, R391: words the spec writes out decode to the instructions they stand for, one or more of every family. -/
def Obligations.KnownWords : Prop :=
  decode .s 0x01000C28A000C00000000000 = .ok (.add ⟨⟨0, 0⟩, 6, 5, 5, 0, 0, 3⟩) ∧
  decode .s 0x30000020C400000000000000 = .ok (.cmpeqi ⟨⟨0, 0⟩, 0, 4, 3, 1, 0⟩) ∧
  decode .s 0x40080000000000000000005C = .ok (.br ⟨⟨0, 1⟩, 0, 0, 0, 0, 92⟩) ∧
  decode .s 0x60010E20A000028A00000010 = .ok (.ld ⟨⟨0, 0⟩, 2, 7, 4, 5, 0, 0, 0, 1, 1, 2, 2, 0, 0, 0, 16⟩) ∧
  decode .s 0x6E009021200002800C000000 = .ok (.lathe ⟨⟨0, 0⟩, 1, 8, 4, 9, 0, 0, 0, 1, 1, 0, 0, 0, 0, 3, 0⟩) ∧
  decode .s 0x84008A20C001A00000000000 = .ok (.phsw ⟨⟨0, 0⟩, 1, 5, 4, 6, 0, 3, 1, 0⟩) ∧
  decode .s 0xA3000E000000000000000578 = .ok (.qwaitTimeout ⟨⟨0, 0⟩, 0, 7, 0, 0, 0, 0, 0, 1400⟩) ∧
  decode .s 0xC70010000000000000000100 = .ok (.hcall ⟨⟨0, 0⟩, 0, 8, 0, 0, 0, 0, 0, 0x100⟩) ∧
  decode .v 0x05000043CF000D0000000000 = .ok (.vfms ⟨⟨0, 0⟩, 0, 8, 30, 30, 0, 0, 0, 13, 0, 0, 0, 0, 0⟩) ∧
  decode .v 0xA00000000000004000001000 = .ok (.vld ⟨⟨0, 0⟩, 0, 0, 0, 0, 0, 0, 0, 2, 0, 0, 0x1000⟩) ∧
  decode .v 0xF00000000822000000000000 = .ok (.rep ⟨⟨0, 0⟩, 0, 4, 1, 1, 0, 0, 0⟩) ∧
  decode .m 0x0100248400FE000000004000 = .ok (.mma ⟨⟨0, 0⟩, 0, 2, 1, 0, 16, 16, 127, 0, 0, 0, 0, 1⟩) ∧
  decode .c 0x0100A8516602520000000000 = .ok (.cp ⟨⟨0, 0⟩, 1, 20, 10, 11, 12, 0, 0, 9, 9, 0, 0, 0, 0⟩) ∧
  decodeSlice 0x18828001 = .ok (.sliceSkip 4 0 2 1 1) ∧ decodeService 0x0073028B = .ok (.gjDispatch 5 6 7)

/-- R40, R50, R57 to R60, R297, R298, R391: decoding gives back every well-formed instruction from its bytes, and every word that decodes is
the encoding of the instruction it decodes to, which is well formed: no two instructions share a word, and no bit of a word is dropped. -/
def Obligations.DecodeEncode : Prop :=
  (∀ i : Instr, i.wellFormed = true → i.source ≠ .event →
    (encode i).length = i.byteLength ∧ decodeSource i.source (leNat (encode i)) = .ok i) ∧
  (∀ (src : Source) (w : Nat) (i : Instr), w < 2 ^ (if src = .slice ∨ src = .service then 32 else 96) → decodeSource src w = .ok i →
    i.wellFormed = true ∧ i.source = src ∧ leNat (encode i) = w)

/-- R40, R52, R299, R391, R420: a step runs the instruction its turn comes to, then lets time pass and hands the turn on. A stream at a header runs
the passing of that header; at a word, it fetches the word's 12 bytes, unless it already has them, decodes them and runs what they decode to,
and bits that are no instruction trap with the cause R52 gives; a repeated word runs again; a slice and a service core run the word they stand
at, and an event runs with what it names. While the module is held nothing runs but a reset or the loss of power, and
before its boot steps have let a unit act, nothing of that unit. -/
def Obligations.StepRunsTheInstruction : Prop :=
  ∀ (s : State),
    let runs (i : Instr) (s1 : State) : Prop := ∀ t, exec i s1 = .next t → step s = .next t.afterTurn
    let becomes (t : State) : Prop := step s = .next t.afterTurn
    (s.platform.held = false → s.platform.lets s.turn = true →
      (∀ n sel j, s.turn = .stream n sel → n < 128 → s.job? n = some j → j.mayIssue sel = true →
        let st := j.stream sel
        let again : Prop := sel = .v ∧ j.repValid = true
        (st.header = none → runs .sectionIssue s) ∧
        (∀ w, st.header ≠ none → st.fetched = some w →
          (again → runs .repetition s) ∧
          (∀ i, ¬ again → decode sel.engine w.toNat = .ok i → runs i s) ∧
          (∀ r, ¬ again → decode sel.engine w.toNat = .error r →
            let next := s.afterRep sel j w
            (∀ a, next = .stall a → becomes (s.stalled n sel.engine a .fetch)) ∧
            ((∀ a, next ≠ .stall a) →
              (j.trapHeld sel = false → becomes (s.takeTrap n sel (trap (if next = .bad then 0x01 else r.cause) 0 (w.toNat / 2 ^ 32)))) ∧
              (j.trapHeld sel = true → becomes s)))) ∧
        (st.header ≠ none → st.fetched = none →
          let at_ := st.hdr + 8 + 12 * (st.word - 1)
          (∀ bs i, ¬ again → s.fetch j at_ 12 = .ok bs →
            let w : IWord := BitVec.ofNat 96 (leNat bs)
            decode sel.engine w.toNat = .ok i → runs i ((s.fetchLines j at_ 12).setJob n (j.updStream sel fun st => { st with fetched := some w }))) ∧
          (∀ a, s.fetch j at_ 12 = .stall a → becomes (s.stalled n sel.engine a .fetch)) ∧
          (∀ c a x, s.fetch j at_ 12 = .trap c a x → j.trapHeld sel = false → becomes (s.takeTrap n sel (trap c a x))))) ∧
      (∀ n sel j, s.turn = .stream n sel → n < 128 → s.job? n = some j → j.mayIssue sel = false → becomes s) ∧
      (∀ d k x w i, s.turn = .slice d k → d < 8 → k < 32 → (s.slice d k).rm.active = some x → (s.slice d k).rm.word = some w →
        decodeSlice w.toNat = .ok i → runs i s) ∧
      (∀ n i, s.turn = .service n → n < 16 → decodeService (Sparse.get 0 (s.service n).words (s.service n).pc).toNat = .ok i → runs i s) ∧
      (∀ i x, s.turn = .event i x → runs i { s with input := x })) ∧
    (s.platform.held = false → s.platform.lets s.turn = false → becomes s) ∧
    (s.platform.held = true → ∀ i x, s.turn = .event i x → (i = .moduleReset ∨ i = .powerLoss → runs i { s with input := x }) ∧
      (i ≠ .moduleReset → i ≠ .powerLoss → becomes s)) ∧
    (s.afterTurn.mem = s.mem ∧ s.afterTurn.tick = s.tick + 1 ∧ s.afterTurn.clock = s.clock + Config.elapsed s.tick ∧
      ∀ x r, s.schedule = x :: r → (∀ d k, s.turn ≠ .slice d k) → s.afterTurn.turn = x ∧ s.afterTurn.schedule = r)

/-- Every instruction answers a next state in every state, and a step stops only where its turn names a unit the module does not have, or a
service core stands at a word the spec does not describe (R391). -/
def Obligations.EveryInstructionAnswers : Prop :=
  (∀ (i : Instr) (s : State), ∃ t, exec i s = .next t) ∧ (∀ s : State, s.safe = true → ∃ t, step s = .next t) ∧
  (∀ (s : State) (r : Refusal), step s = .refused r → ∃ n w, s.turn = .service n ∧ r = .notDescribed w ∧ ∀ i, decodeService w ≠ .ok i) ∧
  ∀ (s : State) (f : Fault), step s = .fault f → f = .noSuchUnit ∧ s.turn.known = false

/-- R206, R309: memory is one byte at every address, in one form: every step keeps the canonical form of memory, in which equal memories are
equal data. -/
def Obligations.MemoryStaysCanonical : Prop :=
  ∀ (s t : State), Memory.wf s.mem = true → step s = .next t → Memory.wf t.mem = true
end

