-- ==== Sys2Proof/Laws/Sparse.lean ====
section
/-!
SUPPORT. Sparse maps: what reading gives after writing, and that every operation keeps the canonical form.
-/
namespace Sys2Proof.Sparse
variable {α : Type}

@[simp] theorem get_nil (d : α) (k : Nat) : get d [] k = d := rfl

theorem get_cons (d : α) (a : Nat) (x : α) (r : Sparse α) (k : Nat) : get d ((a, x) :: r) k = if a = k then x else get d r k := rfl

theorem get_append (d : α) (m r : Sparse α) (k : Nat) :
    get d (m ++ r) k = if k ∈ m.map (·.1) then get d m k else get d r k := by
  induction m with
  | nil => simp
  | cons p m ih =>
    obtain ⟨a, x⟩ := p
    by_cases h : a = k
    · subst h; simp [get_cons]
    · simp only [List.cons_append, get_cons, h, if_false, ih, List.map_cons, List.mem_cons, Ne.symm h, false_or]

theorem get_not_mem (d : α) (m : Sparse α) (k : Nat) (h : k ∉ m.map (·.1)) : get d m k = d := by
  induction m with
  | nil => rfl
  | cons p m ih =>
    simp only [List.map_cons, List.mem_cons, not_or] at h
    obtain ⟨a, x⟩ := p
    simp only at h
    rw [get_cons, if_neg (Ne.symm h.1), ih h.2]

theorem get_filter (d : α) (f : Nat → Bool) (m : Sparse α) (k : Nat) :
    get d (m.filter fun p => f p.1) k = if f k then get d m k else d := by
  induction m with
  | nil => simp
  | cons p m ih =>
    obtain ⟨a, x⟩ := p
    by_cases h : a = k
    · subst h
      cases hf : f a <;> simp [hf, get_cons, ih]
    · cases hf : f a <;> simp [hf, get_cons, ih, h]

theorem get_ins_same (d : α) (k : Nat) (v : α) (m : Sparse α) (h : k ∉ m.map (·.1)) : get d (ins k v m) k = v := by
  induction m with
  | nil => simp [ins, get_cons]
  | cons p m ih =>
    obtain ⟨a, x⟩ := p
    simp only [List.map_cons, List.mem_cons, not_or] at h
    unfold ins
    split
    · simp [get_cons]
    · rw [get_cons, if_neg (Ne.symm h.1), ih h.2]

theorem get_ins_other (d : α) (k : Nat) (v : α) (m : Sparse α) (k' : Nat) (h : k ≠ k') : get d (ins k v m) k' = get d m k' := by
  induction m with
  | nil => simp [ins, get_cons, h]
  | cons p m ih =>
    obtain ⟨a, x⟩ := p
    unfold ins
    split
    · rw [get_cons, if_neg h]
    · rw [get_cons, get_cons, ih]

theorem not_mem_filter_ne (k : Nat) (m : Sparse α) : k ∉ (m.filter fun p => p.1 ≠ k).map (·.1) := by simp

/-- What a key holds after a write: the value written there, and elsewhere what it held. -/
theorem get_set [DecidableEq α] (d : α) (m : Sparse α) (k : Nat) (v : α) (k' : Nat) :
    get d (set d m k v) k' = if k = k' then v else get d m k' := by
  have hf := get_filter d (fun a => decide (a ≠ k)) m k'
  unfold set
  by_cases hv : v = d <;> by_cases hk : k = k'
  · subst hk; simp_all
  · simp only [hv, if_true, hk, if_false]; rw [hf]; simp [Ne.symm hk]
  · subst hk; simp only [hv, if_false, if_true]; exact get_ins_same d k v _ (not_mem_filter_ne k m)
  · simp only [hv, if_false, hk]; rw [get_ins_other d k v _ k' hk, hf]; simp [Ne.symm hk]

@[simp] theorem get_set_same [DecidableEq α] (d : α) (m : Sparse α) (k : Nat) (v : α) : get d (set d m k v) k = v := by
  simp [get_set]

@[simp] theorem get_set_other [DecidableEq α] (d : α) (m : Sparse α) (k : Nat) (v : α) (k' : Nat) (h : k ≠ k') :
    get d (set d m k v) k' = get d m k' := by simp [get_set, h]

theorem filter_ins_ne (k : Nat) (v : α) (m : Sparse α) : (ins k v m).filter (fun p => p.1 ≠ k) = m.filter (fun p => p.1 ≠ k) := by
  induction m with
  | nil => simp [ins]
  | cons p m ih =>
    obtain ⟨a, x⟩ := p
    unfold ins
    split
    · simp
    · by_cases h : a = k
      · subst h; simpa using ih
      · simpa [h] using ih

/-- A second write of a key replaces the first. -/
@[simp] theorem set_set [DecidableEq α] (d : α) (m : Sparse α) (k : Nat) (v w : α) : set d (set d m k v) k w = set d m k w := by
  have h : (set d m k v).filter (fun p => p.1 ≠ k) = m.filter (fun p => p.1 ≠ k) := by
    unfold set
    split
    · simp
    · rw [filter_ins_ne]; simp
  rw [set.eq_1 d (set d m k v) k w, h]; rfl

/-! The canonical form -/

theorem wfFrom_mono [DecidableEq α] (d : α) (m : Sparse α) (lo lo' : Nat) (h : lo' ≤ lo) (hm : wfFrom d lo m = true) :
    wfFrom d lo' m = true := by
  cases m with
  | nil => rfl
  | cons p m =>
    obtain ⟨a, x⟩ := p
    simp only [wfFrom, Bool.and_eq_true, decide_eq_true_eq] at hm ⊢
    exact ⟨⟨by omega, hm.1.2⟩, hm.2⟩

theorem wfFrom_filter [DecidableEq α] (d : α) (f : Nat × α → Bool) (m : Sparse α) (lo : Nat) (h : wfFrom d lo m = true) :
    wfFrom d lo (m.filter f) = true := by
  induction m generalizing lo with
  | nil => rfl
  | cons p m ih =>
    obtain ⟨a, x⟩ := p
    simp only [wfFrom, Bool.and_eq_true, decide_eq_true_eq] at h
    rw [List.filter_cons]
    split
    · simp only [wfFrom, Bool.and_eq_true, decide_eq_true_eq]
      exact ⟨h.1, ih _ h.2⟩
    · exact ih _ (wfFrom_mono d m (a + 1) lo (by omega) h.2)

theorem wfFrom_ins [DecidableEq α] (d : α) (k : Nat) (v : α) (m : Sparse α) (lo : Nat) (hv : v ≠ d) (hk : lo ≤ k)
    (hn : k ∉ m.map (·.1)) (h : wfFrom d lo m = true) : wfFrom d lo (ins k v m) = true := by
  induction m generalizing lo with
  | nil => simp [ins, wfFrom, hv, hk]
  | cons p m ih =>
    obtain ⟨a, x⟩ := p
    simp only [wfFrom, Bool.and_eq_true, decide_eq_true_eq] at h
    simp only [List.map_cons, List.mem_cons, not_or] at hn
    unfold ins
    split
    · simp only [wfFrom, Bool.and_eq_true, decide_eq_true_eq]
      exact ⟨⟨hk, hv⟩, ⟨by omega, h.1.2⟩, h.2⟩
    · simp only [wfFrom, Bool.and_eq_true, decide_eq_true_eq]
      exact ⟨h.1, ih _ (by omega) hn.2 h.2⟩

/-- A write keeps the canonical form. -/
theorem wf_set [DecidableEq α] (d : α) (m : Sparse α) (k : Nat) (v : α) (h : wf d m = true) : wf d (set d m k v) = true := by
  unfold set
  split
  · exact wfFrom_filter d _ m 0 h
  · exact wfFrom_ins d k v _ 0 (by assumption) (by omega) (not_mem_filter_ne k m) (wfFrom_filter d _ m 0 h)

theorem wfFrom_ofList [DecidableEq α] (d : α) (xs : List α) (a : Nat) : wfFrom d a (ofList d a xs) = true := by
  induction xs generalizing a with
  | nil => rfl
  | cons x xs ih =>
    unfold ofList
    split
    · exact wfFrom_mono d _ (a + 1) a (by omega) (ih _)
    · simp only [wfFrom, Bool.and_eq_true, decide_eq_true_eq]
      exact ⟨⟨by omega, by assumption⟩, ih _⟩

/-- One list after another: the second's keys lie past the first's. -/
theorem wfFrom_append [DecidableEq α] (d : α) (m r : Sparse α) (lo mid : Nat) (hm : wfFrom d lo m = true) (hr : wfFrom d mid r = true)
    (hl : lo ≤ mid) (hb : ∀ p ∈ m, p.1 < mid) : wfFrom d lo (m ++ r) = true := by
  induction m generalizing lo with
  | nil => exact wfFrom_mono d r mid lo hl hr
  | cons p m ih =>
    obtain ⟨a, x⟩ := p
    simp only [wfFrom, Bool.and_eq_true, decide_eq_true_eq, List.cons_append] at hm ⊢
    have ha : a < mid := hb (a, x) (by simp)
    exact ⟨hm.1, ih _ hm.2 (by omega) fun p hp => hb p (by simp [hp])⟩

theorem wfFrom_raise [DecidableEq α] (d : α) (m : Sparse α) (lo hi : Nat) (h : wfFrom d lo m = true) (hb : ∀ p ∈ m, hi ≤ p.1) :
    wfFrom d hi m = true := by
  cases m with
  | nil => rfl
  | cons p m =>
    obtain ⟨a, x⟩ := p
    simp only [wfFrom, Bool.and_eq_true, decide_eq_true_eq] at h ⊢
    exact ⟨⟨hb (a, x) (by simp), h.1.2⟩, h.2⟩

theorem wfFrom_shift [DecidableEq α] (d : α) (m : Sparse α) (lo a : Nat) (h : wfFrom d lo m = true) :
    wfFrom d (lo + a) (m.map fun p => (p.1 + a, p.2)) = true := by
  induction m generalizing lo with
  | nil => rfl
  | cons p m ih =>
    obtain ⟨b, x⟩ := p
    simp only [wfFrom, Bool.and_eq_true, decide_eq_true_eq, List.map_cons] at h ⊢
    refine ⟨⟨by omega, h.1.2⟩, ?_⟩
    have := ih _ h.2
    rwa [show b + 1 + a = b + a + 1 by omega] at this

theorem wfFrom_lower [DecidableEq α] (d : α) (m : Sparse α) (lo a : Nat) (h : wfFrom d (lo + a) m = true) :
    wfFrom d lo (m.map fun p => (p.1 - a, p.2)) = true := by
  induction m generalizing lo with
  | nil => rfl
  | cons p m ih =>
    obtain ⟨b, x⟩ := p
    simp only [wfFrom, Bool.and_eq_true, decide_eq_true_eq, List.map_cons] at h ⊢
    refine ⟨⟨by omega, h.1.2⟩, ih _ ?_⟩
    rw [show b - a + 1 + a = b + 1 by omega]; exact h.2

theorem wfFrom_bound [DecidableEq α] (d : α) (m : Sparse α) (lo : Nat) (h : wfFrom d lo m = true) (p : Nat × α) (hp : p ∈ m) : lo ≤ p.1 := by
  induction m generalizing lo with
  | nil => simp at hp
  | cons q m ih =>
    obtain ⟨a, x⟩ := q
    simp only [wfFrom, Bool.and_eq_true, decide_eq_true_eq] at h
    rcases List.mem_cons.mp hp with rfl | hp
    · exact h.1.1
    · have := ih _ h.2 hp; omega

/-- A window of a canonical map is canonical. -/
theorem wf_window [DecidableEq α] (d : α) (m : Sparse α) (a n : Nat) (h : wf d m = true) : wf d (window m a n) = true := by
  unfold wf window
  apply wfFrom_lower
  refine wfFrom_raise d _ 0 _ (wfFrom_filter d _ m 0 h) ?_
  intro p hp
  simp only [List.mem_filter, Bool.and_eq_true, decide_eq_true_eq] at hp
  omega

/-- Replacing a range of a canonical map by a canonical map keeps the form. -/
theorem wf_overlay [DecidableEq α] (d : α) (m : Sparse α) (a n : Nat) (c : Sparse α) (h : wf d m = true) (hc : wf d c = true) :
    wf d (overlay m a n c) = true := by
  unfold wf overlay
  have h1 : wfFrom d 0 (m.filter fun p => p.1 < a) = true := wfFrom_filter d _ m 0 h
  have h2 : wfFrom d a ((c.filter fun p => p.1 < n).map fun p => (p.1 + a, p.2)) = true := by
    have := wfFrom_shift d _ 0 a (wfFrom_filter d (fun p => p.1 < n) c 0 hc)
    simpa using this
  have h3 : wfFrom d (a + n) (m.filter fun p => a + n ≤ p.1) = true := by
    refine wfFrom_raise d _ 0 _ (wfFrom_filter d _ m 0 h) ?_
    intro p hp
    simpa using (List.mem_filter.mp hp).2
  refine wfFrom_append d _ _ 0 (a + n) (wfFrom_append d _ _ 0 a h1 h2 (by omega) ?_) h3 (by omega) ?_
  · intro p hp
    simpa using (List.mem_filter.mp hp).2
  · intro p hp
    rcases List.mem_append.mp hp with hp | hp
    · have : p.1 < a := by simpa using (List.mem_filter.mp hp).2
      omega
    · obtain ⟨q, hq, rfl⟩ := List.mem_map.mp hp
      have : q.1 < n := by simpa using (List.mem_filter.mp hq).2
      simp only; omega

/-- Writing a list keeps the canonical form. -/
theorem wf_blit [DecidableEq α] (d : α) (m : Sparse α) (a : Nat) (xs : List α) (h : wf d m = true) : wf d (blit d m a xs) = true :=
  wf_overlay d m a xs.length _ h (wfFrom_ofList d xs 0)

/-! Reading after writing a range -/

theorem get_ofList [DecidableEq α] (d : α) (xs : List α) (a k : Nat) :
    get d (ofList d a xs) k = if a ≤ k then xs.getD (k - a) d else d := by
  induction xs generalizing a with
  | nil => simp [ofList]
  | cons x xs ih =>
    unfold ofList
    have hstep : get d (ofList d (a + 1) xs) k = if a + 1 ≤ k then xs.getD (k - (a + 1)) d else d := ih (a + 1)
    by_cases hak : a = k
    · subst hak
      split
      · rw [hstep]; simp_all
      · simp [get_cons]
    · have hr : get d (if x = d then ofList d (a + 1) xs else (a, x) :: ofList d (a + 1) xs) k = get d (ofList d (a + 1) xs) k := by
        split
        · rfl
        · rw [get_cons, if_neg hak]
      have hr' : (if a ≤ k then (x :: xs).getD (k - a) d else d) = (if a + 1 ≤ k then xs.getD (k - (a + 1)) d else d) := by
        by_cases hlt : a + 1 ≤ k
        · obtain ⟨i, rfl⟩ : ∃ i, k = a + 1 + i := ⟨k - (a + 1), by omega⟩
          simp [show a ≤ a + 1 + i by omega, show a + 1 + i - a = i + 1 by omega]
        · simp [show ¬ a ≤ k by omega, hlt]
      rw [hr', ← hstep, ← hr]

theorem get_map_shift (d : α) (m : Sparse α) (a k : Nat) :
    get d (m.map fun p => (p.1 + a, p.2)) k = if a ≤ k then get d m (k - a) else d := by
  induction m with
  | nil => simp
  | cons p m ih =>
    obtain ⟨b, x⟩ := p
    simp only [List.map_cons, get_cons, ih]
    by_cases h : b + a = k
    · subst h; simp
    · by_cases hk : a ≤ k
      · have : b ≠ k - a := by omega
        simp [h, hk, this]
      · simp [h, hk]

theorem mem_filter_keys (f : Nat → Bool) (m : Sparse α) (k : Nat) (h : k ∈ (m.filter fun p => f p.1).map (·.1)) : f k = true := by
  obtain ⟨p, hp, rfl⟩ := List.mem_map.mp h
  exact (List.mem_filter.mp hp).2

/-- What a key holds after a range has been replaced. -/
theorem get_overlay (d : α) (m : Sparse α) (a n : Nat) (c : Sparse α) (k : Nat) :
    get d (overlay m a n c) k = if a ≤ k ∧ k < a + n then get d c (k - a) else get d m k := by
  unfold overlay
  have e1 := get_filter d (fun x => decide (x < a)) m k
  have e3 := get_filter d (fun x => decide (a + n ≤ x)) m k
  have e2 : get d ((c.filter fun p => p.1 < n).map fun p => (p.1 + a, p.2)) k
      = if a ≤ k ∧ k < a + n then get d c (k - a) else d := by
    rw [get_map_shift, get_filter d (fun x => decide (x < n)) c]
    by_cases h1 : a ≤ k
    · by_cases h2 : k < a + n
      · simp [h1, h2, show k - a < n by omega]
      · simp [h1, h2, show ¬ k - a < n by omega]
    · simp [h1]
  have m1 : k ∈ (m.filter fun p => decide (p.1 < a)).map (·.1) → k < a := fun h => by
    simpa using mem_filter_keys (fun x => decide (x < a)) m k h
  have m2 : k ∈ ((c.filter fun p => decide (p.1 < n)).map fun p => (p.1 + a, p.2)).map (·.1) → a ≤ k ∧ k < a + n := fun h => by
    obtain ⟨p, hp, rfl⟩ := List.mem_map.mp h
    obtain ⟨q, hq, rfl⟩ := List.mem_map.mp hp
    have : q.1 < n := by simpa using (List.mem_filter.mp hq).2
    simp only; omega
  simp only [get_append, List.map_append, List.mem_append]
  by_cases c1 : k ∈ (m.filter fun p => decide (p.1 < a)).map (·.1)
  · have := m1 c1
    rw [if_pos (Or.inl c1), if_pos c1, e1]
    simp [this, show ¬ (a ≤ k ∧ k < a + n) by omega]
  · by_cases c2 : k ∈ ((c.filter fun p => decide (p.1 < n)).map fun p => (p.1 + a, p.2)).map (·.1)
    · rw [if_pos (Or.inr c2), if_neg c1, e2]
      simp [m2 c2]
    · rw [if_neg (by tauto), e3]
      by_cases hin : a ≤ k ∧ k < a + n
      · have := get_not_mem d _ k c2
        rw [e2] at this
        simp only [hin, and_self, if_true] at this ⊢
        simp [this, show ¬ a + n ≤ k by omega]
      · rw [if_neg hin]
        by_cases hlt : k < a
        · have := get_not_mem d _ k c1
          rw [e1] at this
          simp only [hlt, decide_true, if_true] at this
          simp [this]
        · simp [show a + n ≤ k by omega]

/-- What a key holds after a list has been written. -/
theorem get_blit [DecidableEq α] (d : α) (m : Sparse α) (a : Nat) (xs : List α) (k : Nat) :
    get d (blit d m a xs) k = if a ≤ k ∧ k < a + xs.length then xs.getD (k - a) d else get d m k := by
  unfold blit
  rw [get_overlay, get_ofList]
  simp

/-- Reading back a list that has been written. -/
theorem read_blit [DecidableEq α] (d : α) (m : Sparse α) (a : Nat) (xs : List α) : read d (blit d m a xs) a xs.length = xs := by
  unfold read
  apply List.ext_getElem
  · simp
  · intro i h1 h2
    simp only [List.getElem_map, List.getElem_range]
    rw [get_blit, if_pos (by omega)]
    simp [List.getD_eq_getElem?_getD, h2]

/-! Writing back -/

theorem not_mem_of_wfFrom [DecidableEq α] (d : α) (m : Sparse α) (lo k : Nat) (h : wfFrom d lo m = true) (hk : k < lo) : k ∉ m.map (·.1) := by
  intro hm
  obtain ⟨p, hp, rfl⟩ := List.mem_map.mp hm
  have := wfFrom_bound d m lo h p hp
  omega

/-- Writing back what a key holds changes nothing. -/
theorem set_get_self [DecidableEq α] (d : α) (m : Sparse α) (lo k : Nat) (h : wfFrom d lo m = true) : set d m k (get d m k) = m := by
  induction m generalizing lo with
  | nil => simp [get, set]
  | cons p m ih =>
    obtain ⟨a, x⟩ := p
    simp only [wfFrom, Bool.and_eq_true, decide_eq_true_eq] at h
    obtain ⟨⟨_, hx⟩, hr⟩ := h
    have hset := ih _ hr
    rw [get_cons]
    by_cases hak : a = k
    · subst hak
      have hn := not_mem_of_wfFrom d m (a + 1) a hr (by omega)
      have hf : m.filter (fun p => p.1 ≠ a) = m := List.filter_eq_self.mpr fun p hp => by
        simp only [ne_eq, decide_eq_true_eq]; rintro rfl; exact hn (List.mem_map_of_mem hp)
      simp only [if_pos, set, hx, if_false, List.filter_cons, ne_eq, not_true_eq_false, decide_false, Bool.false_eq_true]
      have hf' : m.filter (fun p => !decide (p.1 = a)) = m := by simpa using hf
      cases m with
      | nil => simp [ins]
      | cons q m =>
        have := wfFrom_bound d _ _ hr q (by simp)
        have e : List.filter (fun p => decide ¬p.1 = a) (q :: m) = q :: m := by simpa using hf
        rw [e, ins, if_pos (by omega)]
    · rw [if_neg hak]
      unfold set at hset ⊢
      have hf : ((a, x) :: m).filter (fun p => p.1 ≠ k) = (a, x) :: m.filter (fun p => p.1 ≠ k) := by simp [hak]
      rw [hf]
      by_cases hv : get d m k = d
      · simp only [hv, if_true] at hset ⊢
        rw [hset]
      · simp only [hv, if_false] at hset ⊢
        have : ¬ k < a := fun hka => hv (get_not_mem d m k (not_mem_of_wfFrom d m (a + 1) k hr (by omega)))
        rw [ins, if_neg this, hset]

end Sys2Proof.Sparse
end

