-- ==== Sys2Proof/Laws/Commands.lean ====
section
/-!
SUPPORT. Command rings (R390): what a firmware command does whose turn it is, and one that is behind another; what a ring holds after.
-/
namespace Sys2Proof.Machine

/-- A command whose turn it is and that is carried out, or refused, leaves its ring. -/
theorem runCommand_done {i : Instr} {s t : State} {f : Input → Ran} (h : s.ringTurn ⟨i, s.input⟩ = true) (hf : f s.input = .done t) :
    runCommand i s f = .next (t.ringDone ⟨i, s.input⟩) := by
  unfold runCommand runEvent
  simp [h, hf]

/-- A command whose turn it is and that waits takes its place in its ring. -/
theorem runCommand_wait {i : Instr} {s t : State} {f : Input → Ran} (h : s.ringTurn ⟨i, s.input⟩ = true) (hf : f s.input = .wait t) :
    runCommand i s f = .next (t.ringWait ⟨i, s.input⟩) := by
  unfold runCommand runEvent
  simp [h, hf]

/-- A command behind another in its ring is not run: it takes its place. -/
theorem runCommand_behind {i : Instr} {s : State} {f : Input → Ran} (h : s.ringTurn ⟨i, s.input⟩ = false) :
    runCommand i s f = .next (s.ringWait ⟨i, s.input⟩) := by
  unfold runCommand runEvent
  simp [h]

/-- A command that never waits, at its turn. -/
theorem runAtOnce_done {i : Instr} {s : State} {f : Input → State} (h : s.ringTurn ⟨i, s.input⟩ = true) :
    runAtOnce i s f = .next ((f s.input).ringDone ⟨i, s.input⟩) := runCommand_done h rfl

theorem State.ringTurn_iff (s : State) (c : Command) : s.ringTurn c = true ↔ s.ring c.input.ring = [] ∨ (s.ring c.input.ring).head? = some c := by
  unfold State.ringTurn
  split <;> rename_i h <;> simp [h]

/-- A command of an empty ring leaves it as it is. -/
theorem State.ringDone_empty {s : State} {c : Command} (h : s.ring c.input.ring = []) : s.ringDone c = s := by simp [State.ringDone, h]

/-- The ring is the hub's: nothing else changes. -/
@[simp] theorem State.setRing_mem (s : State) (r : Nat) (q : List Command) : (s.setRing r q).mem = s.mem := rfl
@[simp] theorem State.setRing_blocks (s : State) (r : Nat) (q : List Command) : (s.setRing r q).blocks = s.blocks := rfl
@[simp] theorem State.setRing_dies (s : State) (r : Nat) (q : List Command) : (s.setRing r q).dies = s.dies := rfl
@[simp] theorem State.setRing_responses (s : State) (r : Nat) (q : List Command) : (s.setRing r q).hub.responses = s.hub.responses := rfl
@[simp] theorem State.ringDone_mem (s : State) (c : Command) : (s.ringDone c).mem = s.mem := by unfold State.ringDone; split <;> rfl
@[simp] theorem State.ringWait_mem (s : State) (c : Command) : (s.ringWait c).mem = s.mem := by unfold State.ringWait; dsimp only; split <;> rfl
@[simp] theorem State.respondTo_mem (s : State) (x : Input) (c : String) (r : Nat) (d : List Byte) : (s.respondTo x c r d).mem = s.mem := rfl
@[simp] theorem State.respond_mem (s : State) (c : String) (r : Nat) (d : List Byte) : (s.respond c r d).mem = s.mem := rfl
@[simp] theorem State.refuse_mem (s : State) (c : String) : (s.refuse c).mem = s.mem := rfl

end Sys2Proof.Machine
end

