-- ==== Sys2Proof/Laws/Dispatch.lean ====
section
/-!
SUPPORT. Each arm of `exec`: the meaning it calls.
-/
namespace Sys2Proof.Machine

@[simp] theorem exec_nop (e : Engine) (g : Guard) (s : State) : exec (.nop e g) s = execNop e g s := rfl
@[simp] theorem exec_rdv (e : Engine) (g : Guard) (s : State) : exec (.rdv e g) s = execRdv e g s := rfl
@[simp] theorem exec_add (f : SR) (s : State) : exec (.add f) s = execAdd f s := rfl
@[simp] theorem exec_sub (f : SR) (s : State) : exec (.sub f) s = execSub f s := rfl
@[simp] theorem exec_mul (f : SR) (s : State) : exec (.mul f) s = execMul f s := rfl
@[simp] theorem exec_mulh (f : SR) (s : State) : exec (.mulh f) s = execMulh f s := rfl
@[simp] theorem exec_madd (f : SR) (s : State) : exec (.madd f) s = execMadd f s := rfl
@[simp] theorem exec_div (f : SR) (s : State) : exec (.div f) s = execDiv f s := rfl
@[simp] theorem exec_rem (f : SR) (s : State) : exec (.rem f) s = execRem f s := rfl
@[simp] theorem exec_neg (f : SR) (s : State) : exec (.neg f) s = execNeg f s := rfl
@[simp] theorem exec_abs (f : SR) (s : State) : exec (.abs f) s = execAbs f s := rfl
@[simp] theorem exec_min (f : SR) (s : State) : exec (.min f) s = execMin f s := rfl
@[simp] theorem exec_max (f : SR) (s : State) : exec (.max f) s = execMax f s := rfl
@[simp] theorem exec_and (f : SR) (s : State) : exec (.and f) s = execAnd f s := rfl
@[simp] theorem exec_or (f : SR) (s : State) : exec (.or f) s = execOr f s := rfl
@[simp] theorem exec_xor (f : SR) (s : State) : exec (.xor f) s = execXor f s := rfl
@[simp] theorem exec_not (f : SR) (s : State) : exec (.not f) s = execNot f s := rfl
@[simp] theorem exec_shl (f : SR) (s : State) : exec (.shl f) s = execShl f s := rfl
@[simp] theorem exec_shr (f : SR) (s : State) : exec (.shr f) s = execShr f s := rfl
@[simp] theorem exec_rol (f : SR) (s : State) : exec (.rol f) s = execRol f s := rfl
@[simp] theorem exec_ror (f : SR) (s : State) : exec (.ror f) s = execRor f s := rfl
@[simp] theorem exec_clz (f : SR) (s : State) : exec (.clz f) s = execClz f s := rfl
@[simp] theorem exec_ctz (f : SR) (s : State) : exec (.ctz f) s = execCtz f s := rfl
@[simp] theorem exec_popc (f : SR) (s : State) : exec (.popc f) s = execPopc f s := rfl
@[simp] theorem exec_bext (f : SR) (s : State) : exec (.bext f) s = execBext f s := rfl
@[simp] theorem exec_bins (f : SR) (s : State) : exec (.bins f) s = execBins f s := rfl
@[simp] theorem exec_sel (f : SR) (s : State) : exec (.sel f) s = execSel f s := rfl
@[simp] theorem exec_cmpeq (f : SR) (s : State) : exec (.cmpeq f) s = execCmpeq f s := rfl
@[simp] theorem exec_cmpne (f : SR) (s : State) : exec (.cmpne f) s = execCmpne f s := rfl
@[simp] theorem exec_cmplt (f : SR) (s : State) : exec (.cmplt f) s = execCmplt f s := rfl
@[simp] theorem exec_cmple (f : SR) (s : State) : exec (.cmple f) s = execCmple f s := rfl
@[simp] theorem exec_pand (f : SR) (s : State) : exec (.pand f) s = execPand f s := rfl
@[simp] theorem exec_por (f : SR) (s : State) : exec (.por f) s = execPor f s := rfl
@[simp] theorem exec_pxor (f : SR) (s : State) : exec (.pxor f) s = execPxor f s := rfl
@[simp] theorem exec_pnot (f : SR) (s : State) : exec (.pnot f) s = execPnot f s := rfl
@[simp] theorem exec_mkva (f : SR) (s : State) : exec (.mkva f) s = execMkva f s := rfl
@[simp] theorem exec_li (f : SI) (s : State) : exec (.li f) s = execLi f s := rfl
@[simp] theorem exec_lih (f : SI) (s : State) : exec (.lih f) s = execLih f s := rfl
@[simp] theorem exec_addi (f : SI) (s : State) : exec (.addi f) s = execAddi f s := rfl
@[simp] theorem exec_andi (f : SI) (s : State) : exec (.andi f) s = execAndi f s := rfl
@[simp] theorem exec_ori (f : SI) (s : State) : exec (.ori f) s = execOri f s := rfl
@[simp] theorem exec_xori (f : SI) (s : State) : exec (.xori f) s = execXori f s := rfl
@[simp] theorem exec_shli (f : SI) (s : State) : exec (.shli f) s = execShli f s := rfl
@[simp] theorem exec_shri (f : SI) (s : State) : exec (.shri f) s = execShri f s := rfl
@[simp] theorem exec_cmpeqi (f : SI) (s : State) : exec (.cmpeqi f) s = execCmpeqi f s := rfl
@[simp] theorem exec_cmplti (f : SI) (s : State) : exec (.cmplti f) s = execCmplti f s := rfl
@[simp] theorem exec_br (f : SI) (s : State) : exec (.br f) s = execBr f s := rfl
@[simp] theorem exec_brx (f : SI) (s : State) : exec (.brx f) s = execBrx f s := rfl
@[simp] theorem exec_call (f : SI) (s : State) : exec (.call f) s = execCall f s := rfl
@[simp] theorem exec_ret (f : SI) (s : State) : exec (.ret f) s = execRet f s := rfl
@[simp] theorem exec_lpentReg (f : SI) (s : State) : exec (.lpentReg f) s = execLpentReg f s := rfl
@[simp] theorem exec_lpentImm (f : SI) (s : State) : exec (.lpentImm f) s = execLpentImm f s := rfl
@[simp] theorem exec_lpentTable (f : SI) (s : State) : exec (.lpentTable f) s = execLpentTable f s := rfl
@[simp] theorem exec_lpbrk (f : SI) (s : State) : exec (.lpbrk f) s = execLpbrk f s := rfl
@[simp] theorem exec_lget (f : SI) (s : State) : exec (.lget f) s = execLget f s := rfl
@[simp] theorem exec_lset (f : SI) (s : State) : exec (.lset f) s = execLset f s := rfl
@[simp] theorem exec_spawn (f : SX) (s : State) : exec (.spawn f) s = execSpawn f s := rfl
@[simp] theorem exec_ld (f : SM) (s : State) : exec (.ld f) s = execLd f s := rfl
@[simp] theorem exec_st (f : SM) (s : State) : exec (.st f) s = execSt f s := rfl
@[simp] theorem exec_prf (f : SM) (s : State) : exec (.prf f) s = execPrf f s := rfl
@[simp] theorem exec_clean (f : SM) (s : State) : exec (.clean f) s = execClean f s := rfl
@[simp] theorem exec_atadd (f : SM) (s : State) : exec (.atadd f) s = execAtadd f s := rfl
@[simp] theorem exec_atand (f : SM) (s : State) : exec (.atand f) s = execAtand f s := rfl
@[simp] theorem exec_ator (f : SM) (s : State) : exec (.ator f) s = execAtor f s := rfl
@[simp] theorem exec_atxor (f : SM) (s : State) : exec (.atxor f) s = execAtxor f s := rfl
@[simp] theorem exec_atmin (f : SM) (s : State) : exec (.atmin f) s = execAtmin f s := rfl
@[simp] theorem exec_atmax (f : SM) (s : State) : exec (.atmax f) s = execAtmax f s := rfl
@[simp] theorem exec_atswp (f : SM) (s : State) : exec (.atswp f) s = execAtswp f s := rfl
@[simp] theorem exec_atcas (f : SM) (s : State) : exec (.atcas f) s = execAtcas f s := rfl
@[simp] theorem exec_atfadd (f : SM) (s : State) : exec (.atfadd f) s = execAtfadd f s := rfl
@[simp] theorem exec_atfmax (f : SM) (s : State) : exec (.atfmax f) s = execAtfmax f s := rfl
@[simp] theorem exec_atfmin (f : SM) (s : State) : exec (.atfmin f) s = execAtfmin f s := rfl
@[simp] theorem exec_lathe (f : SM) (s : State) : exec (.lathe f) s = execLathe f s := rfl
@[simp] theorem exec_fence (f : SX) (s : State) : exec (.fence f) s = execFence f s := rfl
@[simp] theorem exec_phreg (f : SX) (s : State) : exec (.phreg f) s = execPhreg f s := rfl
@[simp] theorem exec_phdrop (f : SX) (s : State) : exec (.phdrop f) s = execPhdrop f s := rfl
@[simp] theorem exec_phsig (f : SX) (s : State) : exec (.phsig f) s = execPhsig f s := rfl
@[simp] theorem exec_phwait (f : SX) (s : State) : exec (.phwait f) s = execPhwait f s := rfl
@[simp] theorem exec_phsw (f : SX) (s : State) : exec (.phsw f) s = execPhsw f s := rfl
@[simp] theorem exec_semwReg (f : SX) (s : State) : exec (.semwReg f) s = execSemwReg f s := rfl
@[simp] theorem exec_semwImm (f : SX) (s : State) : exec (.semwImm f) s = execSemwImm f s := rfl
@[simp] theorem exec_semsReg (f : SX) (s : State) : exec (.semsReg f) s = execSemsReg f s := rfl
@[simp] theorem exec_semsImm (f : SX) (s : State) : exec (.semsImm f) s = execSemsImm f s := rfl
@[simp] theorem exec_calchk (f : SX) (s : State) : exec (.calchk f) s = execCalchk f s := rfl
@[simp] theorem exec_rdcnt (f : SX) (s : State) : exec (.rdcnt f) s = execRdcnt f s := rfl
@[simp] theorem exec_rdcyc (f : SX) (s : State) : exec (.rdcyc f) s = execRdcyc f s := rfl
@[simp] theorem exec_qget (f : SX) (s : State) : exec (.qget f) s = execQget f s := rfl
@[simp] theorem exec_qpeek (f : SX) (s : State) : exec (.qpeek f) s = execQpeek f s := rfl
@[simp] theorem exec_qlen (f : SX) (s : State) : exec (.qlen f) s = execQlen f s := rfl
@[simp] theorem exec_qwait (f : SX) (s : State) : exec (.qwait f) s = execQwait f s := rfl
@[simp] theorem exec_qwaitTimeout (f : SX) (s : State) : exec (.qwaitTimeout f) s = execQwaitTimeout f s := rfl
@[simp] theorem exec_spin (f : SX) (s : State) : exec (.spin f) s = execSpin f s := rfl
@[simp] theorem exec_spflush (f : SX) (s : State) : exec (.spflush f) s = execSpflush f s := rfl
@[simp] theorem exec_spend (f : SX) (s : State) : exec (.spend f) s = execSpend f s := rfl
@[simp] theorem exec_mfsr (f : SX) (s : State) : exec (.mfsr f) s = execMfsr f s := rfl
@[simp] theorem exec_mtsr (f : SX) (s : State) : exec (.mtsr f) s = execMtsr f s := rfl
@[simp] theorem exec_trap (f : SX) (s : State) : exec (.trap f) s = execTrap f s := rfl
@[simp] theorem exec_eret (f : SX) (s : State) : exec (.eret f) s = execEret f s := rfl
@[simp] theorem exec_cxsw (f : SX) (s : State) : exec (.cxsw f) s = execCxsw f s := rfl
@[simp] theorem exec_yield (f : SX) (s : State) : exec (.yield f) s = execYield f s := rfl
@[simp] theorem exec_snap (f : SX) (s : State) : exec (.snap f) s = execSnap f s := rfl
@[simp] theorem exec_hcall (f : SX) (s : State) : exec (.hcall f) s = execHcall f s := rfl
@[simp] theorem exec_trapctlWrite (f : SX) (s : State) : exec (.trapctlWrite f) s = execTrapctlWrite f s := rfl
@[simp] theorem exec_engineSharedRegisterWrite (f : SX) (s : State) : exec (.engineSharedRegisterWrite f) s = execEngineSharedRegisterWrite f s := rfl
@[simp] theorem exec_calcfgWrite (f : SX) (s : State) : exec (.calcfgWrite f) s = execCalcfgWrite f s := rfl
@[simp] theorem exec_calcmdClr (f : SX) (s : State) : exec (.calcmdClr f) s = execCalcmdClr f s := rfl
@[simp] theorem exec_perfselWrite (f : SX) (s : State) : exec (.perfselWrite f) s = execPerfselWrite f s := rfl
@[simp] theorem exec_vadd (f : VR) (s : State) : exec (.vadd f) s = execVadd f s := rfl
@[simp] theorem exec_vsub (f : VR) (s : State) : exec (.vsub f) s = execVsub f s := rfl
@[simp] theorem exec_vmul (f : VR) (s : State) : exec (.vmul f) s = execVmul f s := rfl
@[simp] theorem exec_vfma (f : VR) (s : State) : exec (.vfma f) s = execVfma f s := rfl
@[simp] theorem exec_vfms (f : VR) (s : State) : exec (.vfms f) s = execVfms f s := rfl
@[simp] theorem exec_vfnma (f : VR) (s : State) : exec (.vfnma f) s = execVfnma f s := rfl
@[simp] theorem exec_vdiv (f : VR) (s : State) : exec (.vdiv f) s = execVdiv f s := rfl
@[simp] theorem exec_vsqrt (f : VR) (s : State) : exec (.vsqrt f) s = execVsqrt f s := rfl
@[simp] theorem exec_vrsqrt (f : VR) (s : State) : exec (.vrsqrt f) s = execVrsqrt f s := rfl
@[simp] theorem exec_vrcp (f : VR) (s : State) : exec (.vrcp f) s = execVrcp f s := rfl
@[simp] theorem exec_vexp2 (f : VR) (s : State) : exec (.vexp2 f) s = execVexp2 f s := rfl
@[simp] theorem exec_vlog2 (f : VR) (s : State) : exec (.vlog2 f) s = execVlog2 f s := rfl
@[simp] theorem exec_vmin (f : VR) (s : State) : exec (.vmin f) s = execVmin f s := rfl
@[simp] theorem exec_vmax (f : VR) (s : State) : exec (.vmax f) s = execVmax f s := rfl
@[simp] theorem exec_vabs (f : VR) (s : State) : exec (.vabs f) s = execVabs f s := rfl
@[simp] theorem exec_vneg (f : VR) (s : State) : exec (.vneg f) s = execVneg f s := rfl
@[simp] theorem exec_vand (f : VR) (s : State) : exec (.vand f) s = execVand f s := rfl
@[simp] theorem exec_vor (f : VR) (s : State) : exec (.vor f) s = execVor f s := rfl
@[simp] theorem exec_vxor (f : VR) (s : State) : exec (.vxor f) s = execVxor f s := rfl
@[simp] theorem exec_vnot (f : VR) (s : State) : exec (.vnot f) s = execVnot f s := rfl
@[simp] theorem exec_vshl (f : VR) (s : State) : exec (.vshl f) s = execVshl f s := rfl
@[simp] theorem exec_vshr (f : VR) (s : State) : exec (.vshr f) s = execVshr f s := rfl
@[simp] theorem exec_vmulh (f : VR) (s : State) : exec (.vmulh f) s = execVmulh f s := rfl
@[simp] theorem exec_vclz (f : VR) (s : State) : exec (.vclz f) s = execVclz f s := rfl
@[simp] theorem exec_vpopc (f : VR) (s : State) : exec (.vpopc f) s = execVpopc f s := rfl
@[simp] theorem exec_vtanh (f : VR) (s : State) : exec (.vtanh f) s = execVtanh f s := rfl
@[simp] theorem exec_verf (f : VR) (s : State) : exec (.verf f) s = execVerf f s := rfl
@[simp] theorem exec_vmov (f : VR) (s : State) : exec (.vmov f) s = execVmov f s := rfl
@[simp] theorem exec_viota (f : VR) (s : State) : exec (.viota f) s = execViota f s := rfl
@[simp] theorem exec_vcmpeq (f : VR) (s : State) : exec (.vcmpeq f) s = execVcmpeq f s := rfl
@[simp] theorem exec_vcmpne (f : VR) (s : State) : exec (.vcmpne f) s = execVcmpne f s := rfl
@[simp] theorem exec_vcmplt (f : VR) (s : State) : exec (.vcmplt f) s = execVcmplt f s := rfl
@[simp] theorem exec_vcmple (f : VR) (s : State) : exec (.vcmple f) s = execVcmple f s := rfl
@[simp] theorem exec_vcmpun (f : VR) (s : State) : exec (.vcmpun f) s = execVcmpun f s := rfl
@[simp] theorem exec_vclass (f : VR) (s : State) : exec (.vclass f) s = execVclass f s := rfl
@[simp] theorem exec_vsel (f : VR) (s : State) : exec (.vsel f) s = execVsel f s := rfl
@[simp] theorem exec_vcvt (f : VR) (s : State) : exec (.vcvt f) s = execVcvt f s := rfl
@[simp] theorem exec_vmxq (f : VR) (s : State) : exec (.vmxq f) s = execVmxq f s := rfl
@[simp] theorem exec_vmxd (f : VR) (s : State) : exec (.vmxd f) s = execVmxd f s := rfl
@[simp] theorem exec_kand (f : VR) (s : State) : exec (.kand f) s = execKand f s := rfl
@[simp] theorem exec_kor (f : VR) (s : State) : exec (.kor f) s = execKor f s := rfl
@[simp] theorem exec_kxor (f : VR) (s : State) : exec (.kxor f) s = execKxor f s := rfl
@[simp] theorem exec_knot (f : VR) (s : State) : exec (.knot f) s = execKnot f s := rfl
@[simp] theorem exec_kmov (f : VR) (s : State) : exec (.kmov f) s = execKmov f s := rfl
@[simp] theorem exec_kmovFromScalar (f : VR) (s : State) : exec (.kmovFromScalar f) s = execKmovFromScalar f s := rfl
@[simp] theorem exec_kmovToScalar (f : VR) (s : State) : exec (.kmovToScalar f) s = execKmovToScalar f s := rfl
@[simp] theorem exec_kpop (f : VR) (s : State) : exec (.kpop f) s = execKpop f s := rfl
@[simp] theorem exec_vredsum (f : VR) (s : State) : exec (.vredsum f) s = execVredsum f s := rfl
@[simp] theorem exec_vredmax (f : VR) (s : State) : exec (.vredmax f) s = execVredmax f s := rfl
@[simp] theorem exec_vredmin (f : VR) (s : State) : exec (.vredmin f) s = execVredmin f s := rfl
@[simp] theorem exec_vscan (f : VR) (s : State) : exec (.vscan f) s = execVscan f s := rfl
@[simp] theorem exec_vscanmax (f : VR) (s : State) : exec (.vscanmax f) s = execVscanmax f s := rfl
@[simp] theorem exec_vtopk (f : VR) (s : State) : exec (.vtopk f) s = execVtopk f s := rfl
@[simp] theorem exec_vargmax (f : VR) (s : State) : exec (.vargmax f) s = execVargmax f s := rfl
@[simp] theorem exec_vrng (f : VR) (s : State) : exec (.vrng f) s = execVrng f s := rfl
@[simp] theorem exec_vperm (f : VR) (s : State) : exec (.vperm f) s = execVperm f s := rfl
@[simp] theorem exec_vrot (f : VR) (s : State) : exec (.vrot f) s = execVrot f s := rfl
@[simp] theorem exec_vzip (f : VR) (s : State) : exec (.vzip f) s = execVzip f s := rfl
@[simp] theorem exec_vunzip (f : VR) (s : State) : exec (.vunzip f) s = execVunzip f s := rfl
@[simp] theorem exec_vtrn (f : VR) (s : State) : exec (.vtrn f) s = execVtrn f s := rfl
@[simp] theorem exec_vcompress (f : VR) (s : State) : exec (.vcompress f) s = execVcompress f s := rfl
@[simp] theorem exec_vexpand (f : VR) (s : State) : exec (.vexpand f) s = execVexpand f s := rfl
@[simp] theorem exec_vrev (f : VR) (s : State) : exec (.vrev f) s = execVrev f s := rfl
@[simp] theorem exec_vld (f : VS) (s : State) : exec (.vld f) s = execVld f s := rfl
@[simp] theorem exec_vst (f : VS) (s : State) : exec (.vst f) s = execVst f s := rfl
@[simp] theorem exec_vldx (f : VS) (s : State) : exec (.vldx f) s = execVldx f s := rfl
@[simp] theorem exec_vstx (f : VS) (s : State) : exec (.vstx f) s = execVstx f s := rfl
@[simp] theorem exec_tld (f : VS) (s : State) : exec (.tld f) s = execTld f s := rfl
@[simp] theorem exec_tst (f : VS) (s : State) : exec (.tst f) s = execTst f s := rfl
@[simp] theorem exec_vgld (f : VS) (s : State) : exec (.vgld f) s = execVgld f s := rfl
@[simp] theorem exec_vgst (f : VS) (s : State) : exec (.vgst f) s = execVgst f s := rfl
@[simp] theorem exec_tzero (f : VS) (s : State) : exec (.tzero f) s = execTzero f s := rfl
@[simp] theorem exec_rep (f : VP) (s : State) : exec (.rep f) s = execRep f s := rfl
@[simp] theorem exec_mma (f : MM) (s : State) : exec (.mma f) s = execMma f s := rfl
@[simp] theorem exec_mmt (f : MM) (s : State) : exec (.mmt f) s = execMmt f s := rfl
@[simp] theorem exec_mzero (f : MA) (s : State) : exec (.mzero f) s = execMzero f s := rfl
@[simp] theorem exec_mscale (f : MA) (s : State) : exec (.mscale f) s = execMscale f s := rfl
@[simp] theorem exec_mbias (f : MA) (s : State) : exec (.mbias f) s = execMbias f s := rfl
@[simp] theorem exec_mstTile (f : MA) (s : State) : exec (.mstTile f) s = execMstTile f s := rfl
@[simp] theorem exec_mstScratchpad (f : MA) (s : State) : exec (.mstScratchpad f) s = execMstScratchpad f s := rfl
@[simp] theorem exec_mldTile (f : MA) (s : State) : exec (.mldTile f) s = execMldTile f s := rfl
@[simp] theorem exec_mldScratchpad (f : MA) (s : State) : exec (.mldScratchpad f) s = execMldScratchpad f s := rfl
@[simp] theorem exec_mcopy (f : MA) (s : State) : exec (.mcopy f) s = execMcopy f s := rfl
@[simp] theorem exec_mskip (f : MA) (s : State) : exec (.mskip f) s = execMskip f s := rfl
@[simp] theorem exec_msave (f : MA) (s : State) : exec (.msave f) s = execMsave f s := rfl
@[simp] theorem exec_mrestore (f : MA) (s : State) : exec (.mrestore f) s = execMrestore f s := rfl
@[simp] theorem exec_cp (f : CC) (s : State) : exec (.cp f) s = execCp f s := rfl
@[simp] theorem exec_cpr (f : CC) (s : State) : exec (.cpr f) s = execCpr f s := rfl
@[simp] theorem exec_cpt (f : CC) (s : State) : exec (.cpt f) s = execCpt f s := rfl
@[simp] theorem exec_cptw (f : CC) (s : State) : exec (.cptw f) s = execCptw f s := rfl
@[simp] theorem exec_cpfill (f : CC) (s : State) : exec (.cpfill f) s = execCpfill f s := rfl
@[simp] theorem exec_csem (f : CC) (s : State) : exec (.csem f) s = execCsem f s := rfl
@[simp] theorem exec_csemw (f : CC) (s : State) : exec (.csemw f) s = execCsemw f s := rfl
@[simp] theorem exec_ringbind (f : CC) (s : State) : exec (.ringbind f) s = execRingbind f s := rfl
@[simp] theorem exec_bobbind (f : CC) (s : State) : exec (.bobbind f) s = execBobbind f s := rfl
@[simp] theorem exec_unbind (f : CC) (s : State) : exec (.unbind f) s = execUnbind f s := rfl
@[simp] theorem exec_ringfill (f : CC) (s : State) : exec (.ringfill f) s = execRingfill f s := rfl
@[simp] theorem exec_fget (f : CC) (s : State) : exec (.fget f) s = execFget f s := rfl
@[simp] theorem exec_fput (f : CC) (s : State) : exec (.fput f) s = execFput f s := rfl
@[simp] theorem exec_cgsum (f : CC) (s : State) : exec (.cgsum f) s = execCgsum f s := rfl
@[simp] theorem exec_fsum (f : CC) (s : State) : exec (.fsum f) s = execFsum f s := rfl
@[simp] theorem exec_cprime (f : CC) (s : State) : exec (.cprime f) s = execCprime f s := rfl
@[simp] theorem exec_gjDispatch (d : BitVec 5) (a : BitVec 5) (b : BitVec 5) (s : State) : exec (.gjDispatch d a b) s = execGjDispatch d a b s := rfl
@[simp] theorem exec_gjJoin (d : BitVec 5) (a : BitVec 5) (b : BitVec 5) (s : State) : exec (.gjJoin d a b) s = execGjJoin d a b s := rfl
@[simp] theorem exec_sliceDone (a : BitVec 3) (s : State) : exec (.sliceDone a) s = execSliceDone a s := rfl
@[simp] theorem exec_sliceFail (c : BitVec 16) (s : State) : exec (.sliceFail c) s = execSliceFail c s := rfl
@[simp] theorem exec_sliceSkip (a : BitVec 3) (b : BitVec 3) (c : BitVec 2) (u : BitVec 1) (n : BitVec 5) (s : State) : exec (.sliceSkip a b c u n) s = execSliceSkip a b c u n s := rfl
@[simp] theorem exec_sliceLi (d : BitVec 3) (y : BitVec 24) (s : State) : exec (.sliceLi d y) s = execSliceLi d y s := rfl
@[simp] theorem exec_sliceAddi (d : BitVec 3) (a : BitVec 3) (x : BitVec 18) (s : State) : exec (.sliceAddi d a x) s = execSliceAddi d a x s := rfl
@[simp] theorem exec_sliceAdd (d : BitVec 3) (a : BitVec 3) (b : BitVec 3) (s : State) : exec (.sliceAdd d a b) s = execSliceAdd d a b s := rfl
@[simp] theorem exec_sliceSub (d : BitVec 3) (a : BitVec 3) (b : BitVec 3) (s : State) : exec (.sliceSub d a b) s = execSliceSub d a b s := rfl
@[simp] theorem exec_sliceAnd (d : BitVec 3) (a : BitVec 3) (b : BitVec 3) (s : State) : exec (.sliceAnd d a b) s = execSliceAnd d a b s := rfl
@[simp] theorem exec_sliceOr (d : BitVec 3) (a : BitVec 3) (b : BitVec 3) (s : State) : exec (.sliceOr d a b) s = execSliceOr d a b s := rfl
@[simp] theorem exec_sliceXor (d : BitVec 3) (a : BitVec 3) (b : BitVec 3) (s : State) : exec (.sliceXor d a b) s = execSliceXor d a b s := rfl
@[simp] theorem exec_sliceShl (d : BitVec 3) (a : BitVec 3) (b : BitVec 3) (s : State) : exec (.sliceShl d a b) s = execSliceShl d a b s := rfl
@[simp] theorem exec_sliceShr (d : BitVec 3) (a : BitVec 3) (b : BitVec 3) (s : State) : exec (.sliceShr d a b) s = execSliceShr d a b s := rfl
@[simp] theorem exec_sliceSra (d : BitVec 3) (a : BitVec 3) (b : BitVec 3) (s : State) : exec (.sliceSra d a b) s = execSliceSra d a b s := rfl
@[simp] theorem exec_sliceMul (d : BitVec 3) (a : BitVec 3) (b : BitVec 3) (s : State) : exec (.sliceMul d a b) s = execSliceMul d a b s := rfl
@[simp] theorem exec_sliceMin (d : BitVec 3) (a : BitVec 3) (b : BitVec 3) (t : BitVec 1) (s : State) : exec (.sliceMin d a b t) s = execSliceMin d a b t s := rfl
@[simp] theorem exec_sliceMax (d : BitVec 3) (a : BitVec 3) (b : BitVec 3) (t : BitVec 1) (s : State) : exec (.sliceMax d a b t) s = execSliceMax d a b t s := rfl
@[simp] theorem exec_sliceLld (d : BitVec 3) (z : BitVec 2) (e : BitVec 1) (o : BitVec 6) (s : State) : exec (.sliceLld d z e o) s = execSliceLld d z e o s := rfl
@[simp] theorem exec_sliceLldx (d : BitVec 3) (a : BitVec 3) (z : BitVec 2) (e : BitVec 1) (o : BitVec 6) (s : State) : exec (.sliceLldx d a z e o) s = execSliceLldx d a z e o s := rfl
@[simp] theorem exec_sliceLst (a : BitVec 3) (z : BitVec 2) (o : BitVec 6) (s : State) : exec (.sliceLst a z o) s = execSliceLst a z o s := rfl
@[simp] theorem exec_sliceLstx (a : BitVec 3) (b : BitVec 3) (z : BitVec 2) (o : BitVec 6) (s : State) : exec (.sliceLstx a b z o) s = execSliceLstx a b z o s := rfl
@[simp] theorem exec_sliceFadd (d : BitVec 3) (a : BitVec 3) (b : BitVec 3) (t : BitVec 1) (s : State) : exec (.sliceFadd d a b t) s = execSliceFadd d a b t s := rfl
@[simp] theorem exec_sliceFmax (d : BitVec 3) (a : BitVec 3) (b : BitVec 3) (s : State) : exec (.sliceFmax d a b) s = execSliceFmax d a b s := rfl
@[simp] theorem exec_sliceFmin (d : BitVec 3) (a : BitVec 3) (b : BitVec 3) (s : State) : exec (.sliceFmin d a b) s = execSliceFmin d a b s := rfl
@[simp] theorem exec_unassignedOpcode (e : Engine) (w : IWord) (s : State) : exec (.unassignedOpcode e w) s = execUnassignedOpcode e w s := rfl
@[simp] theorem exec_rdvRelease (s : State) : exec (.rdvRelease) s = execRdvRelease s := rfl
@[simp] theorem exec_hcallReply (s : State) : exec (.hcallReply) s = execHcallReply s := rfl
@[simp] theorem exec_repetition (s : State) : exec (.repetition) s = execRepetition s := rfl
@[simp] theorem exec_matrixCommandStart (s : State) : exec (.matrixCommandStart) s = execMatrixCommandStart s := rfl
@[simp] theorem exec_matrixCommandRetire (s : State) : exec (.matrixCommandRetire) s = execMatrixCommandRetire s := rfl
@[simp] theorem exec_copyCommandStart (s : State) : exec (.copyCommandStart) s = execCopyCommandStart s := rfl
@[simp] theorem exec_copyGranule (s : State) : exec (.copyGranule) s = execCopyGranule s := rfl
@[simp] theorem exec_copyCommandRetire (s : State) : exec (.copyCommandRetire) s = execCopyCommandRetire s := rfl
@[simp] theorem exec_patternPortPush (s : State) : exec (.patternPortPush) s = execPatternPortPush s := rfl
@[simp] theorem exec_patternPortDrainPop (s : State) : exec (.patternPortDrainPop) s = execPatternPortDrainPop s := rfl
@[simp] theorem exec_sectionIssue (s : State) : exec (.sectionIssue) s = execSectionIssue s := rfl
@[simp] theorem exec_gangPassStart (s : State) : exec (.gangPassStart) s = execGangPassStart s := rfl
@[simp] theorem exec_gangFreezeLift (s : State) : exec (.gangFreezeLift) s = execGangFreezeLift s := rfl
@[simp] theorem exec_trapAreaWrite (s : State) : exec (.trapAreaWrite) s = execTrapAreaWrite s := rfl
@[simp] theorem exec_sliceAdmission (s : State) : exec (.sliceAdmission) s = execSliceAdmission s := rfl
@[simp] theorem exec_sliceLineFill (s : State) : exec (.sliceLineFill) s = execSliceLineFill s := rfl
@[simp] theorem exec_builtinAtomicRun (s : State) : exec (.builtinAtomicRun) s = execBuiltinAtomicRun s := rfl
@[simp] theorem exec_routineRun (s : State) : exec (.routineRun) s = execRoutineRun s := rfl
@[simp] theorem exec_translationFill (s : State) : exec (.translationFill) s = execTranslationFill s := rfl
@[simp] theorem exec_invalidationAck (s : State) : exec (.invalidationAck) s = execInvalidationAck s := rfl
@[simp] theorem exec_scrubZeroFillEnd (s : State) : exec (.scrubZeroFillEnd) s = execScrubZeroFillEnd s := rfl
@[simp] theorem exec_migrationPartMoved (s : State) : exec (.migrationPartMoved) s = execMigrationPartMoved s := rfl
@[simp] theorem exec_segmentVerified (s : State) : exec (.segmentVerified) s = execSegmentVerified s := rfl
@[simp] theorem exec_arrivalBoundExpiry (s : State) : exec (.arrivalBoundExpiry) s = execArrivalBoundExpiry s := rfl
@[simp] theorem exec_chunkTimeout (s : State) : exec (.chunkTimeout) s = execChunkTimeout s := rfl
@[simp] theorem exec_requestMessage (s : State) : exec (.requestMessage) s = execRequestMessage s := rfl
@[simp] theorem exec_hackleTokenisation (s : State) : exec (.hackleTokenisation) s = execHackleTokenisation s := rfl
@[simp] theorem exec_requestAppend (s : State) : exec (.requestAppend) s = execRequestAppend s := rfl
@[simp] theorem exec_vudricFlitReceive (s : State) : exec (.vudricFlitReceive) s = execVudricFlitReceive s := rfl
@[simp] theorem exec_dispatcherDecision (s : State) : exec (.dispatcherDecision) s = execDispatcherDecision s := rfl
@[simp] theorem exec_multiDieReservationGrant (s : State) : exec (.multiDieReservationGrant) s = execMultiDieReservationGrant s := rfl
@[simp] theorem exec_multiDieReservationTimeout (s : State) : exec (.multiDieReservationTimeout) s = execMultiDieReservationTimeout s := rfl
@[simp] theorem exec_periodRelease (s : State) : exec (.periodRelease) s = execPeriodRelease s := rfl
@[simp] theorem exec_budgetExhausted (s : State) : exec (.budgetExhausted) s = execBudgetExhausted s := rfl
@[simp] theorem exec_quantumEnd (s : State) : exec (.quantumEnd) s = execQuantumEnd s := rfl
@[simp] theorem exec_starvation (s : State) : exec (.starvation) s = execStarvation s := rfl
@[simp] theorem exec_deadlineOverrun (s : State) : exec (.deadlineOverrun) s = execDeadlineOverrun s := rfl
@[simp] theorem exec_preemptionRequest (s : State) : exec (.preemptionRequest) s = execPreemptionRequest s := rfl
@[simp] theorem exec_engineHold (s : State) : exec (.engineHold) s = execEngineHold s := rfl
@[simp] theorem exec_drainCut (s : State) : exec (.drainCut) s = execDrainCut s := rfl
@[simp] theorem exec_jobSaveComplete (s : State) : exec (.jobSaveComplete) s = execJobSaveComplete s := rfl
@[simp] theorem exec_scratchpadGranuleExchange (s : State) : exec (.scratchpadGranuleExchange) s = execScratchpadGranuleExchange s := rfl
@[simp] theorem exec_bankThrottle (s : State) : exec (.bankThrottle) s = execBankThrottle s := rfl
@[simp] theorem exec_thermalTrip (s : State) : exec (.thermalTrip) s = execThermalTrip s := rfl
@[simp] theorem exec_uncorrectableError (s : State) : exec (.uncorrectableError) s = execUncorrectableError s := rfl
@[simp] theorem exec_partitionBackInService (s : State) : exec (.partitionBackInService) s = execPartitionBackInService s := rfl
@[simp] theorem exec_moduleReset (s : State) : exec (.moduleReset) s = execModuleReset s := rfl
@[simp] theorem exec_bootStep (s : State) : exec (.bootStep) s = execBootStep s := rfl
@[simp] theorem exec_recoveryImage (s : State) : exec (.recoveryImage) s = execRecoveryImage s := rfl
@[simp] theorem exec_hotReset (s : State) : exec (.hotReset) s = execHotReset s := rfl
@[simp] theorem exec_virtioNetMessage (s : State) : exec (.virtioNetMessage) s = execVirtioNetMessage s := rfl
@[simp] theorem exec_snapshotTrigger (s : State) : exec (.snapshotTrigger) s = execSnapshotTrigger s := rfl
@[simp] theorem exec_gjJoinTimeout (s : State) : exec (.gjJoinTimeout) s = execGjJoinTimeout s := rfl
@[simp] theorem exec_controlBlockWrite (s : State) : exec (.controlBlockWrite) s = execControlBlockWrite s := rfl
@[simp] theorem exec_controlBlockRead (s : State) : exec (.controlBlockRead) s = execControlBlockRead s := rfl
@[simp] theorem exec_contractSubmission (s : State) : exec (.contractSubmission) s = execContractSubmission s := rfl
@[simp] theorem exec_contractWithdrawal (s : State) : exec (.contractWithdrawal) s = execContractWithdrawal s := rfl
@[simp] theorem exec_dispatcherParameterWrite (s : State) : exec (.dispatcherParameterWrite) s = execDispatcherParameterWrite s := rfl
@[simp] theorem exec_microContextRetire (s : State) : exec (.microContextRetire) s = execMicroContextRetire s := rfl
@[simp] theorem exec_faultClear (s : State) : exec (.faultClear) s = execFaultClear s := rfl
@[simp] theorem exec_controlBlockInstall (s : State) : exec (.controlBlockInstall) s = execControlBlockInstall s := rfl
@[simp] theorem exec_preemptCommand (s : State) : exec (.preemptCommand) s = execPreemptCommand s := rfl
@[simp] theorem exec_shset (s : State) : exec (.shset) s = execShset s := rfl
@[simp] theorem exec_shclr (s : State) : exec (.shclr) s = execShclr s := rfl
@[simp] theorem exec_shroot (s : State) : exec (.shroot) s = execShroot s := rfl
@[simp] theorem exec_tlbEntryRead (s : State) : exec (.tlbEntryRead) s = execTlbEntryRead s := rfl
@[simp] theorem exec_ownershipEntryRead (s : State) : exec (.ownershipEntryRead) s = execOwnershipEntryRead s := rfl
@[simp] theorem exec_frameAssign (s : State) : exec (.frameAssign) s = execFrameAssign s := rfl
@[simp] theorem exec_frameFree (s : State) : exec (.frameFree) s = execFrameFree s := rfl
@[simp] theorem exec_migration (s : State) : exec (.migration) s = execMigration s := rfl
@[simp] theorem exec_readDuplicate (s : State) : exec (.readDuplicate) s = execReadDuplicate s := rfl
@[simp] theorem exec_segmentShare (s : State) : exec (.segmentShare) s = execSegmentShare s := rfl
@[simp] theorem exec_sealPages (s : State) : exec (.sealPages) s = execSealPages s := rfl
@[simp] theorem exec_keyWrite (s : State) : exec (.keyWrite) s = execKeyWrite s := rfl
@[simp] theorem exec_routineInstallation (s : State) : exec (.routineInstallation) s = execRoutineInstallation s := rfl
@[simp] theorem exec_routineClearing (s : State) : exec (.routineClearing) s = execRoutineClearing s := rfl
@[simp] theorem exec_routineMapWrite (s : State) : exec (.routineMapWrite) s = execRoutineMapWrite s := rfl
@[simp] theorem exec_slotRecordRead (s : State) : exec (.slotRecordRead) s = execSlotRecordRead s := rfl
@[simp] theorem exec_vocabularyLoad (s : State) : exec (.vocabularyLoad) s = execVocabularyLoad s := rfl
@[simp] theorem exec_vocabularyUnload (s : State) : exec (.vocabularyUnload) s = execVocabularyUnload s := rfl
@[simp] theorem exec_vstatRead (s : State) : exec (.vstatRead) s = execVstatRead s := rfl
@[simp] theorem exec_contextKeyInstall (s : State) : exec (.contextKeyInstall) s = execContextKeyInstall s := rfl
@[simp] theorem exec_replayCommand (s : State) : exec (.replayCommand) s = execReplayCommand s := rfl
@[simp] theorem exec_attestationCommand (s : State) : exec (.attestationCommand) s = execAttestationCommand s := rfl
@[simp] theorem exec_fabricGroupWrite (s : State) : exec (.fabricGroupWrite) s = execFabricGroupWrite s := rfl
@[simp] theorem exec_runLengthSet (s : State) : exec (.runLengthSet) s = execRunLengthSet s := rfl
@[simp] theorem exec_snapshotRecordRead (s : State) : exec (.snapshotRecordRead) s = execSnapshotRecordRead s := rfl
@[simp] theorem exec_counterRead (s : State) : exec (.counterRead) s = execCounterRead s := rfl
@[simp] theorem exec_bootStepClear (s : State) : exec (.bootStepClear) s = execBootStepClear s := rfl
@[simp] theorem exec_powerLoss (s : State) : exec (.powerLoss) s = execPowerLoss s := rfl
@[simp] theorem exec_virtioDeviceStatus (s : State) : exec (.virtioDeviceStatus) s = execVirtioDeviceStatus s := rfl
@[simp] theorem exec_hostTierLending (s : State) : exec (.hostTierLending) s = execHostTierLending s := rfl
@[simp] theorem exec_arrivalBoundSet (s : State) : exec (.arrivalBoundSet) s = execArrivalBoundSet s := rfl
@[simp] theorem exec_serviceCoreInterrupt (s : State) : exec (.serviceCoreInterrupt) s = execServiceCoreInterrupt s := rfl
@[simp] theorem exec_vocabularyLoadEnd (s : State) : exec (.vocabularyLoadEnd) s = execVocabularyLoadEnd s := rfl
@[simp] theorem exec_sharingEnd (s : State) : exec (.sharingEnd) s = execSharingEnd s := rfl
@[simp] theorem exec_transportKeyInstall (s : State) : exec (.transportKeyInstall) s = execTransportKeyInstall s := rfl

end Sys2Proof.Machine
end

