-- ==== Sys2Proof/Laws/Encoding.lean ====
section
/-!
SUPPORT. Packing fields and reading them back, bytes of a number and reading them back, and each format's fields from its word.
-/
namespace Sys2Proof

theorem leBytes_length (n x : Nat) : (leBytes n x).length = n := by
  induction n generalizing x with
  | zero => rfl
  | succ n ih => simp [leBytes, ih]

theorem leNat_leBytes (n x : Nat) : leNat (leBytes n x) = x % 256 ^ n := by
  induction n generalizing x with
  | zero => simp [leBytes, leNat, Nat.mod_one]
  | succ n ih =>
    simp only [leBytes, leNat, ih, BitVec.toNat_ofNat]
    have h : x % 256 ^ (n + 1) = x % 256 + 256 * (x / 256 % 256 ^ n) := by rw [Nat.pow_succ', Nat.mod_mul]
    rw [h]

theorem leNat_lt (bs : List Byte) : leNat bs < 256 ^ bs.length := by
  induction bs with
  | nil => simp [leNat]
  | cons b r ih =>
    simp only [leNat, List.length_cons, Nat.pow_succ']
    have := b.isLt
    omega

theorem leBytes_leNat (bs : List Byte) : leBytes bs.length (leNat bs) = bs := by
  induction bs with
  | nil => rfl
  | cons b r ih =>
    have h := b.isLt
    simp only [List.length_cons, leBytes, leNat]
    have hd : (b.toNat + 256 * leNat r) / 256 = leNat r := by omega
    have hb : BitVec.ofNat 8 (b.toNat + 256 * leNat r) = b := by
      apply BitVec.eq_of_toNat_eq
      simp only [BitVec.toNat_ofNat]
      omega
    rw [hd, hb, ih]

theorem packBits_lt (l : List (Nat × Nat)) : packBits l < 2 ^ (l.map Prod.fst).sum := by
  induction l with
  | nil => simp [packBits]
  | cons p r ih =>
    obtain ⟨w, x⟩ := p
    simp only [packBits, List.map_cons, List.sum_cons, Nat.pow_add]
    have h1 : x % 2 ^ w < 2 ^ w := Nat.mod_lt _ (Nat.two_pow_pos w)
    calc x % 2 ^ w + 2 ^ w * packBits r < 2 ^ w + 2 ^ w * packBits r := by omega
      _ = 2 ^ w * (packBits r + 1) := by ring
      _ ≤ 2 ^ w * 2 ^ (r.map Prod.fst).sum := Nat.mul_le_mul_left _ ih

theorem packBits_lt_of {l : List (Nat × Nat)} {n : Nat} (h : (l.map Prod.fst).sum = n) : packBits l < 2 ^ n := h ▸ packBits_lt l

/-- The fields come back as they were laid out, each modulo its width. -/
theorem unpackBits_packBits (l : List (Nat × Nat)) : unpackBits (l.map Prod.fst) (packBits l) = l.map fun p => p.2 % 2 ^ p.1 := by
  induction l with
  | nil => rfl
  | cons p r ih =>
    obtain ⟨w, x⟩ := p
    have h1 : x % 2 ^ w < 2 ^ w := Nat.mod_lt _ (Nat.two_pow_pos w)
    simp only [packBits, List.map_cons, unpackBits]
    rw [Nat.add_mul_mod_self_left, Nat.mod_mod, Nat.add_mul_div_left _ _ (Nat.two_pow_pos w), Nat.div_eq_of_lt h1, Nat.zero_add, ih]

theorem ofNat_toNat_mod {w : Nat} (x : BitVec w) : BitVec.ofNat w (x.toNat % 2 ^ w) = x := by
  rw [Nat.mod_eq_of_lt x.isLt, BitVec.ofNat_toNat, BitVec.setWidth_eq]

theorem encSR_lt (o : Nat) (f : SR) : encSR o f < 2 ^ 96 := by
  unfold encSR; exact packBits_lt_of (by simp)
theorem decSR_encSR (o : Nat) (f : SR) : decSR (encSR o f) = f := by
  have h := unpackBits_packBits
    [(46, 0), (5, f.ty.toNat), (4, f.pd.toNat), (6, f.c.toNat), (6, f.b.toNat), (6, f.a.toNat), (6, f.d.toNat), (4, 0),
      (4, f.g.pred.toNat), (1, f.g.neg.toNat), (8, o)]
  simp only [List.map] at h
  simp only [decSR, encSR, widthsSR, h, ofNat_toNat_mod]

theorem encSI_lt (o : Nat) (f : SI) : encSI o f < 2 ^ 96 := by
  unfold encSI; exact packBits_lt_of (by simp)
theorem decSI_encSI (o : Nat) (f : SI) : decSI (encSI o f) = f := by
  have h := unpackBits_packBits
    [(48, f.imm.toNat), (10, 0), (4, f.pd.toNat), (5, f.ty.toNat), (6, f.a.toNat), (6, f.d.toNat), (4, 0),
      (4, f.g.pred.toNat), (1, f.g.neg.toNat), (8, o)]
  simp only [List.map] at h
  simp only [decSI, encSI, widthsSI, h, ofNat_toNat_mod]

theorem encSM_lt (o : Nat) (f : SM) : encSM o f < 2 ^ 96 := by
  unfold encSM; exact packBits_lt_of (by simp)
theorem decSM_encSM (o : Nat) (f : SM) : decSM (encSM o f) = f := by
  have h := unpackBits_packBits
    [(26, f.disp.toNat), (4, f.rout.toNat), (1, f.te.toNat), (1, f.nr.toNat), (2, f.scale.toNat), (5, f.ty.toNat),
      (2, f.scope.toNat), (2, f.ord.toNat), (6, f.f.toNat), (6, f.e.toNat), (6, f.c.toNat), (6, f.b.toNat), (6, f.a.toNat),
      (6, f.d.toNat), (4, f.cls.toNat), (4, f.g.pred.toNat), (1, f.g.neg.toNat), (8, o)]
  simp only [List.map] at h
  simp only [decSM, encSM, widthsSM, h, ofNat_toNat_mod]

theorem encSX_lt (o : Nat) (f : SX) : encSX o f < 2 ^ 96 := by
  unfold encSX; exact packBits_lt_of (by simp)
theorem decSX_encSX (o : Nat) (f : SX) : decSX (encSX o f) = f := by
  have h := unpackBits_packBits
    [(32, f.imm.toNat), (13, 0), (2, f.scope.toNat), (2, f.ord.toNat), (12, f.idx.toNat), (6, f.b.toNat), (6, f.a.toNat),
      (6, f.d.toNat), (4, f.cls.toNat), (4, f.g.pred.toNat), (1, f.g.neg.toNat), (8, o)]
  simp only [List.map] at h
  simp only [decSX, encSX, widthsSX, h, ofNat_toNat_mod]

theorem encVR_lt (o : Nat) (f : VR) : encVR o f < 2 ^ 96 := by
  unfold encVR; exact packBits_lt_of (by simp)
theorem decVR_encVR (o : Nat) (f : VR) : decVR (encVR o f) = f := by
  have h := unpackBits_packBits
    [(28, f.ctl.toNat), (3, f.kd.toNat), (1, f.sat.toNat), (3, f.rnd.toNat), (5, f.dty.toNat), (5, f.ty.toNat),
      (3, f.k.toNat), (1, f.m.toNat), (6, f.sreg.toNat), (6, f.vc.toNat), (6, f.vb.toNat), (6, f.va.toNat), (6, f.vd.toNat),
      (4, 0), (4, f.g.pred.toNat), (1, f.g.neg.toNat), (8, o)]
  simp only [List.map] at h
  simp only [decVR, encVR, widthsVR, h, ofNat_toNat_mod]

theorem encVS_lt (o : Nat) (f : VS) : encVS o f < 2 ^ 96 := by
  unfold encVS; exact packBits_lt_of (by simp)
theorem decVS_encVS (o : Nat) (f : VS) : decVS (encVS o f) = f := by
  have h := unpackBits_packBits
    [(32, f.disp.toNat), (1, 0), (3, f.k.toNat), (1, f.m.toNat), (5, f.ty.toNat), (2, f.scope.toNat), (2, f.ord.toNat),
      (15, f.top.toNat), (6, f.sidx.toNat), (6, f.sbase.toNat), (6, f.v.toNat), (4, f.cls.toNat), (4, f.g.pred.toNat),
      (1, f.g.neg.toNat), (8, o)]
  simp only [List.map] at h
  simp only [decVS, encVS, widthsVS, h, ofNat_toNat_mod]

theorem encVP_lt (o : Nat) (f : VP) : encVP o f < 2 ^ 96 := by
  unfold encVP; exact packBits_lt_of (by simp)
theorem decVP_encVP (o : Nat) (f : VP) : decVP (encVP o f) = f := by
  have h := unpackBits_packBits
    [(37, 0), (4, f.tstep.toNat), (4, f.cstep.toNat), (4, f.bstep.toNat), (4, f.astep.toNat), (4, f.dstep.toNat),
      (16, f.count.toNat), (6, f.creg.toNat), (4, 0), (4, f.g.pred.toNat), (1, f.g.neg.toNat), (8, o)]
  simp only [List.map] at h
  simp only [decVP, encVP, widthsVP, h, ofNat_toNat_mod]

theorem encMM_lt (o : Nat) (f : MM) : encMM o f < 2 ^ 96 := by
  unfold encMM; exact packBits_lt_of (by simp)
theorem decMM_encMM (o : Nat) (f : MM) : decMM (encMM o f) = f := by
  have h := unpackBits_packBits
    [(14, 0), (1, f.z.toNat), (15, f.tb.toNat), (15, f.ta.toNat), (2, f.scope.toNat), (2, f.ord.toNat), (13, f.km1.toNat),
      (5, f.bty.toNat), (5, f.aty.toNat), (2, f.weft.toNat), (2, f.warp.toNat), (3, f.acc.toNat), (4, f.cls.toNat),
      (4, f.g.pred.toNat), (1, f.g.neg.toNat), (8, o)]
  simp only [List.map] at h
  simp only [decMM, encMM, widthsMM, h, ofNat_toNat_mod]

theorem encMA_lt (o : Nat) (f : MA) : encMA o f < 2 ^ 96 := by
  unfold encMA; exact packBits_lt_of (by simp)
theorem decMA_encMA (o : Nat) (f : MA) : decMA (encMA o f) = f := by
  have h := unpackBits_packBits
    [(32, f.imm.toNat), (7, 0), (6, f.sbase.toNat), (2, f.scope.toNat), (2, f.ord.toNat), (1, f.sat.toNat),
      (3, f.rnd.toNat), (5, f.ty.toNat), (15, f.top.toNat), (3, f.acc2.toNat), (3, f.acc.toNat), (4, f.cls.toNat),
      (4, f.g.pred.toNat), (1, f.g.neg.toNat), (8, o)]
  simp only [List.map] at h
  simp only [decMA, encMA, widthsMA, h, ofNat_toNat_mod]

theorem encCC_lt (o : Nat) (f : CC) : encCC o f < 2 ^ 96 := by
  unfold encCC; exact packBits_lt_of (by simp)
theorem decCC_encCC (o : Nat) (f : CC) : decCC (encCC o f) = f := by
  have h := unpackBits_packBits
    [(27, 0), (4, f.tgt.toNat), (6, f.aux.toNat), (1, f.sat.toNat), (3, f.rnd.toNat), (5, f.dty.toNat), (5, f.ty.toNat),
      (2, f.scope.toNat), (2, f.ord.toNat), (6, f.recd.toNat), (6, f.sd.toNat), (6, f.sa.toNat), (6, f.tok.toNat),
      (4, f.cls.toNat), (4, f.g.pred.toNat), (1, f.g.neg.toNat), (8, o)]
  simp only [List.map] at h
  simp only [decCC, encCC, widthsCC, h, ofNat_toNat_mod]

theorem encN_lt (o : Nat) (g : Guard) : encN o g < 2 ^ 96 := packBits_lt_of (by simp)
theorem encSlice_lt (o d a b x : Nat) : encSlice o d a b x < 2 ^ 32 := packBits_lt_of (by simp)
theorem encGj_lt (f d a b : Nat) : encGj f d a b < 2 ^ 32 := packBits_lt_of (by simp)

/-- The bytes of a word of `n` bits, `8 k` of them, give the word back. -/
theorem bytes_of_word {i : Instr} {k : Nat} (hk : i.byteLength = k) (hb : i.bits < 256 ^ k) :
    (encode i).length = i.byteLength ∧ leNat (encode i) = i.bits := by
  refine ⟨leBytes_length _ _, ?_⟩
  rw [encode, leNat_leBytes, hk, Nat.mod_eq_of_lt hb]

end Sys2Proof
end

