-- ==== Sys2Proof/Laws/Images.lean ====
section
/-!
SUPPORT. The sizes of the images a save writes (R175, R196, R205), and reading an image beside a write elsewhere.
-/
namespace Sys2Proof

theorem length_flatMap_of {α β : Type} (l : List α) (f : α → List β) (n : Nat) (h : ∀ x ∈ l, (f x).length = n) :
    (l.flatMap f).length = l.length * n := by
  induction l with
  | nil => simp
  | cons a l ih =>
    rw [List.flatMap_cons, List.length_append, h a (by simp), ih fun x hx => h x (by simp [hx]), List.length_cons]
    ring

/-- A run of little-endian numbers of one size. -/
theorem length_flatMap_leBytes {α : Type} (l : List α) (n : Nat) (f : α → Nat) : (l.flatMap fun x => leBytes n (f x)).length = l.length * n :=
  length_flatMap_of l _ n fun _ _ => leBytes_length ..

theorem length_flatMap_leBytes_self (l : List Nat) (n : Nat) : (l.flatMap (leBytes n)).length = l.length * n :=
  length_flatMap_of l _ n fun _ _ => leBytes_length ..

namespace Machine

theorem MCommand.bytes_length (c : MCommand) : c.bytes.length = 32 := by simp [MCommand.bytes, leBytes_length]

/-- R175: a matrix image has 525,312 bytes. -/
theorem Job.matrixImage_length (j : Job) (q : List MCommand) : (j.matrixImage q).length = 525312 := by
  have h : ((q.take 4).flatMap MCommand.bytes).length ≤ 128 := by
    rw [length_flatMap_of _ _ 32 fun c _ => c.bytes_length, List.length_take]
    omega
  simp only [Job.matrixImage, List.length_append, length_flatMap_leBytes, List.length_range, leBytes_length, List.length_replicate]
  omega

theorem heldBytes_length (r : Option TrapRecord) : (heldBytes r).length = 64 := by cases r <;> simp [heldBytes, recordBytes, leBytes_length]

/-- R205: a job extension record has 4,096 bytes. -/
theorem Job.extensionRecord_length (j : Job) : j.extensionRecord.length = 4096 := by
  have h : ((List.range 8).flatMap fun m => (List.range 32).flatMap fun o => leBytes 8 ((j.mon m).word o)).length = 8 * 256 := by
    rw [length_flatMap_of _ _ 256 fun m _ => by rw [length_flatMap_leBytes]; rfl]; rfl
  simp only [Job.extensionRecord, List.length_append, h, length_flatMap_leBytes, List.length_range, leBytes_length, heldBytes_length,
    List.length_replicate, length_flatMap_leBytes_self, Job.trapWords, List.length_cons, List.length_nil]

theorem Job.imageBytesAt_length (j : Job) (i : Nat) : (j.imageBytesAt i).length = 32 := by
  unfold Job.imageBytesAt
  split
  · exact MCommand.bytes_length _
  · simp

theorem Job.commandBytes_length (j : Job) : j.commandBytes.length = 192 := by
  unfold Job.commandBytes
  split <;> simp only [List.length_append, leBytes_length, List.length_replicate]

theorem Job.levelBytes_length (j : Job) (n : Nat) : (j.levelBytes n).length = 32 := by
  simp only [Job.levelBytes, List.length_append, length_flatMap_leBytes, leBytes_length]; rfl

/-- R196: a control area has 1,024 bytes. -/
theorem Job.controlArea_length (j : Job) : j.controlArea.length = 1024 := by
  have h1 : ((List.range 8).flatMap j.levelBytes).length = 8 * 32 := by rw [length_flatMap_of _ _ 32 fun n _ => j.levelBytes_length n]; rfl
  have h2 : ((List.range 3).flatMap j.imageBytesAt).length = 3 * 32 := by rw [length_flatMap_of _ _ 32 fun n _ => j.imageBytesAt_length n]; rfl
  simp only [Job.controlArea, List.length_append, h1, h2, length_flatMap_leBytes, List.length_range, leBytes_length, j.commandBytes_length,
    j.imageBytesAt_length, List.length_replicate, List.length_cons, List.length_nil]

/-- R196: a context image has 837,632 bytes. -/
theorem Job.contextImage_length (j : Job) : j.contextImage.length = contextBytes := by
  have h : ((List.range 8).flatMap fun b => (List.range 8).flatMap fun y => leBytes 512 ((j.bobbin b).entries.getD y 0).toNat).length = 8 * 4096 := by
    rw [length_flatMap_of _ _ 4096 fun b _ => by rw [length_flatMap_leBytes]; rfl]; rfl
  simp only [Job.contextImage, List.length_append, h, length_flatMap_leBytes, List.length_range, j.controlArea_length, contextBytes]

theorem Job.padRead_length (j : Job) (o n : Nat) : (j.padRead o n).length = n := leBytes_length ..

/-! A window beside a write -/

theorem window_overlay (m c : Sparse Byte) (a n b k : Nat) (h : b + k ≤ a ∨ a + n ≤ b) :
    Sparse.window (Sparse.overlay m a n c) b k = Sparse.window m b k := by
  unfold Sparse.window Sparse.overlay
  congr 1
  rw [List.filter_append, List.filter_append, List.filter_filter, List.filter_filter]
  have mid : (List.map (fun p => (p.1 + a, p.2)) (c.filter fun p => p.1 < n)).filter (fun p => decide (b ≤ p.1) && decide (p.1 < b + k)) = [] := by
    simp only [List.filter_eq_nil_iff, List.mem_map, List.mem_filter, decide_eq_true_eq, Bool.and_eq_true, not_and, not_lt]
    rintro _ ⟨q, ⟨_, hq⟩, rfl⟩ hb
    dsimp only at hb ⊢
    omega
  rw [mid, List.append_nil]
  rcases h with h | h
  · have e1 : (m.filter fun p => decide (b ≤ p.1) && decide (p.1 < b + k) && decide (p.1 < a)) =
        m.filter fun p => decide (b ≤ p.1) && decide (p.1 < b + k) := by
      congr 1; funext p; by_cases x : p.1 < b + k <;> simp [x]; omega
    have e2 : (m.filter fun p => decide (b ≤ p.1) && decide (p.1 < b + k) && decide (a + n ≤ p.1)) = [] := by
      simp only [List.filter_eq_nil_iff, Bool.and_eq_true, decide_eq_true_eq]; intro p _; omega
    rw [e1, e2, List.append_nil]
  · have e1 : (m.filter fun p => decide (b ≤ p.1) && decide (p.1 < b + k) && decide (p.1 < a)) = [] := by
      simp only [List.filter_eq_nil_iff, Bool.and_eq_true, decide_eq_true_eq]; intro p _; omega
    have e2 : (m.filter fun p => decide (b ≤ p.1) && decide (p.1 < b + k) && decide (a + n ≤ p.1)) =
        m.filter fun p => decide (b ≤ p.1) && decide (p.1 < b + k) := by
      congr 1; funext p; by_cases x : b ≤ p.1 <;> simp [x]; omega
    rw [e1, e2, List.nil_append]

/-- What a window of memory holds after a write to pieces that do not meet it. -/
theorem State.window_writePieces (s : State) (ps : List (Nat × Nat)) (bs : List Byte) (b k : Nat)
    (h : ∀ p ∈ ps, b + k ≤ p.1 ∨ p.1 + p.2 ≤ b) : Sparse.window (s.writePieces ps bs).mem b k = Sparse.window s.mem b k := by
  induction ps generalizing s bs with
  | nil => rfl
  | cons p ps ih =>
    rw [State.writePieces, ih _ _ fun q hq => h q (by simp [hq])]
    refine window_overlay _ _ _ _ _ _ ?_
    have := h p (by simp)
    have : (bs.take p.2).length ≤ p.2 := by simp
    omega

/-- The bytes of a reached run are the same after a write to pieces that do not meet it. -/
theorem State.cells_writePieces (s : State) (ps qs : List (Nat × Nat)) (bs : List Byte)
    (h : ∀ q ∈ qs, ∀ p ∈ ps, q.1 + q.2 ≤ p.1 ∨ p.1 + p.2 ≤ q.1) : (s.writePieces ps bs).cells qs = s.cells qs := by
  unfold State.cells
  congr 1
  generalize ((0, []) : Nat × Sparse Byte) = init
  induction qs generalizing init with
  | nil => rfl
  | cons q qs ih =>
    rw [List.foldl_cons, List.foldl_cons, s.window_writePieces ps bs q.1 q.2 (h q (by simp)), ih fun x hx => h x (by simp [hx])]

end Machine
end Sys2Proof
end

