-- ==== Sys2Proof/Laws/State.lean ====
section
/-!
SUPPORT. One lemma per field per update: what the accessors read after each named update of the state, a die, a core, a job.
-/
namespace Sys2Proof.Machine

/-! Fields of the state after an update of another -/

@[simp] theorem State.setDie_turn (s : State) (d : Nat) (x : Die) : (s.setDie d x).turn = s.turn := rfl
@[simp] theorem State.setDie_input (s : State) (d : Nat) (x : Die) : (s.setDie d x).input = s.input := rfl
@[simp] theorem State.setDie_schedule (s : State) (d : Nat) (x : Die) : (s.setDie d x).schedule = s.schedule := rfl
@[simp] theorem State.setDie_tick (s : State) (d : Nat) (x : Die) : (s.setDie d x).tick = s.tick := rfl
@[simp] theorem State.setDie_clock (s : State) (d : Nat) (x : Die) : (s.setDie d x).clock = s.clock := rfl
@[simp] theorem State.setDie_resets (s : State) (d : Nat) (x : Die) : (s.setDie d x).resets = s.resets := rfl
@[simp] theorem State.setDie_hub (s : State) (d : Nat) (x : Die) : (s.setDie d x).hub = s.hub := rfl
@[simp] theorem State.setDie_platform (s : State) (d : Nat) (x : Die) : (s.setDie d x).platform = s.platform := rfl
@[simp] theorem State.setDie_mem (s : State) (d : Nat) (x : Die) : (s.setDie d x).mem = s.mem := rfl
@[simp] theorem State.setDie_blocks (s : State) (d : Nat) (x : Die) : (s.setDie d x).blocks = s.blocks := rfl
@[simp] theorem State.setDie_extras (s : State) (d : Nat) (x : Die) : (s.setDie d x).extras = s.extras := rfl
@[simp] theorem State.setDie_routines (s : State) (d : Nat) (x : Die) : (s.setDie d x).routines = s.routines := rfl

@[simp] theorem State.updDie_turn (s : State) (d : Nat) (f : Die → Die) : (s.updDie d f).turn = s.turn := rfl
@[simp] theorem State.updDie_input (s : State) (d : Nat) (f : Die → Die) : (s.updDie d f).input = s.input := rfl
@[simp] theorem State.updDie_schedule (s : State) (d : Nat) (f : Die → Die) : (s.updDie d f).schedule = s.schedule := rfl
@[simp] theorem State.updDie_tick (s : State) (d : Nat) (f : Die → Die) : (s.updDie d f).tick = s.tick := rfl
@[simp] theorem State.updDie_clock (s : State) (d : Nat) (f : Die → Die) : (s.updDie d f).clock = s.clock := rfl
@[simp] theorem State.updDie_resets (s : State) (d : Nat) (f : Die → Die) : (s.updDie d f).resets = s.resets := rfl
@[simp] theorem State.updDie_hub (s : State) (d : Nat) (f : Die → Die) : (s.updDie d f).hub = s.hub := rfl
@[simp] theorem State.updDie_platform (s : State) (d : Nat) (f : Die → Die) : (s.updDie d f).platform = s.platform := rfl
@[simp] theorem State.updDie_mem (s : State) (d : Nat) (f : Die → Die) : (s.updDie d f).mem = s.mem := rfl
@[simp] theorem State.updDie_blocks (s : State) (d : Nat) (f : Die → Die) : (s.updDie d f).blocks = s.blocks := rfl
@[simp] theorem State.updDie_extras (s : State) (d : Nat) (f : Die → Die) : (s.updDie d f).extras = s.extras := rfl
@[simp] theorem State.updDie_routines (s : State) (d : Nat) (f : Die → Die) : (s.updDie d f).routines = s.routines := rfl

@[simp] theorem State.setCore_turn (s : State) (n : Nat) (x : Core) : (s.setCore n x).turn = s.turn := rfl
@[simp] theorem State.setCore_input (s : State) (n : Nat) (x : Core) : (s.setCore n x).input = s.input := rfl
@[simp] theorem State.setCore_schedule (s : State) (n : Nat) (x : Core) : (s.setCore n x).schedule = s.schedule := rfl
@[simp] theorem State.setCore_tick (s : State) (n : Nat) (x : Core) : (s.setCore n x).tick = s.tick := rfl
@[simp] theorem State.setCore_clock (s : State) (n : Nat) (x : Core) : (s.setCore n x).clock = s.clock := rfl
@[simp] theorem State.setCore_resets (s : State) (n : Nat) (x : Core) : (s.setCore n x).resets = s.resets := rfl
@[simp] theorem State.setCore_hub (s : State) (n : Nat) (x : Core) : (s.setCore n x).hub = s.hub := rfl
@[simp] theorem State.setCore_platform (s : State) (n : Nat) (x : Core) : (s.setCore n x).platform = s.platform := rfl
@[simp] theorem State.setCore_mem (s : State) (n : Nat) (x : Core) : (s.setCore n x).mem = s.mem := rfl
@[simp] theorem State.setCore_blocks (s : State) (n : Nat) (x : Core) : (s.setCore n x).blocks = s.blocks := rfl
@[simp] theorem State.setCore_extras (s : State) (n : Nat) (x : Core) : (s.setCore n x).extras = s.extras := rfl
@[simp] theorem State.setCore_routines (s : State) (n : Nat) (x : Core) : (s.setCore n x).routines = s.routines := rfl

@[simp] theorem State.updCore_turn (s : State) (n : Nat) (f : Core → Core) : (s.updCore n f).turn = s.turn := rfl
@[simp] theorem State.updCore_input (s : State) (n : Nat) (f : Core → Core) : (s.updCore n f).input = s.input := rfl
@[simp] theorem State.updCore_schedule (s : State) (n : Nat) (f : Core → Core) : (s.updCore n f).schedule = s.schedule := rfl
@[simp] theorem State.updCore_tick (s : State) (n : Nat) (f : Core → Core) : (s.updCore n f).tick = s.tick := rfl
@[simp] theorem State.updCore_clock (s : State) (n : Nat) (f : Core → Core) : (s.updCore n f).clock = s.clock := rfl
@[simp] theorem State.updCore_resets (s : State) (n : Nat) (f : Core → Core) : (s.updCore n f).resets = s.resets := rfl
@[simp] theorem State.updCore_hub (s : State) (n : Nat) (f : Core → Core) : (s.updCore n f).hub = s.hub := rfl
@[simp] theorem State.updCore_platform (s : State) (n : Nat) (f : Core → Core) : (s.updCore n f).platform = s.platform := rfl
@[simp] theorem State.updCore_mem (s : State) (n : Nat) (f : Core → Core) : (s.updCore n f).mem = s.mem := rfl
@[simp] theorem State.updCore_blocks (s : State) (n : Nat) (f : Core → Core) : (s.updCore n f).blocks = s.blocks := rfl
@[simp] theorem State.updCore_extras (s : State) (n : Nat) (f : Core → Core) : (s.updCore n f).extras = s.extras := rfl
@[simp] theorem State.updCore_routines (s : State) (n : Nat) (f : Core → Core) : (s.updCore n f).routines = s.routines := rfl

@[simp] theorem State.setJob_turn (s : State) (n : Nat) (j : Job) : (s.setJob n j).turn = s.turn := rfl
@[simp] theorem State.setJob_input (s : State) (n : Nat) (j : Job) : (s.setJob n j).input = s.input := rfl
@[simp] theorem State.setJob_schedule (s : State) (n : Nat) (j : Job) : (s.setJob n j).schedule = s.schedule := rfl
@[simp] theorem State.setJob_tick (s : State) (n : Nat) (j : Job) : (s.setJob n j).tick = s.tick := rfl
@[simp] theorem State.setJob_clock (s : State) (n : Nat) (j : Job) : (s.setJob n j).clock = s.clock := rfl
@[simp] theorem State.setJob_resets (s : State) (n : Nat) (j : Job) : (s.setJob n j).resets = s.resets := rfl
@[simp] theorem State.setJob_hub (s : State) (n : Nat) (j : Job) : (s.setJob n j).hub = s.hub := rfl
@[simp] theorem State.setJob_platform (s : State) (n : Nat) (j : Job) : (s.setJob n j).platform = s.platform := rfl
@[simp] theorem State.setJob_mem (s : State) (n : Nat) (j : Job) : (s.setJob n j).mem = s.mem := rfl
@[simp] theorem State.setJob_blocks (s : State) (n : Nat) (j : Job) : (s.setJob n j).blocks = s.blocks := rfl
@[simp] theorem State.setJob_extras (s : State) (n : Nat) (j : Job) : (s.setJob n j).extras = s.extras := rfl
@[simp] theorem State.setJob_routines (s : State) (n : Nat) (j : Job) : (s.setJob n j).routines = s.routines := rfl

@[simp] theorem State.setSlice_turn (s : State) (d i : Nat) (x : Slice) : (s.setSlice d i x).turn = s.turn := rfl
@[simp] theorem State.setSlice_input (s : State) (d i : Nat) (x : Slice) : (s.setSlice d i x).input = s.input := rfl
@[simp] theorem State.setSlice_schedule (s : State) (d i : Nat) (x : Slice) : (s.setSlice d i x).schedule = s.schedule := rfl
@[simp] theorem State.setSlice_tick (s : State) (d i : Nat) (x : Slice) : (s.setSlice d i x).tick = s.tick := rfl
@[simp] theorem State.setSlice_clock (s : State) (d i : Nat) (x : Slice) : (s.setSlice d i x).clock = s.clock := rfl
@[simp] theorem State.setSlice_resets (s : State) (d i : Nat) (x : Slice) : (s.setSlice d i x).resets = s.resets := rfl
@[simp] theorem State.setSlice_hub (s : State) (d i : Nat) (x : Slice) : (s.setSlice d i x).hub = s.hub := rfl
@[simp] theorem State.setSlice_platform (s : State) (d i : Nat) (x : Slice) : (s.setSlice d i x).platform = s.platform := rfl
@[simp] theorem State.setSlice_mem (s : State) (d i : Nat) (x : Slice) : (s.setSlice d i x).mem = s.mem := rfl
@[simp] theorem State.setSlice_blocks (s : State) (d i : Nat) (x : Slice) : (s.setSlice d i x).blocks = s.blocks := rfl
@[simp] theorem State.setSlice_extras (s : State) (d i : Nat) (x : Slice) : (s.setSlice d i x).extras = s.extras := rfl
@[simp] theorem State.setSlice_routines (s : State) (d i : Nat) (x : Slice) : (s.setSlice d i x).routines = s.routines := rfl

@[simp] theorem State.updSlice_turn (s : State) (d i : Nat) (f : Slice → Slice) : (s.updSlice d i f).turn = s.turn := rfl
@[simp] theorem State.updSlice_input (s : State) (d i : Nat) (f : Slice → Slice) : (s.updSlice d i f).input = s.input := rfl
@[simp] theorem State.updSlice_schedule (s : State) (d i : Nat) (f : Slice → Slice) : (s.updSlice d i f).schedule = s.schedule := rfl
@[simp] theorem State.updSlice_tick (s : State) (d i : Nat) (f : Slice → Slice) : (s.updSlice d i f).tick = s.tick := rfl
@[simp] theorem State.updSlice_clock (s : State) (d i : Nat) (f : Slice → Slice) : (s.updSlice d i f).clock = s.clock := rfl
@[simp] theorem State.updSlice_resets (s : State) (d i : Nat) (f : Slice → Slice) : (s.updSlice d i f).resets = s.resets := rfl
@[simp] theorem State.updSlice_hub (s : State) (d i : Nat) (f : Slice → Slice) : (s.updSlice d i f).hub = s.hub := rfl
@[simp] theorem State.updSlice_platform (s : State) (d i : Nat) (f : Slice → Slice) : (s.updSlice d i f).platform = s.platform := rfl
@[simp] theorem State.updSlice_mem (s : State) (d i : Nat) (f : Slice → Slice) : (s.updSlice d i f).mem = s.mem := rfl
@[simp] theorem State.updSlice_blocks (s : State) (d i : Nat) (f : Slice → Slice) : (s.updSlice d i f).blocks = s.blocks := rfl
@[simp] theorem State.updSlice_extras (s : State) (d i : Nat) (f : Slice → Slice) : (s.updSlice d i f).extras = s.extras := rfl
@[simp] theorem State.updSlice_routines (s : State) (d i : Nat) (f : Slice → Slice) : (s.updSlice d i f).routines = s.routines := rfl

@[simp] theorem State.setOwner_turn (s : State) (d i v : Nat) : (s.setOwner d i v).turn = s.turn := rfl
@[simp] theorem State.setOwner_input (s : State) (d i v : Nat) : (s.setOwner d i v).input = s.input := rfl
@[simp] theorem State.setOwner_schedule (s : State) (d i v : Nat) : (s.setOwner d i v).schedule = s.schedule := rfl
@[simp] theorem State.setOwner_tick (s : State) (d i v : Nat) : (s.setOwner d i v).tick = s.tick := rfl
@[simp] theorem State.setOwner_clock (s : State) (d i v : Nat) : (s.setOwner d i v).clock = s.clock := rfl
@[simp] theorem State.setOwner_resets (s : State) (d i v : Nat) : (s.setOwner d i v).resets = s.resets := rfl
@[simp] theorem State.setOwner_hub (s : State) (d i v : Nat) : (s.setOwner d i v).hub = s.hub := rfl
@[simp] theorem State.setOwner_platform (s : State) (d i v : Nat) : (s.setOwner d i v).platform = s.platform := rfl
@[simp] theorem State.setOwner_mem (s : State) (d i v : Nat) : (s.setOwner d i v).mem = s.mem := rfl
@[simp] theorem State.setOwner_blocks (s : State) (d i v : Nat) : (s.setOwner d i v).blocks = s.blocks := rfl
@[simp] theorem State.setOwner_extras (s : State) (d i v : Nat) : (s.setOwner d i v).extras = s.extras := rfl
@[simp] theorem State.setOwner_routines (s : State) (d i v : Nat) : (s.setOwner d i v).routines = s.routines := rfl

@[simp] theorem State.setTag_turn (s : State) (pa v : Nat) : (s.setTag pa v).turn = s.turn := rfl
@[simp] theorem State.setTag_input (s : State) (pa v : Nat) : (s.setTag pa v).input = s.input := rfl
@[simp] theorem State.setTag_schedule (s : State) (pa v : Nat) : (s.setTag pa v).schedule = s.schedule := rfl
@[simp] theorem State.setTag_tick (s : State) (pa v : Nat) : (s.setTag pa v).tick = s.tick := rfl
@[simp] theorem State.setTag_clock (s : State) (pa v : Nat) : (s.setTag pa v).clock = s.clock := rfl
@[simp] theorem State.setTag_resets (s : State) (pa v : Nat) : (s.setTag pa v).resets = s.resets := rfl
@[simp] theorem State.setTag_hub (s : State) (pa v : Nat) : (s.setTag pa v).hub = s.hub := rfl
@[simp] theorem State.setTag_platform (s : State) (pa v : Nat) : (s.setTag pa v).platform = s.platform := rfl
@[simp] theorem State.setTag_mem (s : State) (pa v : Nat) : (s.setTag pa v).mem = s.mem := rfl
@[simp] theorem State.setTag_blocks (s : State) (pa v : Nat) : (s.setTag pa v).blocks = s.blocks := rfl
@[simp] theorem State.setTag_extras (s : State) (pa v : Nat) : (s.setTag pa v).extras = s.extras := rfl
@[simp] theorem State.setTag_routines (s : State) (pa v : Nat) : (s.setTag pa v).routines = s.routines := rfl

@[simp] theorem State.setBlk_turn (s : State) (n off v : Nat) : (s.setBlk n off v).turn = s.turn := rfl
@[simp] theorem State.setBlk_input (s : State) (n off v : Nat) : (s.setBlk n off v).input = s.input := rfl
@[simp] theorem State.setBlk_schedule (s : State) (n off v : Nat) : (s.setBlk n off v).schedule = s.schedule := rfl
@[simp] theorem State.setBlk_tick (s : State) (n off v : Nat) : (s.setBlk n off v).tick = s.tick := rfl
@[simp] theorem State.setBlk_clock (s : State) (n off v : Nat) : (s.setBlk n off v).clock = s.clock := rfl
@[simp] theorem State.setBlk_resets (s : State) (n off v : Nat) : (s.setBlk n off v).resets = s.resets := rfl
@[simp] theorem State.setBlk_dies (s : State) (n off v : Nat) : (s.setBlk n off v).dies = s.dies := rfl
@[simp] theorem State.setBlk_hub (s : State) (n off v : Nat) : (s.setBlk n off v).hub = s.hub := rfl
@[simp] theorem State.setBlk_platform (s : State) (n off v : Nat) : (s.setBlk n off v).platform = s.platform := rfl
@[simp] theorem State.setBlk_mem (s : State) (n off v : Nat) : (s.setBlk n off v).mem = s.mem := rfl
@[simp] theorem State.setBlk_extras (s : State) (n off v : Nat) : (s.setBlk n off v).extras = s.extras := rfl
@[simp] theorem State.setBlk_routines (s : State) (n off v : Nat) : (s.setBlk n off v).routines = s.routines := rfl

@[simp] theorem State.setBlkBits_turn (s : State) (n off hi lo v : Nat) : (s.setBlkBits n off hi lo v).turn = s.turn := by
  simp only [State.setBlkBits, State.setBlk_turn]
@[simp] theorem State.setBlkBits_input (s : State) (n off hi lo v : Nat) : (s.setBlkBits n off hi lo v).input = s.input := by
  simp only [State.setBlkBits, State.setBlk_input]
@[simp] theorem State.setBlkBits_schedule (s : State) (n off hi lo v : Nat) : (s.setBlkBits n off hi lo v).schedule = s.schedule := by
  simp only [State.setBlkBits, State.setBlk_schedule]
@[simp] theorem State.setBlkBits_tick (s : State) (n off hi lo v : Nat) : (s.setBlkBits n off hi lo v).tick = s.tick := by
  simp only [State.setBlkBits, State.setBlk_tick]
@[simp] theorem State.setBlkBits_clock (s : State) (n off hi lo v : Nat) : (s.setBlkBits n off hi lo v).clock = s.clock := by
  simp only [State.setBlkBits, State.setBlk_clock]
@[simp] theorem State.setBlkBits_resets (s : State) (n off hi lo v : Nat) : (s.setBlkBits n off hi lo v).resets = s.resets := by
  simp only [State.setBlkBits, State.setBlk_resets]
@[simp] theorem State.setBlkBits_dies (s : State) (n off hi lo v : Nat) : (s.setBlkBits n off hi lo v).dies = s.dies := by
  simp only [State.setBlkBits, State.setBlk_dies]
@[simp] theorem State.setBlkBits_hub (s : State) (n off hi lo v : Nat) : (s.setBlkBits n off hi lo v).hub = s.hub := by
  simp only [State.setBlkBits, State.setBlk_hub]
@[simp] theorem State.setBlkBits_platform (s : State) (n off hi lo v : Nat) : (s.setBlkBits n off hi lo v).platform = s.platform := by
  simp only [State.setBlkBits, State.setBlk_platform]
@[simp] theorem State.setBlkBits_mem (s : State) (n off hi lo v : Nat) : (s.setBlkBits n off hi lo v).mem = s.mem := by
  simp only [State.setBlkBits, State.setBlk_mem]
@[simp] theorem State.setBlkBits_extras (s : State) (n off hi lo v : Nat) : (s.setBlkBits n off hi lo v).extras = s.extras := by
  simp only [State.setBlkBits, State.setBlk_extras]
@[simp] theorem State.setBlkBits_routines (s : State) (n off hi lo v : Nat) : (s.setBlkBits n off hi lo v).routines = s.routines := by
  simp only [State.setBlkBits, State.setBlk_routines]

@[simp] theorem State.setCtxState_turn (s : State) (n st : Nat) : (s.setCtxState n st).turn = s.turn := by
  simp only [State.setCtxState, State.setBlkBits_turn]
@[simp] theorem State.setCtxState_input (s : State) (n st : Nat) : (s.setCtxState n st).input = s.input := by
  simp only [State.setCtxState, State.setBlkBits_input]
@[simp] theorem State.setCtxState_schedule (s : State) (n st : Nat) : (s.setCtxState n st).schedule = s.schedule := by
  simp only [State.setCtxState, State.setBlkBits_schedule]
@[simp] theorem State.setCtxState_tick (s : State) (n st : Nat) : (s.setCtxState n st).tick = s.tick := by
  simp only [State.setCtxState, State.setBlkBits_tick]
@[simp] theorem State.setCtxState_clock (s : State) (n st : Nat) : (s.setCtxState n st).clock = s.clock := by
  simp only [State.setCtxState, State.setBlkBits_clock]
@[simp] theorem State.setCtxState_resets (s : State) (n st : Nat) : (s.setCtxState n st).resets = s.resets := by
  simp only [State.setCtxState, State.setBlkBits_resets]
@[simp] theorem State.setCtxState_dies (s : State) (n st : Nat) : (s.setCtxState n st).dies = s.dies := by
  simp only [State.setCtxState, State.setBlkBits_dies]
@[simp] theorem State.setCtxState_hub (s : State) (n st : Nat) : (s.setCtxState n st).hub = s.hub := by
  simp only [State.setCtxState, State.setBlkBits_hub]
@[simp] theorem State.setCtxState_platform (s : State) (n st : Nat) : (s.setCtxState n st).platform = s.platform := by
  simp only [State.setCtxState, State.setBlkBits_platform]
@[simp] theorem State.setCtxState_mem (s : State) (n st : Nat) : (s.setCtxState n st).mem = s.mem := by
  simp only [State.setCtxState, State.setBlkBits_mem]
@[simp] theorem State.setCtxState_extras (s : State) (n st : Nat) : (s.setCtxState n st).extras = s.extras := by
  simp only [State.setCtxState, State.setBlkBits_extras]
@[simp] theorem State.setCtxState_routines (s : State) (n st : Nat) : (s.setCtxState n st).routines = s.routines := by
  simp only [State.setCtxState, State.setBlkBits_routines]

@[simp] theorem State.setExtra_turn (s : State) (n : Nat) (x : CtxExtra) : (s.setExtra n x).turn = s.turn := rfl
@[simp] theorem State.setExtra_input (s : State) (n : Nat) (x : CtxExtra) : (s.setExtra n x).input = s.input := rfl
@[simp] theorem State.setExtra_schedule (s : State) (n : Nat) (x : CtxExtra) : (s.setExtra n x).schedule = s.schedule := rfl
@[simp] theorem State.setExtra_tick (s : State) (n : Nat) (x : CtxExtra) : (s.setExtra n x).tick = s.tick := rfl
@[simp] theorem State.setExtra_clock (s : State) (n : Nat) (x : CtxExtra) : (s.setExtra n x).clock = s.clock := rfl
@[simp] theorem State.setExtra_resets (s : State) (n : Nat) (x : CtxExtra) : (s.setExtra n x).resets = s.resets := rfl
@[simp] theorem State.setExtra_dies (s : State) (n : Nat) (x : CtxExtra) : (s.setExtra n x).dies = s.dies := rfl
@[simp] theorem State.setExtra_hub (s : State) (n : Nat) (x : CtxExtra) : (s.setExtra n x).hub = s.hub := rfl
@[simp] theorem State.setExtra_platform (s : State) (n : Nat) (x : CtxExtra) : (s.setExtra n x).platform = s.platform := rfl
@[simp] theorem State.setExtra_mem (s : State) (n : Nat) (x : CtxExtra) : (s.setExtra n x).mem = s.mem := rfl
@[simp] theorem State.setExtra_blocks (s : State) (n : Nat) (x : CtxExtra) : (s.setExtra n x).blocks = s.blocks := rfl
@[simp] theorem State.setExtra_routines (s : State) (n : Nat) (x : CtxExtra) : (s.setExtra n x).routines = s.routines := rfl

@[simp] theorem State.updExtra_turn (s : State) (n : Nat) (f : CtxExtra → CtxExtra) : (s.updExtra n f).turn = s.turn := rfl
@[simp] theorem State.updExtra_input (s : State) (n : Nat) (f : CtxExtra → CtxExtra) : (s.updExtra n f).input = s.input := rfl
@[simp] theorem State.updExtra_schedule (s : State) (n : Nat) (f : CtxExtra → CtxExtra) : (s.updExtra n f).schedule = s.schedule := rfl
@[simp] theorem State.updExtra_tick (s : State) (n : Nat) (f : CtxExtra → CtxExtra) : (s.updExtra n f).tick = s.tick := rfl
@[simp] theorem State.updExtra_clock (s : State) (n : Nat) (f : CtxExtra → CtxExtra) : (s.updExtra n f).clock = s.clock := rfl
@[simp] theorem State.updExtra_resets (s : State) (n : Nat) (f : CtxExtra → CtxExtra) : (s.updExtra n f).resets = s.resets := rfl
@[simp] theorem State.updExtra_dies (s : State) (n : Nat) (f : CtxExtra → CtxExtra) : (s.updExtra n f).dies = s.dies := rfl
@[simp] theorem State.updExtra_hub (s : State) (n : Nat) (f : CtxExtra → CtxExtra) : (s.updExtra n f).hub = s.hub := rfl
@[simp] theorem State.updExtra_platform (s : State) (n : Nat) (f : CtxExtra → CtxExtra) : (s.updExtra n f).platform = s.platform := rfl
@[simp] theorem State.updExtra_mem (s : State) (n : Nat) (f : CtxExtra → CtxExtra) : (s.updExtra n f).mem = s.mem := rfl
@[simp] theorem State.updExtra_blocks (s : State) (n : Nat) (f : CtxExtra → CtxExtra) : (s.updExtra n f).blocks = s.blocks := rfl
@[simp] theorem State.updExtra_routines (s : State) (n : Nat) (f : CtxExtra → CtxExtra) : (s.updExtra n f).routines = s.routines := rfl

@[simp] theorem State.writePa_turn (s : State) (pa : Nat) (bs : List Byte) : (s.writePa pa bs).turn = s.turn := rfl
@[simp] theorem State.writePa_input (s : State) (pa : Nat) (bs : List Byte) : (s.writePa pa bs).input = s.input := rfl
@[simp] theorem State.writePa_schedule (s : State) (pa : Nat) (bs : List Byte) : (s.writePa pa bs).schedule = s.schedule := rfl
@[simp] theorem State.writePa_tick (s : State) (pa : Nat) (bs : List Byte) : (s.writePa pa bs).tick = s.tick := rfl
@[simp] theorem State.writePa_clock (s : State) (pa : Nat) (bs : List Byte) : (s.writePa pa bs).clock = s.clock := rfl
@[simp] theorem State.writePa_resets (s : State) (pa : Nat) (bs : List Byte) : (s.writePa pa bs).resets = s.resets := rfl
@[simp] theorem State.writePa_dies (s : State) (pa : Nat) (bs : List Byte) : (s.writePa pa bs).dies = s.dies := rfl
@[simp] theorem State.writePa_hub (s : State) (pa : Nat) (bs : List Byte) : (s.writePa pa bs).hub = s.hub := rfl
@[simp] theorem State.writePa_platform (s : State) (pa : Nat) (bs : List Byte) : (s.writePa pa bs).platform = s.platform := rfl
@[simp] theorem State.writePa_blocks (s : State) (pa : Nat) (bs : List Byte) : (s.writePa pa bs).blocks = s.blocks := rfl
@[simp] theorem State.writePa_extras (s : State) (pa : Nat) (bs : List Byte) : (s.writePa pa bs).extras = s.extras := rfl
@[simp] theorem State.writePa_routines (s : State) (pa : Nat) (bs : List Byte) : (s.writePa pa bs).routines = s.routines := rfl

@[simp] theorem State.updJob_turn (s : State) (n : Nat) (g : Job → Job) : (s.updJob n g).turn = s.turn := by
  unfold State.updJob; split <;> rfl
@[simp] theorem State.updJob_input (s : State) (n : Nat) (g : Job → Job) : (s.updJob n g).input = s.input := by
  unfold State.updJob; split <;> rfl
@[simp] theorem State.updJob_schedule (s : State) (n : Nat) (g : Job → Job) : (s.updJob n g).schedule = s.schedule := by
  unfold State.updJob; split <;> rfl
@[simp] theorem State.updJob_tick (s : State) (n : Nat) (g : Job → Job) : (s.updJob n g).tick = s.tick := by
  unfold State.updJob; split <;> rfl
@[simp] theorem State.updJob_clock (s : State) (n : Nat) (g : Job → Job) : (s.updJob n g).clock = s.clock := by
  unfold State.updJob; split <;> rfl
@[simp] theorem State.updJob_resets (s : State) (n : Nat) (g : Job → Job) : (s.updJob n g).resets = s.resets := by
  unfold State.updJob; split <;> rfl
@[simp] theorem State.updJob_hub (s : State) (n : Nat) (g : Job → Job) : (s.updJob n g).hub = s.hub := by
  unfold State.updJob; split <;> rfl
@[simp] theorem State.updJob_platform (s : State) (n : Nat) (g : Job → Job) : (s.updJob n g).platform = s.platform := by
  unfold State.updJob; split <;> rfl
@[simp] theorem State.updJob_mem (s : State) (n : Nat) (g : Job → Job) : (s.updJob n g).mem = s.mem := by
  unfold State.updJob; split <;> rfl
@[simp] theorem State.updJob_blocks (s : State) (n : Nat) (g : Job → Job) : (s.updJob n g).blocks = s.blocks := by
  unfold State.updJob; split <;> rfl
@[simp] theorem State.updJob_extras (s : State) (n : Nat) (g : Job → Job) : (s.updJob n g).extras = s.extras := by
  unfold State.updJob; split <;> rfl
@[simp] theorem State.updJob_routines (s : State) (n : Nat) (g : Job → Job) : (s.updJob n g).routines = s.routines := by
  unfold State.updJob; split <;> rfl

/-! Dies, cores, jobs -/

theorem State.die_setDie (s : State) (d e : Nat) (x : Die) : (s.setDie d x).die e = if d = e then x else s.die e := by
  simp [State.die, State.setDie, Sparse.get_set]

@[simp] theorem State.die_setDie_same (s : State) (d : Nat) (x : Die) : (s.setDie d x).die d = x := by simp [State.die_setDie]

theorem State.die_updDie (s : State) (d e : Nat) (f : Die → Die) : (s.updDie d f).die e = if d = e then f (s.die d) else s.die e := by
  simp [State.updDie, State.die_setDie]

theorem Die.core_setCore (x : Die) (c e : Nat) (y : Core) : (x.setCore c y).core e = if c = e then y else x.core e := by
  simp [Die.core, Die.setCore, Sparse.get_set]

theorem Die.slice_setSlice (x : Die) (c e : Nat) (y : Slice) : (x.setSlice c y).slice e = if c = e then y else x.slice e := by
  simp [Die.slice, Die.setSlice, Sparse.get_set]

/-- A core after a core has been replaced. -/
theorem State.core_setCore (s : State) (n m : Nat) (x : Core) : (s.setCore n x).core m = if n = m then x else s.core m := by
  unfold State.core State.setCore
  rw [State.die_updDie]
  by_cases hd : n / 16 = m / 16
  · rw [if_pos hd, Die.core_setCore]
    by_cases hc : n % 16 = m % 16
    · have : n = m := by omega
      subst this; simp
    · have : n ≠ m := fun h => hc (by rw [h])
      simp [hc, this, hd]
  · have : n ≠ m := fun h => hd (by rw [h])
    simp [hd, this]

@[simp] theorem State.core_setCore_same (s : State) (n : Nat) (x : Core) : (s.setCore n x).core n = x := by simp [State.core_setCore]

theorem State.core_updCore (s : State) (n m : Nat) (f : Core → Core) : (s.updCore n f).core m = if n = m then f (s.core n) else s.core m := by
  simp [State.updCore, State.core_setCore]

/-- The job of a core after a job has been placed. -/
theorem State.job_setJob (s : State) (n m : Nat) (j : Job) : (s.setJob n j).job? m = if n = m then some j else s.job? m := by
  unfold State.job? State.setJob
  rw [State.core_updCore]
  split <;> simp_all

@[simp] theorem State.job_setJob_same (s : State) (n : Nat) (j : Job) : (s.setJob n j).job? n = some j := by simp [State.job_setJob]

@[simp] theorem State.job_setJob_other (s : State) (n m : Nat) (j : Job) (h : n ≠ m) : (s.setJob n j).job? m = s.job? m := by
  simp [State.job_setJob, h]

/-- The job of a core after a job has been changed. -/
theorem State.job_updJob (s : State) (n m : Nat) (f : Job → Job) : (s.updJob n f).job? m = if n = m then (s.job? n).map f else s.job? m := by
  unfold State.updJob
  split
  · rename_i j hj; rw [State.job_setJob]; simp [hj]
  · rename_i hj
    split
    · subst_vars; simp [hj]
    · rfl

@[simp] theorem State.updJob_setJob (s : State) (n : Nat) (j : Job) (f : Job → Job) :
    (s.setJob n j).updJob n f = (s.setJob n j).setJob n (f j) := by
  simp [State.updJob]

@[simp] theorem State.setDie_setDie (s : State) (d : Nat) (x y : Die) : (s.setDie d x).setDie d y = s.setDie d y := by
  simp [State.setDie]

@[simp] theorem Die.setCore_setCore (x : Die) (c : Nat) (y z : Core) : (x.setCore c y).setCore c z = x.setCore c z := by
  simp [Die.setCore]

@[simp] theorem State.setCore_setCore (s : State) (n : Nat) (x y : Core) : (s.setCore n x).setCore n y = s.setCore n y := by
  simp [State.setCore, State.updDie]

/-- A second job placed on a core replaces the first. -/
@[simp] theorem State.setJob_setJob (s : State) (n : Nat) (j k : Job) : (s.setJob n j).setJob n k = s.setJob n k := by
  simp [State.setJob, State.updCore]

/-- Changing a job that is known. -/
theorem State.updJob_of_job (s : State) (n : Nat) (j : Job) (h : s.job? n = some j) (f : Job → Job) : s.updJob n f = s.setJob n (f j) := by
  simp [State.updJob, h]

/-- Changing a die outside its cores leaves every core as it was. -/
theorem State.core_updDie_cores (s : State) (d n : Nat) (f : Die → Die) (h : ∀ x, (f x).cores = x.cores) : (s.updDie d f).core n = s.core n := by
  unfold State.core
  rw [State.die_updDie]
  split
  · subst_vars; unfold Die.core; rw [h]
  · rfl

theorem State.job_updDie_cores (s : State) (d n : Nat) (f : Die → Die) (h : ∀ x, (f x).cores = x.cores) :
    (s.updDie d f).job? n = s.job? n := by unfold State.job?; rw [State.core_updDie_cores _ _ _ _ h]

/-- A slice after a slice has been replaced. -/
theorem State.slice_setSlice (s : State) (d i e k : Nat) (x : Slice) :
    (s.setSlice d i x).slice e k = if d = e ∧ i = k then x else s.slice e k := by
  unfold State.slice State.setSlice
  rw [State.die_updDie]
  by_cases hd : d = e
  · subst hd; simp [Die.slice_setSlice]
  · simp [hd]

theorem State.slice_updSlice (s : State) (d i e k : Nat) (f : Slice → Slice) :
    (s.updSlice d i f).slice e k = if d = e ∧ i = k then f (s.slice d i) else s.slice e k := by
  simp [State.updSlice, State.slice_setSlice]

/-- Placing a job changes nothing else of the core. -/
theorem State.core_setJob (s : State) (n m : Nat) (j : Job) :
    (s.setJob n j).core m = if n = m then { s.core m with job := some j } else s.core m := by
  unfold State.setJob
  rw [State.core_updCore]
  split
  · subst_vars; rfl
  · rfl

/-- A die after one of its cores has been replaced: its other parts are as they were. -/
theorem State.die_setCore (s : State) (n e : Nat) (x : Core) :
    (s.setCore n x).die e = if n / 16 = e then (s.die e).setCore (n % 16) x else s.die e := by
  unfold State.setCore
  rw [State.die_updDie]
  split
  · subst_vars; rfl
  · rfl

theorem State.die_setJob (s : State) (n e : Nat) (j : Job) :
    (s.setJob n j).die e = if n / 16 = e then (s.die e).setCore (n % 16) { s.core n with job := some j } else s.die e := by
  unfold State.setJob State.updCore
  rw [State.die_setCore]

@[simp] theorem State.slice_setJob (s : State) (n : Nat) (j : Job) (d i : Nat) : (s.setJob n j).slice d i = s.slice d i := by
  unfold State.slice
  rw [State.die_setJob]
  split <;> rfl

@[simp] theorem State.slice_updJob (s : State) (n : Nat) (f : Job → Job) (d i : Nat) : (s.updJob n f).slice d i = s.slice d i := by
  unfold State.updJob
  split
  · exact State.slice_setJob ..
  · rfl

/-! Control blocks and what is kept beside them -/

theorem State.extra_setExtra (s : State) (n m : Nat) (x : CtxExtra) : (s.setExtra n x).extra m = if n = m then x else s.extra m := by
  simp [State.extra, State.setExtra, Sparse.get_set]

theorem State.extra_updExtra (s : State) (n m : Nat) (f : CtxExtra → CtxExtra) :
    (s.updExtra n f).extra m = if n = m then f (s.extra n) else s.extra m := by
  simp [State.updExtra, State.extra_setExtra]

theorem State.block_setBlk (s : State) (n m off v : Nat) :
    (s.setBlk n off v).block m = if n = m then Sparse.set (0 : Word) (s.block n) (off / 8) (BitVec.ofNat 64 v) else s.block m := by
  simp [State.block, State.setBlk, Sparse.get_set]

/-- A field of a control block after a field has been written. -/
theorem State.blk_setBlk (s : State) (n m off at_ v : Nat) :
    (s.setBlk n off v).blk m at_ = if n = m ∧ off / 8 = at_ / 8 then v % 2 ^ 64 else s.blk m at_ := by
  unfold State.blk
  rw [State.block_setBlk]
  by_cases h : n = m
  · subst h
    by_cases ho : off / 8 = at_ / 8
    · simp [ho]
    · simp [ho]
  · simp [h]

/-! Memory -/

@[simp] theorem State.byte_writePa (s : State) (pa : Nat) (bs : List Byte) (a : Nat) :
    (s.writePa pa bs).byte a = if pa ≤ a ∧ a < pa + bs.length then bs.getD (a - pa) 0 else s.byte a := by
  simp [State.byte, State.writePa, Sparse.get_blit]

@[simp] theorem State.readPa_writePa (s : State) (pa : Nat) (bs : List Byte) : (s.writePa pa bs).readPa pa bs.length = bs := by
  simp [State.readPa, State.writePa, Sparse.read_blit]

/-- Equal memories read alike. -/
theorem State.byte_congr (s t : State) (h : t.mem = s.mem) (a : Nat) : t.byte a = s.byte a := by simp [State.byte, h]

/-! Registers of a job -/

theorem Job.rs_ws (j : Job) (r k : Nat) (v : Word) : (j.ws r v).rs k = if r = k ∧ r ≠ 0 then v else j.rs k := by
  unfold Job.rs Job.ws
  by_cases hr : r = 0
  · subst hr; simp
  · by_cases hk : k = 0
    · subst hk; simp [hr]
    · simp [hr, hk, Sparse.get_set]

@[simp] theorem Job.rs_zero (j : Job) : j.rs 0 = 0 := rfl
@[simp] theorem Job.rp_zero (j : Job) : j.rp 0 = true := rfl

theorem Job.rp_wp (j : Job) (r k : Nat) (v : Bool) : (j.wp r v).rp k = if r = k ∧ r ≠ 0 then v else j.rp k := by
  unfold Job.rp Job.wp
  by_cases hr : r = 0
  · subst hr; simp
  · by_cases hk : k = 0
    · subst hk; simp [hr]
    · simp [hr, hk, Sparse.get_set]

theorem Job.rl_wl (j : Job) (n k v : Nat) : (j.wl n v).rl k = if n = k then v else j.rl k := by
  simp [Job.rl, Job.wl, Sparse.get_set]

theorem Job.level_setLevel (j : Job) (n k : Nat) (x : Level) : (j.setLevel n x).level k = if n = k then x else j.level k := by
  simp [Job.level, Job.setLevel, Sparse.get_set]

theorem Job.stream_setStream (j : Job) (a b : Sel) (x : Stream) : (j.setStream a x).stream b = if a = b then x else j.stream b := by
  cases a <;> cases b <;> rfl

/-! Fields of a job after an update of another -/

@[simp] theorem Job.ws_ctx (j : Job) (r : Nat) (v : Word) : (j.ws r v).ctx = j.ctx := by
  unfold Job.ws; split <;> rfl
@[simp] theorem Job.ws_gidx (j : Job) (r : Nat) (v : Word) : (j.ws r v).gidx = j.gidx := by
  unfold Job.ws; split <;> rfl
@[simp] theorem Job.ws_gsize (j : Job) (r : Nat) (v : Word) : (j.ws r v).gsize = j.gsize := by
  unfold Job.ws; split <;> rfl
@[simp] theorem Job.ws_ndie (j : Job) (r : Nat) (v : Word) : (j.ws r v).ndie = j.ndie := by
  unfold Job.ws; split <;> rfl
@[simp] theorem Job.ws_child (j : Job) (r : Nat) (v : Word) : (j.ws r v).child = j.child := by
  unfold Job.ws; split <;> rfl
@[simp] theorem Job.ws_core (j : Job) (r : Nat) (v : Word) : (j.ws r v).core = j.core := by
  unfold Job.ws; split <;> rfl
@[simp] theorem Job.ws_page (j : Job) (r : Nat) (v : Word) : (j.ws r v).page = j.page := by
  unfold Job.ws; split <;> rfl
@[simp] theorem Job.ws_wid (j : Job) (r : Nat) (v : Word) : (j.ws r v).wid = j.wid := by
  unfold Job.ws; split <;> rfl
@[simp] theorem Job.ws_conf (j : Job) (r : Nat) (v : Word) : (j.ws r v).conf = j.conf := by
  unfold Job.ws; split <;> rfl
@[simp] theorem Job.ws_set (j : Job) (r : Nat) (v : Word) : (j.ws r v).set = j.set := by
  unfold Job.ws; split <;> rfl
@[simp] theorem Job.ws_handS (j : Job) (r : Nat) (v : Word) : (j.ws r v).handS = j.handS := by
  unfold Job.ws; split <;> rfl
@[simp] theorem Job.ws_handM (j : Job) (r : Nat) (v : Word) : (j.ws r v).handM = j.handM := by
  unfold Job.ws; split <;> rfl
@[simp] theorem Job.ws_p (j : Job) (r : Nat) (v : Word) : (j.ws r v).p = j.p := by
  unfold Job.ws; split <;> rfl
@[simp] theorem Job.ws_l (j : Job) (r : Nat) (v : Word) : (j.ws r v).l = j.l := by
  unfold Job.ws; split <;> rfl
@[simp] theorem Job.ws_spend (j : Job) (r : Nat) (v : Word) : (j.ws r v).spend = j.spend := by
  unfold Job.ws; split <;> rfl
@[simp] theorem Job.ws_ppend (j : Job) (r : Nat) (v : Word) : (j.ws r v).ppend = j.ppend := by
  unfold Job.ws; split <;> rfl
@[simp] theorem Job.ws_levels (j : Job) (r : Nat) (v : Word) : (j.ws r v).levels = j.levels := by
  unfold Job.ws; split <;> rfl
@[simp] theorem Job.ws_loops (j : Job) (r : Nat) (v : Word) : (j.ws r v).loops = j.loops := by
  unfold Job.ws; split <;> rfl
@[simp] theorem Job.ws_v (j : Job) (r : Nat) (v : Word) : (j.ws r v).v = j.v := by
  unfold Job.ws; split <;> rfl
@[simp] theorem Job.ws_k (j : Job) (r : Nat) (v : Word) : (j.ws r v).k = j.k := by
  unfold Job.ws; split <;> rfl
@[simp] theorem Job.ws_b (j : Job) (r : Nat) (v : Word) : (j.ws r v).b = j.b := by
  unfold Job.ws; split <;> rfl
@[simp] theorem Job.ws_repValid (j : Job) (r : Nat) (v : Word) : (j.ws r v).repValid = j.repValid := by
  unfold Job.ws; split <;> rfl
@[simp] theorem Job.ws_repDone (j : Job) (r : Nat) (v : Word) : (j.ws r v).repDone = j.repDone := by
  unfold Job.ws; split <;> rfl
@[simp] theorem Job.ws_repLeft (j : Job) (r : Nat) (v : Word) : (j.ws r v).repLeft = j.repLeft := by
  unfold Job.ws; split <;> rfl
@[simp] theorem Job.ws_tiles (j : Job) (r : Nat) (v : Word) : (j.ws r v).tiles = j.tiles := by
  unfold Job.ws; split <;> rfl
@[simp] theorem Job.ws_accs (j : Job) (r : Nat) (v : Word) : (j.ws r v).accs = j.accs := by
  unfold Job.ws; split <;> rfl
@[simp] theorem Job.ws_rings (j : Job) (r : Nat) (v : Word) : (j.ws r v).rings = j.rings := by
  unfold Job.ws; split <;> rfl
@[simp] theorem Job.ws_binds (j : Job) (r : Nat) (v : Word) : (j.ws r v).binds = j.binds := by
  unfold Job.ws; split <;> rfl
@[simp] theorem Job.ws_mqueue (j : Job) (r : Nat) (v : Word) : (j.ws r v).mqueue = j.mqueue := by
  unfold Job.ws; split <;> rfl
@[simp] theorem Job.ws_ccmd (j : Job) (r : Nat) (v : Word) : (j.ws r v).ccmd = j.ccmd := by
  unfold Job.ws; split <;> rfl
@[simp] theorem Job.ws_fpstat (j : Job) (r : Nat) (v : Word) : (j.ws r v).fpstat = j.fpstat := by
  unfold Job.ws; split <;> rfl
@[simp] theorem Job.ws_fpen (j : Job) (r : Nat) (v : Word) : (j.ws r v).fpen = j.fpen := by
  unfold Job.ws; split <;> rfl
@[simp] theorem Job.ws_srseed (j : Job) (r : Nat) (v : Word) : (j.ws r v).srseed = j.srseed := by
  unfold Job.ws; split <;> rfl
@[simp] theorem Job.ws_srcntv (j : Job) (r : Nat) (v : Word) : (j.ws r v).srcntv = j.srcntv := by
  unfold Job.ws; split <;> rfl
@[simp] theorem Job.ws_srcntm (j : Job) (r : Nat) (v : Word) : (j.ws r v).srcntm = j.srcntm := by
  unfold Job.ws; split <;> rfl
@[simp] theorem Job.ws_srcntc (j : Job) (r : Nat) (v : Word) : (j.ws r v).srcntc = j.srcntc := by
  unfold Job.ws; split <;> rfl
@[simp] theorem Job.ws_trap (j : Job) (r : Nat) (v : Word) : (j.ws r v).trap = j.trap := by
  unfold Job.ws; split <;> rfl
@[simp] theorem Job.ws_hmode (j : Job) (r : Nat) (v : Word) : (j.ws r v).hmode = j.hmode := by
  unfold Job.ws; split <;> rfl
@[simp] theorem Job.ws_nest (j : Job) (r : Nat) (v : Word) : (j.ws r v).nest = j.nest := by
  unfold Job.ws; split <;> rfl
@[simp] theorem Job.ws_skip (j : Job) (r : Nat) (v : Word) : (j.ws r v).skip = j.skip := by
  unfold Job.ws; split <;> rfl
@[simp] theorem Job.ws_swapped (j : Job) (r : Nat) (v : Word) : (j.ws r v).swapped = j.swapped := by
  unfold Job.ws; split <;> rfl
@[simp] theorem Job.ws_rets (j : Job) (r : Nat) (v : Word) : (j.ws r v).rets = j.rets := by
  unfold Job.ws; split <;> rfl
@[simp] theorem Job.ws_heldv (j : Job) (r : Nat) (v : Word) : (j.ws r v).heldv = j.heldv := by
  unfold Job.ws; split <;> rfl
@[simp] theorem Job.ws_heldm (j : Job) (r : Nat) (v : Word) : (j.ws r v).heldm = j.heldm := by
  unfold Job.ws; split <;> rfl
@[simp] theorem Job.ws_heldc (j : Job) (r : Nat) (v : Word) : (j.ws r v).heldc = j.heldc := by
  unfold Job.ws; split <;> rfl
@[simp] theorem Job.ws_areaPending (j : Job) (r : Nat) (v : Word) : (j.ws r v).areaPending = j.areaPending := by
  unfold Job.ws; split <;> rfl
@[simp] theorem Job.ws_msaved (j : Job) (r : Nat) (v : Word) : (j.ws r v).msaved = j.msaved := by
  unfold Job.ws; split <;> rfl
@[simp] theorem Job.ws_imaged (j : Job) (r : Nat) (v : Word) : (j.ws r v).imaged = j.imaged := by
  unfold Job.ws; split <;> rfl
@[simp] theorem Job.ws_streams (j : Job) (r : Nat) (v : Word) : (j.ws r v).streams = j.streams := by
  unfold Job.ws; split <;> rfl
@[simp] theorem Job.ws_hs (j : Job) (r : Nat) (v : Word) : (j.ws r v).hs = j.hs := by
  unfold Job.ws; split <;> rfl
@[simp] theorem Job.ws_hm (j : Job) (r : Nat) (v : Word) : (j.ws r v).hm = j.hm := by
  unfold Job.ws; split <;> rfl
@[simp] theorem Job.ws_prerec (j : Job) (r : Nat) (v : Word) : (j.ws r v).prerec = j.prerec := by
  unfold Job.ws; split <;> rfl
@[simp] theorem Job.ws_loopsave (j : Job) (r : Nat) (v : Word) : (j.ws r v).loopsave = j.loopsave := by
  unfold Job.ws; split <;> rfl
@[simp] theorem Job.ws_mons (j : Job) (r : Nat) (v : Word) : (j.ws r v).mons = j.mons := by
  unfold Job.ws; split <;> rfl
@[simp] theorem Job.ws_perfsel (j : Job) (r : Nat) (v : Word) : (j.ws r v).perfsel = j.perfsel := by
  unfold Job.ws; split <;> rfl
@[simp] theorem Job.ws_perfcnt (j : Job) (r : Nat) (v : Word) : (j.ws r v).perfcnt = j.perfcnt := by
  unfold Job.ws; split <;> rfl
@[simp] theorem Job.ws_pad (j : Job) (r : Nat) (v : Word) : (j.ws r v).pad = j.pad := by
  unfold Job.ws; split <;> rfl
@[simp] theorem Job.ws_ordinal (j : Job) (r : Nat) (v : Word) : (j.ws r v).ordinal = j.ordinal := by
  unfold Job.ws; split <;> rfl
@[simp] theorem Job.ws_drawIdx (j : Job) (r : Nat) (v : Word) : (j.ws r v).drawIdx = j.drawIdx := by
  unfold Job.ws; split <;> rfl
@[simp] theorem Job.ws_rmap (j : Job) (r : Nat) (v : Word) : (j.ws r v).rmap = j.rmap := by
  unfold Job.ws; split <;> rfl
@[simp] theorem Job.ws_swait (j : Job) (r : Nat) (v : Word) : (j.ws r v).swait = j.swait := by
  unfold Job.ws; split <;> rfl
@[simp] theorem Job.ws_waitFrom (j : Job) (r : Nat) (v : Word) : (j.ws r v).waitFrom = j.waitFrom := by
  unfold Job.ws; split <;> rfl
@[simp] theorem Job.ws_preempt (j : Job) (r : Nat) (v : Word) : (j.ws r v).preempt = j.preempt := by
  unfold Job.ws; split <;> rfl
@[simp] theorem Job.ws_rebind (j : Job) (r : Nat) (v : Word) : (j.ws r v).rebind = j.rebind := by
  unfold Job.ws; split <;> rfl
@[simp] theorem Job.ws_stalls (j : Job) (r : Nat) (v : Word) : (j.ws r v).stalls = j.stalls := by
  unfold Job.ws; split <;> rfl
@[simp] theorem Job.ws_frozen (j : Job) (r : Nat) (v : Word) : (j.ws r v).frozen = j.frozen := by
  unfold Job.ws; split <;> rfl

@[simp] theorem Job.wp_ctx (j : Job) (r : Nat) (v : Bool) : (j.wp r v).ctx = j.ctx := by
  unfold Job.wp; split <;> rfl
@[simp] theorem Job.wp_gidx (j : Job) (r : Nat) (v : Bool) : (j.wp r v).gidx = j.gidx := by
  unfold Job.wp; split <;> rfl
@[simp] theorem Job.wp_gsize (j : Job) (r : Nat) (v : Bool) : (j.wp r v).gsize = j.gsize := by
  unfold Job.wp; split <;> rfl
@[simp] theorem Job.wp_ndie (j : Job) (r : Nat) (v : Bool) : (j.wp r v).ndie = j.ndie := by
  unfold Job.wp; split <;> rfl
@[simp] theorem Job.wp_child (j : Job) (r : Nat) (v : Bool) : (j.wp r v).child = j.child := by
  unfold Job.wp; split <;> rfl
@[simp] theorem Job.wp_core (j : Job) (r : Nat) (v : Bool) : (j.wp r v).core = j.core := by
  unfold Job.wp; split <;> rfl
@[simp] theorem Job.wp_page (j : Job) (r : Nat) (v : Bool) : (j.wp r v).page = j.page := by
  unfold Job.wp; split <;> rfl
@[simp] theorem Job.wp_wid (j : Job) (r : Nat) (v : Bool) : (j.wp r v).wid = j.wid := by
  unfold Job.wp; split <;> rfl
@[simp] theorem Job.wp_conf (j : Job) (r : Nat) (v : Bool) : (j.wp r v).conf = j.conf := by
  unfold Job.wp; split <;> rfl
@[simp] theorem Job.wp_set (j : Job) (r : Nat) (v : Bool) : (j.wp r v).set = j.set := by
  unfold Job.wp; split <;> rfl
@[simp] theorem Job.wp_handS (j : Job) (r : Nat) (v : Bool) : (j.wp r v).handS = j.handS := by
  unfold Job.wp; split <;> rfl
@[simp] theorem Job.wp_handM (j : Job) (r : Nat) (v : Bool) : (j.wp r v).handM = j.handM := by
  unfold Job.wp; split <;> rfl
@[simp] theorem Job.wp_s (j : Job) (r : Nat) (v : Bool) : (j.wp r v).s = j.s := by
  unfold Job.wp; split <;> rfl
@[simp] theorem Job.wp_l (j : Job) (r : Nat) (v : Bool) : (j.wp r v).l = j.l := by
  unfold Job.wp; split <;> rfl
@[simp] theorem Job.wp_spend (j : Job) (r : Nat) (v : Bool) : (j.wp r v).spend = j.spend := by
  unfold Job.wp; split <;> rfl
@[simp] theorem Job.wp_ppend (j : Job) (r : Nat) (v : Bool) : (j.wp r v).ppend = j.ppend := by
  unfold Job.wp; split <;> rfl
@[simp] theorem Job.wp_levels (j : Job) (r : Nat) (v : Bool) : (j.wp r v).levels = j.levels := by
  unfold Job.wp; split <;> rfl
@[simp] theorem Job.wp_loops (j : Job) (r : Nat) (v : Bool) : (j.wp r v).loops = j.loops := by
  unfold Job.wp; split <;> rfl
@[simp] theorem Job.wp_v (j : Job) (r : Nat) (v : Bool) : (j.wp r v).v = j.v := by
  unfold Job.wp; split <;> rfl
@[simp] theorem Job.wp_k (j : Job) (r : Nat) (v : Bool) : (j.wp r v).k = j.k := by
  unfold Job.wp; split <;> rfl
@[simp] theorem Job.wp_b (j : Job) (r : Nat) (v : Bool) : (j.wp r v).b = j.b := by
  unfold Job.wp; split <;> rfl
@[simp] theorem Job.wp_repValid (j : Job) (r : Nat) (v : Bool) : (j.wp r v).repValid = j.repValid := by
  unfold Job.wp; split <;> rfl
@[simp] theorem Job.wp_repDone (j : Job) (r : Nat) (v : Bool) : (j.wp r v).repDone = j.repDone := by
  unfold Job.wp; split <;> rfl
@[simp] theorem Job.wp_repLeft (j : Job) (r : Nat) (v : Bool) : (j.wp r v).repLeft = j.repLeft := by
  unfold Job.wp; split <;> rfl
@[simp] theorem Job.wp_tiles (j : Job) (r : Nat) (v : Bool) : (j.wp r v).tiles = j.tiles := by
  unfold Job.wp; split <;> rfl
@[simp] theorem Job.wp_accs (j : Job) (r : Nat) (v : Bool) : (j.wp r v).accs = j.accs := by
  unfold Job.wp; split <;> rfl
@[simp] theorem Job.wp_rings (j : Job) (r : Nat) (v : Bool) : (j.wp r v).rings = j.rings := by
  unfold Job.wp; split <;> rfl
@[simp] theorem Job.wp_binds (j : Job) (r : Nat) (v : Bool) : (j.wp r v).binds = j.binds := by
  unfold Job.wp; split <;> rfl
@[simp] theorem Job.wp_mqueue (j : Job) (r : Nat) (v : Bool) : (j.wp r v).mqueue = j.mqueue := by
  unfold Job.wp; split <;> rfl
@[simp] theorem Job.wp_ccmd (j : Job) (r : Nat) (v : Bool) : (j.wp r v).ccmd = j.ccmd := by
  unfold Job.wp; split <;> rfl
@[simp] theorem Job.wp_fpstat (j : Job) (r : Nat) (v : Bool) : (j.wp r v).fpstat = j.fpstat := by
  unfold Job.wp; split <;> rfl
@[simp] theorem Job.wp_fpen (j : Job) (r : Nat) (v : Bool) : (j.wp r v).fpen = j.fpen := by
  unfold Job.wp; split <;> rfl
@[simp] theorem Job.wp_srseed (j : Job) (r : Nat) (v : Bool) : (j.wp r v).srseed = j.srseed := by
  unfold Job.wp; split <;> rfl
@[simp] theorem Job.wp_srcntv (j : Job) (r : Nat) (v : Bool) : (j.wp r v).srcntv = j.srcntv := by
  unfold Job.wp; split <;> rfl
@[simp] theorem Job.wp_srcntm (j : Job) (r : Nat) (v : Bool) : (j.wp r v).srcntm = j.srcntm := by
  unfold Job.wp; split <;> rfl
@[simp] theorem Job.wp_srcntc (j : Job) (r : Nat) (v : Bool) : (j.wp r v).srcntc = j.srcntc := by
  unfold Job.wp; split <;> rfl
@[simp] theorem Job.wp_trap (j : Job) (r : Nat) (v : Bool) : (j.wp r v).trap = j.trap := by
  unfold Job.wp; split <;> rfl
@[simp] theorem Job.wp_hmode (j : Job) (r : Nat) (v : Bool) : (j.wp r v).hmode = j.hmode := by
  unfold Job.wp; split <;> rfl
@[simp] theorem Job.wp_nest (j : Job) (r : Nat) (v : Bool) : (j.wp r v).nest = j.nest := by
  unfold Job.wp; split <;> rfl
@[simp] theorem Job.wp_skip (j : Job) (r : Nat) (v : Bool) : (j.wp r v).skip = j.skip := by
  unfold Job.wp; split <;> rfl
@[simp] theorem Job.wp_swapped (j : Job) (r : Nat) (v : Bool) : (j.wp r v).swapped = j.swapped := by
  unfold Job.wp; split <;> rfl
@[simp] theorem Job.wp_rets (j : Job) (r : Nat) (v : Bool) : (j.wp r v).rets = j.rets := by
  unfold Job.wp; split <;> rfl
@[simp] theorem Job.wp_heldv (j : Job) (r : Nat) (v : Bool) : (j.wp r v).heldv = j.heldv := by
  unfold Job.wp; split <;> rfl
@[simp] theorem Job.wp_heldm (j : Job) (r : Nat) (v : Bool) : (j.wp r v).heldm = j.heldm := by
  unfold Job.wp; split <;> rfl
@[simp] theorem Job.wp_heldc (j : Job) (r : Nat) (v : Bool) : (j.wp r v).heldc = j.heldc := by
  unfold Job.wp; split <;> rfl
@[simp] theorem Job.wp_areaPending (j : Job) (r : Nat) (v : Bool) : (j.wp r v).areaPending = j.areaPending := by
  unfold Job.wp; split <;> rfl
@[simp] theorem Job.wp_msaved (j : Job) (r : Nat) (v : Bool) : (j.wp r v).msaved = j.msaved := by
  unfold Job.wp; split <;> rfl
@[simp] theorem Job.wp_imaged (j : Job) (r : Nat) (v : Bool) : (j.wp r v).imaged = j.imaged := by
  unfold Job.wp; split <;> rfl
@[simp] theorem Job.wp_streams (j : Job) (r : Nat) (v : Bool) : (j.wp r v).streams = j.streams := by
  unfold Job.wp; split <;> rfl
@[simp] theorem Job.wp_hs (j : Job) (r : Nat) (v : Bool) : (j.wp r v).hs = j.hs := by
  unfold Job.wp; split <;> rfl
@[simp] theorem Job.wp_hm (j : Job) (r : Nat) (v : Bool) : (j.wp r v).hm = j.hm := by
  unfold Job.wp; split <;> rfl
@[simp] theorem Job.wp_prerec (j : Job) (r : Nat) (v : Bool) : (j.wp r v).prerec = j.prerec := by
  unfold Job.wp; split <;> rfl
@[simp] theorem Job.wp_loopsave (j : Job) (r : Nat) (v : Bool) : (j.wp r v).loopsave = j.loopsave := by
  unfold Job.wp; split <;> rfl
@[simp] theorem Job.wp_mons (j : Job) (r : Nat) (v : Bool) : (j.wp r v).mons = j.mons := by
  unfold Job.wp; split <;> rfl
@[simp] theorem Job.wp_perfsel (j : Job) (r : Nat) (v : Bool) : (j.wp r v).perfsel = j.perfsel := by
  unfold Job.wp; split <;> rfl
@[simp] theorem Job.wp_perfcnt (j : Job) (r : Nat) (v : Bool) : (j.wp r v).perfcnt = j.perfcnt := by
  unfold Job.wp; split <;> rfl
@[simp] theorem Job.wp_pad (j : Job) (r : Nat) (v : Bool) : (j.wp r v).pad = j.pad := by
  unfold Job.wp; split <;> rfl
@[simp] theorem Job.wp_ordinal (j : Job) (r : Nat) (v : Bool) : (j.wp r v).ordinal = j.ordinal := by
  unfold Job.wp; split <;> rfl
@[simp] theorem Job.wp_drawIdx (j : Job) (r : Nat) (v : Bool) : (j.wp r v).drawIdx = j.drawIdx := by
  unfold Job.wp; split <;> rfl
@[simp] theorem Job.wp_rmap (j : Job) (r : Nat) (v : Bool) : (j.wp r v).rmap = j.rmap := by
  unfold Job.wp; split <;> rfl
@[simp] theorem Job.wp_swait (j : Job) (r : Nat) (v : Bool) : (j.wp r v).swait = j.swait := by
  unfold Job.wp; split <;> rfl
@[simp] theorem Job.wp_waitFrom (j : Job) (r : Nat) (v : Bool) : (j.wp r v).waitFrom = j.waitFrom := by
  unfold Job.wp; split <;> rfl
@[simp] theorem Job.wp_preempt (j : Job) (r : Nat) (v : Bool) : (j.wp r v).preempt = j.preempt := by
  unfold Job.wp; split <;> rfl
@[simp] theorem Job.wp_rebind (j : Job) (r : Nat) (v : Bool) : (j.wp r v).rebind = j.rebind := by
  unfold Job.wp; split <;> rfl
@[simp] theorem Job.wp_stalls (j : Job) (r : Nat) (v : Bool) : (j.wp r v).stalls = j.stalls := by
  unfold Job.wp; split <;> rfl
@[simp] theorem Job.wp_frozen (j : Job) (r : Nat) (v : Bool) : (j.wp r v).frozen = j.frozen := by
  unfold Job.wp; split <;> rfl

@[simp] theorem Job.wl_ctx (j : Job) (n v : Nat) : (j.wl n v).ctx = j.ctx := rfl
@[simp] theorem Job.wl_gidx (j : Job) (n v : Nat) : (j.wl n v).gidx = j.gidx := rfl
@[simp] theorem Job.wl_gsize (j : Job) (n v : Nat) : (j.wl n v).gsize = j.gsize := rfl
@[simp] theorem Job.wl_ndie (j : Job) (n v : Nat) : (j.wl n v).ndie = j.ndie := rfl
@[simp] theorem Job.wl_child (j : Job) (n v : Nat) : (j.wl n v).child = j.child := rfl
@[simp] theorem Job.wl_core (j : Job) (n v : Nat) : (j.wl n v).core = j.core := rfl
@[simp] theorem Job.wl_page (j : Job) (n v : Nat) : (j.wl n v).page = j.page := rfl
@[simp] theorem Job.wl_wid (j : Job) (n v : Nat) : (j.wl n v).wid = j.wid := rfl
@[simp] theorem Job.wl_conf (j : Job) (n v : Nat) : (j.wl n v).conf = j.conf := rfl
@[simp] theorem Job.wl_set (j : Job) (n v : Nat) : (j.wl n v).set = j.set := rfl
@[simp] theorem Job.wl_handS (j : Job) (n v : Nat) : (j.wl n v).handS = j.handS := rfl
@[simp] theorem Job.wl_handM (j : Job) (n v : Nat) : (j.wl n v).handM = j.handM := rfl
@[simp] theorem Job.wl_s (j : Job) (n v : Nat) : (j.wl n v).s = j.s := rfl
@[simp] theorem Job.wl_p (j : Job) (n v : Nat) : (j.wl n v).p = j.p := rfl
@[simp] theorem Job.wl_spend (j : Job) (n v : Nat) : (j.wl n v).spend = j.spend := rfl
@[simp] theorem Job.wl_ppend (j : Job) (n v : Nat) : (j.wl n v).ppend = j.ppend := rfl
@[simp] theorem Job.wl_levels (j : Job) (n v : Nat) : (j.wl n v).levels = j.levels := rfl
@[simp] theorem Job.wl_loops (j : Job) (n v : Nat) : (j.wl n v).loops = j.loops := rfl
@[simp] theorem Job.wl_v (j : Job) (n v : Nat) : (j.wl n v).v = j.v := rfl
@[simp] theorem Job.wl_k (j : Job) (n v : Nat) : (j.wl n v).k = j.k := rfl
@[simp] theorem Job.wl_b (j : Job) (n v : Nat) : (j.wl n v).b = j.b := rfl
@[simp] theorem Job.wl_repValid (j : Job) (n v : Nat) : (j.wl n v).repValid = j.repValid := rfl
@[simp] theorem Job.wl_repDone (j : Job) (n v : Nat) : (j.wl n v).repDone = j.repDone := rfl
@[simp] theorem Job.wl_repLeft (j : Job) (n v : Nat) : (j.wl n v).repLeft = j.repLeft := rfl
@[simp] theorem Job.wl_tiles (j : Job) (n v : Nat) : (j.wl n v).tiles = j.tiles := rfl
@[simp] theorem Job.wl_accs (j : Job) (n v : Nat) : (j.wl n v).accs = j.accs := rfl
@[simp] theorem Job.wl_rings (j : Job) (n v : Nat) : (j.wl n v).rings = j.rings := rfl
@[simp] theorem Job.wl_binds (j : Job) (n v : Nat) : (j.wl n v).binds = j.binds := rfl
@[simp] theorem Job.wl_mqueue (j : Job) (n v : Nat) : (j.wl n v).mqueue = j.mqueue := rfl
@[simp] theorem Job.wl_ccmd (j : Job) (n v : Nat) : (j.wl n v).ccmd = j.ccmd := rfl
@[simp] theorem Job.wl_fpstat (j : Job) (n v : Nat) : (j.wl n v).fpstat = j.fpstat := rfl
@[simp] theorem Job.wl_fpen (j : Job) (n v : Nat) : (j.wl n v).fpen = j.fpen := rfl
@[simp] theorem Job.wl_srseed (j : Job) (n v : Nat) : (j.wl n v).srseed = j.srseed := rfl
@[simp] theorem Job.wl_srcntv (j : Job) (n v : Nat) : (j.wl n v).srcntv = j.srcntv := rfl
@[simp] theorem Job.wl_srcntm (j : Job) (n v : Nat) : (j.wl n v).srcntm = j.srcntm := rfl
@[simp] theorem Job.wl_srcntc (j : Job) (n v : Nat) : (j.wl n v).srcntc = j.srcntc := rfl
@[simp] theorem Job.wl_trap (j : Job) (n v : Nat) : (j.wl n v).trap = j.trap := rfl
@[simp] theorem Job.wl_hmode (j : Job) (n v : Nat) : (j.wl n v).hmode = j.hmode := rfl
@[simp] theorem Job.wl_nest (j : Job) (n v : Nat) : (j.wl n v).nest = j.nest := rfl
@[simp] theorem Job.wl_skip (j : Job) (n v : Nat) : (j.wl n v).skip = j.skip := rfl
@[simp] theorem Job.wl_swapped (j : Job) (n v : Nat) : (j.wl n v).swapped = j.swapped := rfl
@[simp] theorem Job.wl_rets (j : Job) (n v : Nat) : (j.wl n v).rets = j.rets := rfl
@[simp] theorem Job.wl_heldv (j : Job) (n v : Nat) : (j.wl n v).heldv = j.heldv := rfl
@[simp] theorem Job.wl_heldm (j : Job) (n v : Nat) : (j.wl n v).heldm = j.heldm := rfl
@[simp] theorem Job.wl_heldc (j : Job) (n v : Nat) : (j.wl n v).heldc = j.heldc := rfl
@[simp] theorem Job.wl_areaPending (j : Job) (n v : Nat) : (j.wl n v).areaPending = j.areaPending := rfl
@[simp] theorem Job.wl_msaved (j : Job) (n v : Nat) : (j.wl n v).msaved = j.msaved := rfl
@[simp] theorem Job.wl_imaged (j : Job) (n v : Nat) : (j.wl n v).imaged = j.imaged := rfl
@[simp] theorem Job.wl_streams (j : Job) (n v : Nat) : (j.wl n v).streams = j.streams := rfl
@[simp] theorem Job.wl_hs (j : Job) (n v : Nat) : (j.wl n v).hs = j.hs := rfl
@[simp] theorem Job.wl_hm (j : Job) (n v : Nat) : (j.wl n v).hm = j.hm := rfl
@[simp] theorem Job.wl_prerec (j : Job) (n v : Nat) : (j.wl n v).prerec = j.prerec := rfl
@[simp] theorem Job.wl_loopsave (j : Job) (n v : Nat) : (j.wl n v).loopsave = j.loopsave := rfl
@[simp] theorem Job.wl_mons (j : Job) (n v : Nat) : (j.wl n v).mons = j.mons := rfl
@[simp] theorem Job.wl_perfsel (j : Job) (n v : Nat) : (j.wl n v).perfsel = j.perfsel := rfl
@[simp] theorem Job.wl_perfcnt (j : Job) (n v : Nat) : (j.wl n v).perfcnt = j.perfcnt := rfl
@[simp] theorem Job.wl_pad (j : Job) (n v : Nat) : (j.wl n v).pad = j.pad := rfl
@[simp] theorem Job.wl_ordinal (j : Job) (n v : Nat) : (j.wl n v).ordinal = j.ordinal := rfl
@[simp] theorem Job.wl_drawIdx (j : Job) (n v : Nat) : (j.wl n v).drawIdx = j.drawIdx := rfl
@[simp] theorem Job.wl_rmap (j : Job) (n v : Nat) : (j.wl n v).rmap = j.rmap := rfl
@[simp] theorem Job.wl_swait (j : Job) (n v : Nat) : (j.wl n v).swait = j.swait := rfl
@[simp] theorem Job.wl_waitFrom (j : Job) (n v : Nat) : (j.wl n v).waitFrom = j.waitFrom := rfl
@[simp] theorem Job.wl_preempt (j : Job) (n v : Nat) : (j.wl n v).preempt = j.preempt := rfl
@[simp] theorem Job.wl_rebind (j : Job) (n v : Nat) : (j.wl n v).rebind = j.rebind := rfl
@[simp] theorem Job.wl_stalls (j : Job) (n v : Nat) : (j.wl n v).stalls = j.stalls := rfl
@[simp] theorem Job.wl_frozen (j : Job) (n v : Nat) : (j.wl n v).frozen = j.frozen := rfl

@[simp] theorem Job.setPendS_ctx (j : Job) (r : Nat) (v : Bool) : (j.setPendS r v).ctx = j.ctx := by
  unfold Job.setPendS; split <;> rfl
@[simp] theorem Job.setPendS_gidx (j : Job) (r : Nat) (v : Bool) : (j.setPendS r v).gidx = j.gidx := by
  unfold Job.setPendS; split <;> rfl
@[simp] theorem Job.setPendS_gsize (j : Job) (r : Nat) (v : Bool) : (j.setPendS r v).gsize = j.gsize := by
  unfold Job.setPendS; split <;> rfl
@[simp] theorem Job.setPendS_ndie (j : Job) (r : Nat) (v : Bool) : (j.setPendS r v).ndie = j.ndie := by
  unfold Job.setPendS; split <;> rfl
@[simp] theorem Job.setPendS_child (j : Job) (r : Nat) (v : Bool) : (j.setPendS r v).child = j.child := by
  unfold Job.setPendS; split <;> rfl
@[simp] theorem Job.setPendS_core (j : Job) (r : Nat) (v : Bool) : (j.setPendS r v).core = j.core := by
  unfold Job.setPendS; split <;> rfl
@[simp] theorem Job.setPendS_page (j : Job) (r : Nat) (v : Bool) : (j.setPendS r v).page = j.page := by
  unfold Job.setPendS; split <;> rfl
@[simp] theorem Job.setPendS_wid (j : Job) (r : Nat) (v : Bool) : (j.setPendS r v).wid = j.wid := by
  unfold Job.setPendS; split <;> rfl
@[simp] theorem Job.setPendS_conf (j : Job) (r : Nat) (v : Bool) : (j.setPendS r v).conf = j.conf := by
  unfold Job.setPendS; split <;> rfl
@[simp] theorem Job.setPendS_set (j : Job) (r : Nat) (v : Bool) : (j.setPendS r v).set = j.set := by
  unfold Job.setPendS; split <;> rfl
@[simp] theorem Job.setPendS_handS (j : Job) (r : Nat) (v : Bool) : (j.setPendS r v).handS = j.handS := by
  unfold Job.setPendS; split <;> rfl
@[simp] theorem Job.setPendS_handM (j : Job) (r : Nat) (v : Bool) : (j.setPendS r v).handM = j.handM := by
  unfold Job.setPendS; split <;> rfl
@[simp] theorem Job.setPendS_s (j : Job) (r : Nat) (v : Bool) : (j.setPendS r v).s = j.s := by
  unfold Job.setPendS; split <;> rfl
@[simp] theorem Job.setPendS_p (j : Job) (r : Nat) (v : Bool) : (j.setPendS r v).p = j.p := by
  unfold Job.setPendS; split <;> rfl
@[simp] theorem Job.setPendS_l (j : Job) (r : Nat) (v : Bool) : (j.setPendS r v).l = j.l := by
  unfold Job.setPendS; split <;> rfl
@[simp] theorem Job.setPendS_ppend (j : Job) (r : Nat) (v : Bool) : (j.setPendS r v).ppend = j.ppend := by
  unfold Job.setPendS; split <;> rfl
@[simp] theorem Job.setPendS_levels (j : Job) (r : Nat) (v : Bool) : (j.setPendS r v).levels = j.levels := by
  unfold Job.setPendS; split <;> rfl
@[simp] theorem Job.setPendS_loops (j : Job) (r : Nat) (v : Bool) : (j.setPendS r v).loops = j.loops := by
  unfold Job.setPendS; split <;> rfl
@[simp] theorem Job.setPendS_v (j : Job) (r : Nat) (v : Bool) : (j.setPendS r v).v = j.v := by
  unfold Job.setPendS; split <;> rfl
@[simp] theorem Job.setPendS_k (j : Job) (r : Nat) (v : Bool) : (j.setPendS r v).k = j.k := by
  unfold Job.setPendS; split <;> rfl
@[simp] theorem Job.setPendS_b (j : Job) (r : Nat) (v : Bool) : (j.setPendS r v).b = j.b := by
  unfold Job.setPendS; split <;> rfl
@[simp] theorem Job.setPendS_repValid (j : Job) (r : Nat) (v : Bool) : (j.setPendS r v).repValid = j.repValid := by
  unfold Job.setPendS; split <;> rfl
@[simp] theorem Job.setPendS_repDone (j : Job) (r : Nat) (v : Bool) : (j.setPendS r v).repDone = j.repDone := by
  unfold Job.setPendS; split <;> rfl
@[simp] theorem Job.setPendS_repLeft (j : Job) (r : Nat) (v : Bool) : (j.setPendS r v).repLeft = j.repLeft := by
  unfold Job.setPendS; split <;> rfl
@[simp] theorem Job.setPendS_tiles (j : Job) (r : Nat) (v : Bool) : (j.setPendS r v).tiles = j.tiles := by
  unfold Job.setPendS; split <;> rfl
@[simp] theorem Job.setPendS_accs (j : Job) (r : Nat) (v : Bool) : (j.setPendS r v).accs = j.accs := by
  unfold Job.setPendS; split <;> rfl
@[simp] theorem Job.setPendS_rings (j : Job) (r : Nat) (v : Bool) : (j.setPendS r v).rings = j.rings := by
  unfold Job.setPendS; split <;> rfl
@[simp] theorem Job.setPendS_binds (j : Job) (r : Nat) (v : Bool) : (j.setPendS r v).binds = j.binds := by
  unfold Job.setPendS; split <;> rfl
@[simp] theorem Job.setPendS_mqueue (j : Job) (r : Nat) (v : Bool) : (j.setPendS r v).mqueue = j.mqueue := by
  unfold Job.setPendS; split <;> rfl
@[simp] theorem Job.setPendS_ccmd (j : Job) (r : Nat) (v : Bool) : (j.setPendS r v).ccmd = j.ccmd := by
  unfold Job.setPendS; split <;> rfl
@[simp] theorem Job.setPendS_fpstat (j : Job) (r : Nat) (v : Bool) : (j.setPendS r v).fpstat = j.fpstat := by
  unfold Job.setPendS; split <;> rfl
@[simp] theorem Job.setPendS_fpen (j : Job) (r : Nat) (v : Bool) : (j.setPendS r v).fpen = j.fpen := by
  unfold Job.setPendS; split <;> rfl
@[simp] theorem Job.setPendS_srseed (j : Job) (r : Nat) (v : Bool) : (j.setPendS r v).srseed = j.srseed := by
  unfold Job.setPendS; split <;> rfl
@[simp] theorem Job.setPendS_srcntv (j : Job) (r : Nat) (v : Bool) : (j.setPendS r v).srcntv = j.srcntv := by
  unfold Job.setPendS; split <;> rfl
@[simp] theorem Job.setPendS_srcntm (j : Job) (r : Nat) (v : Bool) : (j.setPendS r v).srcntm = j.srcntm := by
  unfold Job.setPendS; split <;> rfl
@[simp] theorem Job.setPendS_srcntc (j : Job) (r : Nat) (v : Bool) : (j.setPendS r v).srcntc = j.srcntc := by
  unfold Job.setPendS; split <;> rfl
@[simp] theorem Job.setPendS_trap (j : Job) (r : Nat) (v : Bool) : (j.setPendS r v).trap = j.trap := by
  unfold Job.setPendS; split <;> rfl
@[simp] theorem Job.setPendS_hmode (j : Job) (r : Nat) (v : Bool) : (j.setPendS r v).hmode = j.hmode := by
  unfold Job.setPendS; split <;> rfl
@[simp] theorem Job.setPendS_nest (j : Job) (r : Nat) (v : Bool) : (j.setPendS r v).nest = j.nest := by
  unfold Job.setPendS; split <;> rfl
@[simp] theorem Job.setPendS_skip (j : Job) (r : Nat) (v : Bool) : (j.setPendS r v).skip = j.skip := by
  unfold Job.setPendS; split <;> rfl
@[simp] theorem Job.setPendS_swapped (j : Job) (r : Nat) (v : Bool) : (j.setPendS r v).swapped = j.swapped := by
  unfold Job.setPendS; split <;> rfl
@[simp] theorem Job.setPendS_rets (j : Job) (r : Nat) (v : Bool) : (j.setPendS r v).rets = j.rets := by
  unfold Job.setPendS; split <;> rfl
@[simp] theorem Job.setPendS_heldv (j : Job) (r : Nat) (v : Bool) : (j.setPendS r v).heldv = j.heldv := by
  unfold Job.setPendS; split <;> rfl
@[simp] theorem Job.setPendS_heldm (j : Job) (r : Nat) (v : Bool) : (j.setPendS r v).heldm = j.heldm := by
  unfold Job.setPendS; split <;> rfl
@[simp] theorem Job.setPendS_heldc (j : Job) (r : Nat) (v : Bool) : (j.setPendS r v).heldc = j.heldc := by
  unfold Job.setPendS; split <;> rfl
@[simp] theorem Job.setPendS_areaPending (j : Job) (r : Nat) (v : Bool) : (j.setPendS r v).areaPending = j.areaPending := by
  unfold Job.setPendS; split <;> rfl
@[simp] theorem Job.setPendS_msaved (j : Job) (r : Nat) (v : Bool) : (j.setPendS r v).msaved = j.msaved := by
  unfold Job.setPendS; split <;> rfl
@[simp] theorem Job.setPendS_imaged (j : Job) (r : Nat) (v : Bool) : (j.setPendS r v).imaged = j.imaged := by
  unfold Job.setPendS; split <;> rfl
@[simp] theorem Job.setPendS_streams (j : Job) (r : Nat) (v : Bool) : (j.setPendS r v).streams = j.streams := by
  unfold Job.setPendS; split <;> rfl
@[simp] theorem Job.setPendS_hs (j : Job) (r : Nat) (v : Bool) : (j.setPendS r v).hs = j.hs := by
  unfold Job.setPendS; split <;> rfl
@[simp] theorem Job.setPendS_hm (j : Job) (r : Nat) (v : Bool) : (j.setPendS r v).hm = j.hm := by
  unfold Job.setPendS; split <;> rfl
@[simp] theorem Job.setPendS_prerec (j : Job) (r : Nat) (v : Bool) : (j.setPendS r v).prerec = j.prerec := by
  unfold Job.setPendS; split <;> rfl
@[simp] theorem Job.setPendS_loopsave (j : Job) (r : Nat) (v : Bool) : (j.setPendS r v).loopsave = j.loopsave := by
  unfold Job.setPendS; split <;> rfl
@[simp] theorem Job.setPendS_mons (j : Job) (r : Nat) (v : Bool) : (j.setPendS r v).mons = j.mons := by
  unfold Job.setPendS; split <;> rfl
@[simp] theorem Job.setPendS_perfsel (j : Job) (r : Nat) (v : Bool) : (j.setPendS r v).perfsel = j.perfsel := by
  unfold Job.setPendS; split <;> rfl
@[simp] theorem Job.setPendS_perfcnt (j : Job) (r : Nat) (v : Bool) : (j.setPendS r v).perfcnt = j.perfcnt := by
  unfold Job.setPendS; split <;> rfl
@[simp] theorem Job.setPendS_pad (j : Job) (r : Nat) (v : Bool) : (j.setPendS r v).pad = j.pad := by
  unfold Job.setPendS; split <;> rfl
@[simp] theorem Job.setPendS_ordinal (j : Job) (r : Nat) (v : Bool) : (j.setPendS r v).ordinal = j.ordinal := by
  unfold Job.setPendS; split <;> rfl
@[simp] theorem Job.setPendS_drawIdx (j : Job) (r : Nat) (v : Bool) : (j.setPendS r v).drawIdx = j.drawIdx := by
  unfold Job.setPendS; split <;> rfl
@[simp] theorem Job.setPendS_rmap (j : Job) (r : Nat) (v : Bool) : (j.setPendS r v).rmap = j.rmap := by
  unfold Job.setPendS; split <;> rfl
@[simp] theorem Job.setPendS_swait (j : Job) (r : Nat) (v : Bool) : (j.setPendS r v).swait = j.swait := by
  unfold Job.setPendS; split <;> rfl
@[simp] theorem Job.setPendS_waitFrom (j : Job) (r : Nat) (v : Bool) : (j.setPendS r v).waitFrom = j.waitFrom := by
  unfold Job.setPendS; split <;> rfl
@[simp] theorem Job.setPendS_preempt (j : Job) (r : Nat) (v : Bool) : (j.setPendS r v).preempt = j.preempt := by
  unfold Job.setPendS; split <;> rfl
@[simp] theorem Job.setPendS_rebind (j : Job) (r : Nat) (v : Bool) : (j.setPendS r v).rebind = j.rebind := by
  unfold Job.setPendS; split <;> rfl
@[simp] theorem Job.setPendS_stalls (j : Job) (r : Nat) (v : Bool) : (j.setPendS r v).stalls = j.stalls := by
  unfold Job.setPendS; split <;> rfl
@[simp] theorem Job.setPendS_frozen (j : Job) (r : Nat) (v : Bool) : (j.setPendS r v).frozen = j.frozen := by
  unfold Job.setPendS; split <;> rfl

@[simp] theorem Job.setLevel_ctx (j : Job) (n : Nat) (x : Level) : (j.setLevel n x).ctx = j.ctx := rfl
@[simp] theorem Job.setLevel_gidx (j : Job) (n : Nat) (x : Level) : (j.setLevel n x).gidx = j.gidx := rfl
@[simp] theorem Job.setLevel_gsize (j : Job) (n : Nat) (x : Level) : (j.setLevel n x).gsize = j.gsize := rfl
@[simp] theorem Job.setLevel_ndie (j : Job) (n : Nat) (x : Level) : (j.setLevel n x).ndie = j.ndie := rfl
@[simp] theorem Job.setLevel_child (j : Job) (n : Nat) (x : Level) : (j.setLevel n x).child = j.child := rfl
@[simp] theorem Job.setLevel_core (j : Job) (n : Nat) (x : Level) : (j.setLevel n x).core = j.core := rfl
@[simp] theorem Job.setLevel_page (j : Job) (n : Nat) (x : Level) : (j.setLevel n x).page = j.page := rfl
@[simp] theorem Job.setLevel_wid (j : Job) (n : Nat) (x : Level) : (j.setLevel n x).wid = j.wid := rfl
@[simp] theorem Job.setLevel_conf (j : Job) (n : Nat) (x : Level) : (j.setLevel n x).conf = j.conf := rfl
@[simp] theorem Job.setLevel_set (j : Job) (n : Nat) (x : Level) : (j.setLevel n x).set = j.set := rfl
@[simp] theorem Job.setLevel_handS (j : Job) (n : Nat) (x : Level) : (j.setLevel n x).handS = j.handS := rfl
@[simp] theorem Job.setLevel_handM (j : Job) (n : Nat) (x : Level) : (j.setLevel n x).handM = j.handM := rfl
@[simp] theorem Job.setLevel_s (j : Job) (n : Nat) (x : Level) : (j.setLevel n x).s = j.s := rfl
@[simp] theorem Job.setLevel_p (j : Job) (n : Nat) (x : Level) : (j.setLevel n x).p = j.p := rfl
@[simp] theorem Job.setLevel_l (j : Job) (n : Nat) (x : Level) : (j.setLevel n x).l = j.l := rfl
@[simp] theorem Job.setLevel_spend (j : Job) (n : Nat) (x : Level) : (j.setLevel n x).spend = j.spend := rfl
@[simp] theorem Job.setLevel_ppend (j : Job) (n : Nat) (x : Level) : (j.setLevel n x).ppend = j.ppend := rfl
@[simp] theorem Job.setLevel_loops (j : Job) (n : Nat) (x : Level) : (j.setLevel n x).loops = j.loops := rfl
@[simp] theorem Job.setLevel_v (j : Job) (n : Nat) (x : Level) : (j.setLevel n x).v = j.v := rfl
@[simp] theorem Job.setLevel_k (j : Job) (n : Nat) (x : Level) : (j.setLevel n x).k = j.k := rfl
@[simp] theorem Job.setLevel_b (j : Job) (n : Nat) (x : Level) : (j.setLevel n x).b = j.b := rfl
@[simp] theorem Job.setLevel_repValid (j : Job) (n : Nat) (x : Level) : (j.setLevel n x).repValid = j.repValid := rfl
@[simp] theorem Job.setLevel_repDone (j : Job) (n : Nat) (x : Level) : (j.setLevel n x).repDone = j.repDone := rfl
@[simp] theorem Job.setLevel_repLeft (j : Job) (n : Nat) (x : Level) : (j.setLevel n x).repLeft = j.repLeft := rfl
@[simp] theorem Job.setLevel_tiles (j : Job) (n : Nat) (x : Level) : (j.setLevel n x).tiles = j.tiles := rfl
@[simp] theorem Job.setLevel_accs (j : Job) (n : Nat) (x : Level) : (j.setLevel n x).accs = j.accs := rfl
@[simp] theorem Job.setLevel_rings (j : Job) (n : Nat) (x : Level) : (j.setLevel n x).rings = j.rings := rfl
@[simp] theorem Job.setLevel_binds (j : Job) (n : Nat) (x : Level) : (j.setLevel n x).binds = j.binds := rfl
@[simp] theorem Job.setLevel_mqueue (j : Job) (n : Nat) (x : Level) : (j.setLevel n x).mqueue = j.mqueue := rfl
@[simp] theorem Job.setLevel_ccmd (j : Job) (n : Nat) (x : Level) : (j.setLevel n x).ccmd = j.ccmd := rfl
@[simp] theorem Job.setLevel_fpstat (j : Job) (n : Nat) (x : Level) : (j.setLevel n x).fpstat = j.fpstat := rfl
@[simp] theorem Job.setLevel_fpen (j : Job) (n : Nat) (x : Level) : (j.setLevel n x).fpen = j.fpen := rfl
@[simp] theorem Job.setLevel_srseed (j : Job) (n : Nat) (x : Level) : (j.setLevel n x).srseed = j.srseed := rfl
@[simp] theorem Job.setLevel_srcntv (j : Job) (n : Nat) (x : Level) : (j.setLevel n x).srcntv = j.srcntv := rfl
@[simp] theorem Job.setLevel_srcntm (j : Job) (n : Nat) (x : Level) : (j.setLevel n x).srcntm = j.srcntm := rfl
@[simp] theorem Job.setLevel_srcntc (j : Job) (n : Nat) (x : Level) : (j.setLevel n x).srcntc = j.srcntc := rfl
@[simp] theorem Job.setLevel_trap (j : Job) (n : Nat) (x : Level) : (j.setLevel n x).trap = j.trap := rfl
@[simp] theorem Job.setLevel_hmode (j : Job) (n : Nat) (x : Level) : (j.setLevel n x).hmode = j.hmode := rfl
@[simp] theorem Job.setLevel_nest (j : Job) (n : Nat) (x : Level) : (j.setLevel n x).nest = j.nest := rfl
@[simp] theorem Job.setLevel_skip (j : Job) (n : Nat) (x : Level) : (j.setLevel n x).skip = j.skip := rfl
@[simp] theorem Job.setLevel_swapped (j : Job) (n : Nat) (x : Level) : (j.setLevel n x).swapped = j.swapped := rfl
@[simp] theorem Job.setLevel_rets (j : Job) (n : Nat) (x : Level) : (j.setLevel n x).rets = j.rets := rfl
@[simp] theorem Job.setLevel_heldv (j : Job) (n : Nat) (x : Level) : (j.setLevel n x).heldv = j.heldv := rfl
@[simp] theorem Job.setLevel_heldm (j : Job) (n : Nat) (x : Level) : (j.setLevel n x).heldm = j.heldm := rfl
@[simp] theorem Job.setLevel_heldc (j : Job) (n : Nat) (x : Level) : (j.setLevel n x).heldc = j.heldc := rfl
@[simp] theorem Job.setLevel_areaPending (j : Job) (n : Nat) (x : Level) : (j.setLevel n x).areaPending = j.areaPending := rfl
@[simp] theorem Job.setLevel_msaved (j : Job) (n : Nat) (x : Level) : (j.setLevel n x).msaved = j.msaved := rfl
@[simp] theorem Job.setLevel_imaged (j : Job) (n : Nat) (x : Level) : (j.setLevel n x).imaged = j.imaged := rfl
@[simp] theorem Job.setLevel_streams (j : Job) (n : Nat) (x : Level) : (j.setLevel n x).streams = j.streams := rfl
@[simp] theorem Job.setLevel_hs (j : Job) (n : Nat) (x : Level) : (j.setLevel n x).hs = j.hs := rfl
@[simp] theorem Job.setLevel_hm (j : Job) (n : Nat) (x : Level) : (j.setLevel n x).hm = j.hm := rfl
@[simp] theorem Job.setLevel_prerec (j : Job) (n : Nat) (x : Level) : (j.setLevel n x).prerec = j.prerec := rfl
@[simp] theorem Job.setLevel_loopsave (j : Job) (n : Nat) (x : Level) : (j.setLevel n x).loopsave = j.loopsave := rfl
@[simp] theorem Job.setLevel_mons (j : Job) (n : Nat) (x : Level) : (j.setLevel n x).mons = j.mons := rfl
@[simp] theorem Job.setLevel_perfsel (j : Job) (n : Nat) (x : Level) : (j.setLevel n x).perfsel = j.perfsel := rfl
@[simp] theorem Job.setLevel_perfcnt (j : Job) (n : Nat) (x : Level) : (j.setLevel n x).perfcnt = j.perfcnt := rfl
@[simp] theorem Job.setLevel_pad (j : Job) (n : Nat) (x : Level) : (j.setLevel n x).pad = j.pad := rfl
@[simp] theorem Job.setLevel_ordinal (j : Job) (n : Nat) (x : Level) : (j.setLevel n x).ordinal = j.ordinal := rfl
@[simp] theorem Job.setLevel_drawIdx (j : Job) (n : Nat) (x : Level) : (j.setLevel n x).drawIdx = j.drawIdx := rfl
@[simp] theorem Job.setLevel_rmap (j : Job) (n : Nat) (x : Level) : (j.setLevel n x).rmap = j.rmap := rfl
@[simp] theorem Job.setLevel_swait (j : Job) (n : Nat) (x : Level) : (j.setLevel n x).swait = j.swait := rfl
@[simp] theorem Job.setLevel_waitFrom (j : Job) (n : Nat) (x : Level) : (j.setLevel n x).waitFrom = j.waitFrom := rfl
@[simp] theorem Job.setLevel_preempt (j : Job) (n : Nat) (x : Level) : (j.setLevel n x).preempt = j.preempt := rfl
@[simp] theorem Job.setLevel_rebind (j : Job) (n : Nat) (x : Level) : (j.setLevel n x).rebind = j.rebind := rfl
@[simp] theorem Job.setLevel_stalls (j : Job) (n : Nat) (x : Level) : (j.setLevel n x).stalls = j.stalls := rfl
@[simp] theorem Job.setLevel_frozen (j : Job) (n : Nat) (x : Level) : (j.setLevel n x).frozen = j.frozen := rfl

@[simp] theorem Job.setStream_ctx (j : Job) (a : Sel) (x : Stream) : (j.setStream a x).ctx = j.ctx := by
  cases a <;> rfl
@[simp] theorem Job.setStream_gidx (j : Job) (a : Sel) (x : Stream) : (j.setStream a x).gidx = j.gidx := by
  cases a <;> rfl
@[simp] theorem Job.setStream_gsize (j : Job) (a : Sel) (x : Stream) : (j.setStream a x).gsize = j.gsize := by
  cases a <;> rfl
@[simp] theorem Job.setStream_ndie (j : Job) (a : Sel) (x : Stream) : (j.setStream a x).ndie = j.ndie := by
  cases a <;> rfl
@[simp] theorem Job.setStream_child (j : Job) (a : Sel) (x : Stream) : (j.setStream a x).child = j.child := by
  cases a <;> rfl
@[simp] theorem Job.setStream_core (j : Job) (a : Sel) (x : Stream) : (j.setStream a x).core = j.core := by
  cases a <;> rfl
@[simp] theorem Job.setStream_page (j : Job) (a : Sel) (x : Stream) : (j.setStream a x).page = j.page := by
  cases a <;> rfl
@[simp] theorem Job.setStream_wid (j : Job) (a : Sel) (x : Stream) : (j.setStream a x).wid = j.wid := by
  cases a <;> rfl
@[simp] theorem Job.setStream_conf (j : Job) (a : Sel) (x : Stream) : (j.setStream a x).conf = j.conf := by
  cases a <;> rfl
@[simp] theorem Job.setStream_set (j : Job) (a : Sel) (x : Stream) : (j.setStream a x).set = j.set := by
  cases a <;> rfl
@[simp] theorem Job.setStream_handS (j : Job) (a : Sel) (x : Stream) : (j.setStream a x).handS = j.handS := by
  cases a <;> rfl
@[simp] theorem Job.setStream_handM (j : Job) (a : Sel) (x : Stream) : (j.setStream a x).handM = j.handM := by
  cases a <;> rfl
@[simp] theorem Job.setStream_s (j : Job) (a : Sel) (x : Stream) : (j.setStream a x).s = j.s := by
  cases a <;> rfl
@[simp] theorem Job.setStream_p (j : Job) (a : Sel) (x : Stream) : (j.setStream a x).p = j.p := by
  cases a <;> rfl
@[simp] theorem Job.setStream_l (j : Job) (a : Sel) (x : Stream) : (j.setStream a x).l = j.l := by
  cases a <;> rfl
@[simp] theorem Job.setStream_spend (j : Job) (a : Sel) (x : Stream) : (j.setStream a x).spend = j.spend := by
  cases a <;> rfl
@[simp] theorem Job.setStream_ppend (j : Job) (a : Sel) (x : Stream) : (j.setStream a x).ppend = j.ppend := by
  cases a <;> rfl
@[simp] theorem Job.setStream_levels (j : Job) (a : Sel) (x : Stream) : (j.setStream a x).levels = j.levels := by
  cases a <;> rfl
@[simp] theorem Job.setStream_loops (j : Job) (a : Sel) (x : Stream) : (j.setStream a x).loops = j.loops := by
  cases a <;> rfl
@[simp] theorem Job.setStream_v (j : Job) (a : Sel) (x : Stream) : (j.setStream a x).v = j.v := by
  cases a <;> rfl
@[simp] theorem Job.setStream_k (j : Job) (a : Sel) (x : Stream) : (j.setStream a x).k = j.k := by
  cases a <;> rfl
@[simp] theorem Job.setStream_b (j : Job) (a : Sel) (x : Stream) : (j.setStream a x).b = j.b := by
  cases a <;> rfl
@[simp] theorem Job.setStream_repValid (j : Job) (a : Sel) (x : Stream) : (j.setStream a x).repValid = j.repValid := by
  cases a <;> rfl
@[simp] theorem Job.setStream_repDone (j : Job) (a : Sel) (x : Stream) : (j.setStream a x).repDone = j.repDone := by
  cases a <;> rfl
@[simp] theorem Job.setStream_repLeft (j : Job) (a : Sel) (x : Stream) : (j.setStream a x).repLeft = j.repLeft := by
  cases a <;> rfl
@[simp] theorem Job.setStream_tiles (j : Job) (a : Sel) (x : Stream) : (j.setStream a x).tiles = j.tiles := by
  cases a <;> rfl
@[simp] theorem Job.setStream_accs (j : Job) (a : Sel) (x : Stream) : (j.setStream a x).accs = j.accs := by
  cases a <;> rfl
@[simp] theorem Job.setStream_rings (j : Job) (a : Sel) (x : Stream) : (j.setStream a x).rings = j.rings := by
  cases a <;> rfl
@[simp] theorem Job.setStream_binds (j : Job) (a : Sel) (x : Stream) : (j.setStream a x).binds = j.binds := by
  cases a <;> rfl
@[simp] theorem Job.setStream_mqueue (j : Job) (a : Sel) (x : Stream) : (j.setStream a x).mqueue = j.mqueue := by
  cases a <;> rfl
@[simp] theorem Job.setStream_ccmd (j : Job) (a : Sel) (x : Stream) : (j.setStream a x).ccmd = j.ccmd := by
  cases a <;> rfl
@[simp] theorem Job.setStream_fpstat (j : Job) (a : Sel) (x : Stream) : (j.setStream a x).fpstat = j.fpstat := by
  cases a <;> rfl
@[simp] theorem Job.setStream_fpen (j : Job) (a : Sel) (x : Stream) : (j.setStream a x).fpen = j.fpen := by
  cases a <;> rfl
@[simp] theorem Job.setStream_srseed (j : Job) (a : Sel) (x : Stream) : (j.setStream a x).srseed = j.srseed := by
  cases a <;> rfl
@[simp] theorem Job.setStream_srcntv (j : Job) (a : Sel) (x : Stream) : (j.setStream a x).srcntv = j.srcntv := by
  cases a <;> rfl
@[simp] theorem Job.setStream_srcntm (j : Job) (a : Sel) (x : Stream) : (j.setStream a x).srcntm = j.srcntm := by
  cases a <;> rfl
@[simp] theorem Job.setStream_srcntc (j : Job) (a : Sel) (x : Stream) : (j.setStream a x).srcntc = j.srcntc := by
  cases a <;> rfl
@[simp] theorem Job.setStream_trap (j : Job) (a : Sel) (x : Stream) : (j.setStream a x).trap = j.trap := by
  cases a <;> rfl
@[simp] theorem Job.setStream_hmode (j : Job) (a : Sel) (x : Stream) : (j.setStream a x).hmode = j.hmode := by
  cases a <;> rfl
@[simp] theorem Job.setStream_nest (j : Job) (a : Sel) (x : Stream) : (j.setStream a x).nest = j.nest := by
  cases a <;> rfl
@[simp] theorem Job.setStream_skip (j : Job) (a : Sel) (x : Stream) : (j.setStream a x).skip = j.skip := by
  cases a <;> rfl
@[simp] theorem Job.setStream_swapped (j : Job) (a : Sel) (x : Stream) : (j.setStream a x).swapped = j.swapped := by
  cases a <;> rfl
@[simp] theorem Job.setStream_rets (j : Job) (a : Sel) (x : Stream) : (j.setStream a x).rets = j.rets := by
  cases a <;> rfl
@[simp] theorem Job.setStream_heldv (j : Job) (a : Sel) (x : Stream) : (j.setStream a x).heldv = j.heldv := by
  cases a <;> rfl
@[simp] theorem Job.setStream_heldm (j : Job) (a : Sel) (x : Stream) : (j.setStream a x).heldm = j.heldm := by
  cases a <;> rfl
@[simp] theorem Job.setStream_heldc (j : Job) (a : Sel) (x : Stream) : (j.setStream a x).heldc = j.heldc := by
  cases a <;> rfl
@[simp] theorem Job.setStream_areaPending (j : Job) (a : Sel) (x : Stream) : (j.setStream a x).areaPending = j.areaPending := by
  cases a <;> rfl
@[simp] theorem Job.setStream_msaved (j : Job) (a : Sel) (x : Stream) : (j.setStream a x).msaved = j.msaved := by
  cases a <;> rfl
@[simp] theorem Job.setStream_imaged (j : Job) (a : Sel) (x : Stream) : (j.setStream a x).imaged = j.imaged := by
  cases a <;> rfl
@[simp] theorem Job.setStream_prerec (j : Job) (a : Sel) (x : Stream) : (j.setStream a x).prerec = j.prerec := by
  cases a <;> rfl
@[simp] theorem Job.setStream_loopsave (j : Job) (a : Sel) (x : Stream) : (j.setStream a x).loopsave = j.loopsave := by
  cases a <;> rfl
@[simp] theorem Job.setStream_mons (j : Job) (a : Sel) (x : Stream) : (j.setStream a x).mons = j.mons := by
  cases a <;> rfl
@[simp] theorem Job.setStream_perfsel (j : Job) (a : Sel) (x : Stream) : (j.setStream a x).perfsel = j.perfsel := by
  cases a <;> rfl
@[simp] theorem Job.setStream_perfcnt (j : Job) (a : Sel) (x : Stream) : (j.setStream a x).perfcnt = j.perfcnt := by
  cases a <;> rfl
@[simp] theorem Job.setStream_pad (j : Job) (a : Sel) (x : Stream) : (j.setStream a x).pad = j.pad := by
  cases a <;> rfl
@[simp] theorem Job.setStream_ordinal (j : Job) (a : Sel) (x : Stream) : (j.setStream a x).ordinal = j.ordinal := by
  cases a <;> rfl
@[simp] theorem Job.setStream_drawIdx (j : Job) (a : Sel) (x : Stream) : (j.setStream a x).drawIdx = j.drawIdx := by
  cases a <;> rfl
@[simp] theorem Job.setStream_rmap (j : Job) (a : Sel) (x : Stream) : (j.setStream a x).rmap = j.rmap := by
  cases a <;> rfl
@[simp] theorem Job.setStream_swait (j : Job) (a : Sel) (x : Stream) : (j.setStream a x).swait = j.swait := by
  cases a <;> rfl
@[simp] theorem Job.setStream_waitFrom (j : Job) (a : Sel) (x : Stream) : (j.setStream a x).waitFrom = j.waitFrom := by
  cases a <;> rfl
@[simp] theorem Job.setStream_preempt (j : Job) (a : Sel) (x : Stream) : (j.setStream a x).preempt = j.preempt := by
  cases a <;> rfl
@[simp] theorem Job.setStream_rebind (j : Job) (a : Sel) (x : Stream) : (j.setStream a x).rebind = j.rebind := by
  cases a <;> rfl
@[simp] theorem Job.setStream_stalls (j : Job) (a : Sel) (x : Stream) : (j.setStream a x).stalls = j.stalls := by
  cases a <;> rfl
@[simp] theorem Job.setStream_frozen (j : Job) (a : Sel) (x : Stream) : (j.setStream a x).frozen = j.frozen := by
  cases a <;> rfl

end Sys2Proof.Machine
end

