-- ==== Sys2Proof/Laws/Memory.lean ====
section
/-!
SUPPORT. Memory: its canonical form under every operation that writes it, the operations that leave it as it is, an access whose bytes are
reached, and the traps.
-/
namespace Sys2Proof.Machine

/-! The operations that write memory keep its form -/

theorem State.wf_writePa {s : State} (h : Memory.wf s.mem) (pa : Nat) (bs : List Byte) : Memory.wf (s.writePa pa bs).mem :=
  Sparse.wf_blit _ _ _ _ h
theorem State.wf_copyFrame {s : State} (h : Memory.wf s.mem) (src dst : Nat) : Memory.wf (s.copyFrame src dst).mem :=
  Sparse.wf_overlay _ _ _ _ _ h (Sparse.wf_window _ _ _ _ h)
theorem State.wf_zeroFrame {s : State} (h : Memory.wf s.mem) (pa : Nat) : Memory.wf (s.zeroFrame pa).mem :=
  Sparse.wf_overlay _ _ _ _ _ h rfl
theorem State.wf_writePieces (ps : List (Nat × Nat)) {s : State} (h : Memory.wf s.mem) (bs : List Byte) : Memory.wf (s.writePieces ps bs).mem := by
  induction ps generalizing s bs with
  | nil => exact h
  | cons p ps ih => exact ih (s.wf_writePa h ..) _
theorem State.wf_writeRegister (ps : List (Nat × Nat × Bool)) {s : State} (h : Memory.wf s.mem) (bs : List Byte) :
    Memory.wf (s.writeRegister ps bs).mem := by
  induction ps generalizing s bs with
  | nil => exact h
  | cons p ps ih =>
    refine ih ?_ _
    split
    · exact h
    · exact s.wf_writePa h ..
theorem State.wf_resetModule (s : State) : Memory.wf s.resetModule.mem := by unfold State.resetModule; rfl
theorem State.wf_reset : Memory.wf State.reset.mem := rfl

/-! What leaves memory as it is -/

/-- A fold of steps that leave memory leaves it. -/
theorem foldl_mem {α : Type} (l : List α) (f : State → α → State) (s : State) (h : ∀ s a, (f s a).mem = s.mem) : (l.foldl f s).mem = s.mem := by
  induction l generalizing s with
  | nil => rfl
  | cons a l ih => rw [List.foldl_cons, ih, h]

@[simp] theorem State.fillLine_mem (s : State) (pa ctx : Nat) : (s.fillLine pa ctx).mem = s.mem := by
  unfold State.fillLine; dsimp only; split <;> simp
@[simp] theorem State.dirtyLine_mem (s : State) (pa : Nat) : (s.dirtyLine pa).mem = s.mem := by simp [State.dirtyLine]
@[simp] theorem State.dropLine_mem (s : State) (pa : Nat) : (s.dropLine pa).mem = s.mem := by simp [State.dropLine]
@[simp] theorem State.cleanLine_mem (s : State) (pa : Nat) : (s.cleanLine pa).mem = s.mem := by simp [State.cleanLine]
@[simp] theorem State.throughSlices_mem (s : State) (pa n ctx : Nat) (w : Bool) : (s.throughSlices pa n ctx w).mem = s.mem := by
  unfold State.throughSlices
  refine foldl_mem _ _ _ fun s a => ?_
  split
  · rfl
  · split <;> simp
@[simp] theorem State.leaveEngine_mem (s : State) (ps : List (Nat × Nat)) : (s.leaveEngine ps).mem = s.mem := foldl_mem _ _ _ fun _ _ => rfl
@[simp] theorem State.throughPieces_mem (s : State) (ps : List (Nat × Nat)) (ctx : Nat) (w : Bool) : (s.throughPieces ps ctx w).mem = s.mem := by
  unfold State.throughPieces
  rw [foldl_mem _ _ _ fun s p => s.throughSlices_mem ..]
  exact s.leaveEngine_mem ps
@[simp] theorem State.aroundSlices_mem (s : State) (ps : List (Nat × Nat)) (ctx : Nat) (w : Bool) : (s.aroundSlices ps ctx w).mem = s.mem := by
  unfold State.aroundSlices
  rw [foldl_mem _ _ _ fun s p => by split <;> simp]
  exact s.leaveEngine_mem ps
@[simp] theorem State.touch_mem (s : State) (core ctx va : Nat) : (s.touch core ctx va).mem = s.mem := by
  unfold State.touch; dsimp only; split <;> simp
@[simp] theorem State.unstalled_mem (s : State) (n : Nat) (e : Engine) : (s.unstalled n e).mem = s.mem := by simp [State.unstalled]
@[simp] theorem State.startRound_mem (s : State) (d : Nat) (t : TlbEntry) (k : RoundKind) : (s.startRound d t k).mem = s.mem := rfl
@[simp] theorem State.collapsePage_mem (s : State) (ctx va : Nat) : (s.collapsePage ctx va).mem = s.mem := by
  unfold State.collapsePage
  refine foldl_mem _ _ _ fun s t => ?_
  rw [apply_ite State.mem, State.startRound_mem, ite_self]
@[simp] theorem State.cancelRequest_mem (s : State) (n : Nat) : (s.cancelRequest n).mem = s.mem := by
  unfold State.cancelRequest
  split
  · rfl
  · split
    · split <;> simp
    · rfl
@[simp] theorem State.endTickets_mem (s : State) (ctx st : Nat) : (s.endTickets ctx st).mem = s.mem := by
  rw [State.endTickets, State.updDie_mem]
@[simp] theorem State.preemptGroup_mem (s : State) (ctx : Nat) : (s.preemptGroup ctx).mem = s.mem := by
  rw [State.preemptGroup, State.updExtra_mem]
@[simp] theorem State.faultCtx_mem (s : State) (ctx cause : Nat) : (s.faultCtx ctx cause).mem = s.mem := by
  rw [State.faultCtx, State.preemptGroup_mem, State.endTickets_mem, State.setBlkBits_mem, State.setCtxState_mem]
@[simp] theorem State.recordFails_mem (s : State) (n : Nat) (j : Job) : (s.recordFails n j).mem = s.mem := by simp [State.recordFails]
@[simp] theorem State.setWaiters_mem (s : State) (pa : Nat) (ws : List Waiter) : (s.setWaiters pa ws).mem = s.mem := rfl
@[simp] theorem State.grant_mem (s : State) (w : Waiter) (v : Option Word) : (s.grant w v).mem = s.mem := by simp [State.grant]

/-! Accesses -/

/-- A read whose bytes are reached, in lines nothing holds, answers them, and leaves memory. -/
theorem State.load_at {s : State} {core ctx wid : Nat} {conf : Bool} {va n : Nat} {ps : List (Nat × Nat)}
    (h : s.span core ctx wid conf .read va n = .at ps) (hl : s.heldLine ps = false) :
    s.load core ctx wid conf va n = .ok (s.readPieces ps, (s.throughPieces ps ctx false).touch core ctx va) := by simp [State.load, h, hl]

/-- Bytes written leave the dies. -/
theorem State.writePieces_dies {s : State} {ps : List (Nat × Nat)} {bs : List Byte} : (s.writePieces ps bs).dies = s.dies := by
  induction ps generalizing s bs with
  | nil => rfl
  | cons p ps ih => rw [State.writePieces, ih]; rfl

/-- Slices at rest hold no line. -/
theorem State.heldLine_idle {s : State} {ps : List (Nat × Nat)} (h : ∀ d i, s.slice d i = .idle) : s.heldLine ps = false := by
  simp [State.heldLine, h, Slice.holds, Slice.idle]

/-- A write whose bytes are reached, in lines nothing holds, stores them there. -/
theorem State.store_at {s : State} {core ctx wid : Nat} {conf : Bool} {va : Nat} {bs : List Byte} {ps : List (Nat × Nat)}
    (h : s.span core ctx wid conf .write va bs.length = .at ps) (hl : s.heldLine ps = false) :
    s.store core ctx wid conf va bs = .ok (((s.throughPieces ps ctx true).writePieces ps bs).touch core ctx va) := by simp [State.store, h, hl]

/-- A read that answers leaves memory. -/
theorem State.load_mem {s : State} {core ctx wid : Nat} {conf : Bool} {va n : Nat} {bs : List Byte} {t : State}
    (h : s.load core ctx wid conf va n = .ok (bs, t)) : t.mem = s.mem := by
  unfold State.load at h
  split at h <;> try split at h
  all_goals cases h
  all_goals simp

/-- A write that is granted keeps the form. -/
theorem State.wf_store {s : State} {core ctx wid : Nat} {conf : Bool} {va : Nat} {bs : List Byte} {t : State} (hs : Memory.wf s.mem)
    (h : s.store core ctx wid conf va bs = .ok t) : Memory.wf t.mem := by
  unfold State.store at h
  split at h <;> try split at h
  all_goals cases h
  · rw [State.touch_mem]; exact State.wf_writePieces _ (by simpa using hs) _
  · rw [State.touch_mem]; exact State.wf_writeRegister _ (by simpa using hs) _

theorem State.wf_tensorStore {s : State} {j : Job} {va : Nat} {bs : List Byte} {t : State} (hs : Memory.wf s.mem)
    (h : s.tensorStore j va bs = .ok t) : Memory.wf t.mem := by
  unfold State.tensorStore at h
  split at h
  · split at h
    · cases h
    · cases h; rw [State.touch_mem]; exact State.wf_writePieces _ (by simpa using hs) _
  · cases h
  · exact State.wf_store hs h
  · cases h

theorem State.wf_jobStore {s : State} {j : Job} {va : Nat} {bs : List Byte} {t : State} (hs : Memory.wf s.mem)
    (h : s.jobStore j va bs = .ok t) : Memory.wf t.mem := State.wf_store hs h

theorem State.wf_trapArea {s : State} {j : Job} {bs : List Byte} {t : State} (hs : Memory.wf s.mem) (h : s.trapArea j bs = .ok t) :
    Memory.wf t.mem := by
  unfold State.trapArea at h
  dsimp only at h
  split at h
  · cases h
  · exact State.wf_jobStore hs h

/-- A write to pieces of memory leaves every address outside them. -/
theorem State.byte_writePieces (ps : List (Nat × Nat)) (s : State) (bs : List Byte) (a : Nat) (h : ∀ p ∈ ps, a < p.1 ∨ p.1 + p.2 ≤ a) :
    (s.writePieces ps bs).byte a = s.byte a := by
  induction ps generalizing s bs with
  | nil => rfl
  | cons p ps ih =>
    rw [State.writePieces, ih _ _ fun q hq => h q (by simp [hq]), State.byte_writePa, if_neg]
    have := h p (by simp)
    have : (bs.take p.2).length ≤ p.2 := by simp
    omega

/-- Changing a die to what it is changes nothing. -/
theorem State.updDie_self {s : State} {d : Nat} {f : Die → Die} (hw : Sparse.wf Die.reset s.dies = true) (h : f (s.die d) = s.die d) : s.updDie d f = s := by
  unfold State.updDie State.setDie State.die at *
  rw [h, Sparse.set_get_self _ _ 0 _ hw]

theorem isVault_low {a : Nat} (h : a < 2 ^ 46) : isVault a = true := by
  unfold isVault paTier bits
  rw [Nat.shiftRight_eq_div_pow, Nat.div_eq_of_lt h]
  rfl

/-- An access of vault lines that no slice has, of which no object is resident, leaves the machine as it is (R215, R400). -/
theorem State.throughPieces_vault {s : State} {ps : List (Nat × Nat)} (ctx : Nat) (w : Bool) (hp : ∀ p ∈ ps, p.1 + p.2 ≤ 2 ^ 46)
    (hw : Sparse.wf Die.reset s.dies = true) (hs : ∀ d i, (s.slice d i).lines = []) (ho : ∀ d, (s.die d).objects = []) :
    s.throughPieces ps ctx w = s := by
  have leave : s.leaveEngine ps = s := by
    unfold State.leaveEngine
    clear hp
    induction ps with
    | nil => rfl
    | cons p ps ih =>
      rw [List.foldl_cons, State.updDie_self hw, ih]
      have := ho (paDie p.1)
      generalize s.die (paDie p.1) = x at *
      cases x; simp_all
  have slices : ∀ p ∈ ps, s.throughSlices p.1 p.2 ctx w = s := by
    intro p hm
    unfold State.throughSlices
    have hl : ∀ a ∈ linesOf p.1 p.2, a < 2 ^ 46 := by
      intro a ha
      have := hp p hm
      unfold linesOf at ha
      split at ha
      · simp at ha
      · simp only [List.mem_map, List.mem_range] at ha
        obtain ⟨i, hi, rfl⟩ := ha
        omega
    generalize linesOf p.1 p.2 = l at hl
    induction l with
    | nil => rfl
    | cons a l ih =>
      have hn : (s.slice (paDie a) (sliceOf (a / 64))).resident (a / 64) = false := by simp [Slice.resident, hs]
      rw [List.foldl_cons, isVault_low (hl a (by simp)), hn]
      simpa using ih fun b hb => hl b (by simp [hb])
  unfold State.throughPieces
  rw [leave]
  clear hp leave
  induction ps with
  | nil => rfl
  | cons p ps ih => rw [List.foldl_cons, slices p (by simp), ih fun q hq => slices q (by simp [hq])]

/-! Waiters, pre-emption, traps -/

theorem State.wf_grantUnits (k : Nat) {s : State} (h : Memory.wf s.mem) (pa : Nat) : Memory.wf (State.grantUnits k s pa).mem := by
  induction k generalizing s with
  | zero => exact h
  | succ k ih =>
    unfold State.grantUnits
    split
    · split
      · exact ih (by simpa using s.wf_writePa h ..)
      · exact h
    · exact h

theorem State.wf_leaveQueue {s : State} (h : Memory.wf s.mem) (n : Nat) (e : Engine) (pa : Nat) : Memory.wf (s.leaveQueue n e pa).mem := by
  unfold State.leaveQueue
  dsimp only
  split
  · exact State.wf_grantUnits _ (by simpa using h) _
  · simpa using h

theorem State.wf_abandonS {s : State} (h : Memory.wf s.mem) (n : Nat) : Memory.wf (s.abandonS n).mem := by
  unfold State.abandonS
  split
  · exact h
  · dsimp only
    split
    · exact State.wf_leaveQueue (by simpa using h) ..
    · simpa using h

theorem State.wf_abandonC {s : State} (h : Memory.wf s.mem) (n : Nat) : Memory.wf (s.abandonC n).mem := by
  have fold : ∀ (l : List Nat) (u : State), Memory.wf u.mem → Memory.wf (l.foldl (fun s pa => s.leaveQueue n .c pa) u).mem := by
    intro l
    induction l with
    | nil => intro u hu; exact hu
    | cons a l ih => intro u hu; exact ih _ (State.wf_leaveQueue hu ..)
  unfold State.abandonC
  split
  · exact h
  · exact fold _ _ (by simpa using h)

theorem State.wf_requestPreempt {s : State} (h : Memory.wf s.mem) (n : Nat) : Memory.wf (s.requestPreempt n).mem := by
  unfold State.requestPreempt
  split
  · split
    · exact h
    · exact State.wf_abandonC (State.wf_abandonS (by simpa using h) n) n
  · exact h

theorem State.wf_stalled {s : State} (h : Memory.wf s.mem) (n : Nat) (e : Engine) (va : Nat) (k : AccessKind) :
    Memory.wf (s.stalled n e va k).mem := by
  unfold State.stalled
  split
  · exact h
  · rename_i j _
    have fold : ∀ (l : List Nat) (u : State), Memory.wf u.mem →
        Memory.wf (l.foldl (fun t m => (((t.updJob m fun j => { j with frozen := true }).cancelRequest m).abandonS m).abandonC m) u).mem := by
      intro l
      induction l with
      | nil => intro u hu; exact hu
      | cons a l ih => intro u hu; exact ih _ (State.wf_abandonC (State.wf_abandonS (by simpa using hu) a) a)
    split
    · exact h
    · dsimp only
      apply fold
      split <;> simpa using h

theorem State.wf_writeRecord {s : State} (h : Memory.wf s.mem) (n : Nat) (j : Job) : Memory.wf (s.writeRecord n j).mem := by
  unfold State.writeRecord
  split
  · rename_i s1 hs
    simpa using State.wf_trapArea h hs
  · exact State.wf_stalled (by simpa using h) ..
  · simpa using h

theorem State.wf_deliver {s : State} (h : Memory.wf s.mem) (n : Nat) (r : TrapRecord) : Memory.wf (s.deliver n r).mem := by
  have ha := State.wf_abandonS h n
  unfold State.deliver
  dsimp only
  split
  · exact ha
  · split
    · rw [State.faultCtx_mem]; exact State.wf_writeRecord (by simpa using ha) ..
    · exact State.wf_writeRecord (by simpa using ha) ..

@[simp] theorem State.reportWalk_mem (s : State) (ctx : Nat) (t : Trap) : (s.reportWalk ctx t).mem = s.mem := by
  unfold State.reportWalk; split <;> rfl

/-- Taking a trap keeps the form of memory. -/
theorem State.wf_takeTrap {s : State} (h : Memory.wf s.mem) (n : Nat) (sel : Sel) (t : Trap) : Memory.wf (s.takeTrap n sel t).mem := by
  unfold State.takeTrap
  split
  · exact h
  · dsimp only
    split
    · rw [State.faultCtx_mem]; exact State.wf_writeRecord (by simpa using h) ..
    · split
      · simpa using h
      · exact State.wf_deliver (by simpa using h) ..

end Sys2Proof.Machine
end

