-- ==== Sys2Proof/Laws/PerInstr.lean ====
section
/-!
SUPPORT. Statements made once for every instruction: the family Encoding.
-/
namespace Sys2Proof.Laws.Encoding

/-- The bytes of an instruction are as many as its kind takes, and give its bits back (R3, R50, R297, R391). -/
def Statement (i : Instr) : Prop := (encode i).length = i.byteLength ∧ leNat (encode i) = i.bits

theorem nop (e : Engine) (g : Guard) : Statement (.nop e g) := bytes_of_word (k := 12) rfl (encN_lt _ _)
theorem rdv (e : Engine) (g : Guard) : Statement (.rdv e g) := bytes_of_word (k := 12) rfl (encN_lt _ _)
theorem add (f : SR) : Statement (.add f) := bytes_of_word (k := 12) rfl (encSR_lt _ _)
theorem sub (f : SR) : Statement (.sub f) := bytes_of_word (k := 12) rfl (encSR_lt _ _)
theorem mul (f : SR) : Statement (.mul f) := bytes_of_word (k := 12) rfl (encSR_lt _ _)
theorem mulh (f : SR) : Statement (.mulh f) := bytes_of_word (k := 12) rfl (encSR_lt _ _)
theorem madd (f : SR) : Statement (.madd f) := bytes_of_word (k := 12) rfl (encSR_lt _ _)
theorem div (f : SR) : Statement (.div f) := bytes_of_word (k := 12) rfl (encSR_lt _ _)
theorem rem (f : SR) : Statement (.rem f) := bytes_of_word (k := 12) rfl (encSR_lt _ _)
theorem neg (f : SR) : Statement (.neg f) := bytes_of_word (k := 12) rfl (encSR_lt _ _)
theorem abs (f : SR) : Statement (.abs f) := bytes_of_word (k := 12) rfl (encSR_lt _ _)
theorem min (f : SR) : Statement (.min f) := bytes_of_word (k := 12) rfl (encSR_lt _ _)
theorem max (f : SR) : Statement (.max f) := bytes_of_word (k := 12) rfl (encSR_lt _ _)
theorem and (f : SR) : Statement (.and f) := bytes_of_word (k := 12) rfl (encSR_lt _ _)
theorem or (f : SR) : Statement (.or f) := bytes_of_word (k := 12) rfl (encSR_lt _ _)
theorem xor (f : SR) : Statement (.xor f) := bytes_of_word (k := 12) rfl (encSR_lt _ _)
theorem not (f : SR) : Statement (.not f) := bytes_of_word (k := 12) rfl (encSR_lt _ _)
theorem shl (f : SR) : Statement (.shl f) := bytes_of_word (k := 12) rfl (encSR_lt _ _)
theorem shr (f : SR) : Statement (.shr f) := bytes_of_word (k := 12) rfl (encSR_lt _ _)
theorem rol (f : SR) : Statement (.rol f) := bytes_of_word (k := 12) rfl (encSR_lt _ _)
theorem ror (f : SR) : Statement (.ror f) := bytes_of_word (k := 12) rfl (encSR_lt _ _)
theorem clz (f : SR) : Statement (.clz f) := bytes_of_word (k := 12) rfl (encSR_lt _ _)
theorem ctz (f : SR) : Statement (.ctz f) := bytes_of_word (k := 12) rfl (encSR_lt _ _)
theorem popc (f : SR) : Statement (.popc f) := bytes_of_word (k := 12) rfl (encSR_lt _ _)
theorem bext (f : SR) : Statement (.bext f) := bytes_of_word (k := 12) rfl (encSR_lt _ _)
theorem bins (f : SR) : Statement (.bins f) := bytes_of_word (k := 12) rfl (encSR_lt _ _)
theorem sel (f : SR) : Statement (.sel f) := bytes_of_word (k := 12) rfl (encSR_lt _ _)
theorem cmpeq (f : SR) : Statement (.cmpeq f) := bytes_of_word (k := 12) rfl (encSR_lt _ _)
theorem cmpne (f : SR) : Statement (.cmpne f) := bytes_of_word (k := 12) rfl (encSR_lt _ _)
theorem cmplt (f : SR) : Statement (.cmplt f) := bytes_of_word (k := 12) rfl (encSR_lt _ _)
theorem cmple (f : SR) : Statement (.cmple f) := bytes_of_word (k := 12) rfl (encSR_lt _ _)
theorem pand (f : SR) : Statement (.pand f) := bytes_of_word (k := 12) rfl (encSR_lt _ _)
theorem por (f : SR) : Statement (.por f) := bytes_of_word (k := 12) rfl (encSR_lt _ _)
theorem pxor (f : SR) : Statement (.pxor f) := bytes_of_word (k := 12) rfl (encSR_lt _ _)
theorem pnot (f : SR) : Statement (.pnot f) := bytes_of_word (k := 12) rfl (encSR_lt _ _)
theorem mkva (f : SR) : Statement (.mkva f) := bytes_of_word (k := 12) rfl (encSR_lt _ _)
theorem li (f : SI) : Statement (.li f) := bytes_of_word (k := 12) rfl (encSI_lt _ _)
theorem lih (f : SI) : Statement (.lih f) := bytes_of_word (k := 12) rfl (encSI_lt _ _)
theorem addi (f : SI) : Statement (.addi f) := bytes_of_word (k := 12) rfl (encSI_lt _ _)
theorem andi (f : SI) : Statement (.andi f) := bytes_of_word (k := 12) rfl (encSI_lt _ _)
theorem ori (f : SI) : Statement (.ori f) := bytes_of_word (k := 12) rfl (encSI_lt _ _)
theorem xori (f : SI) : Statement (.xori f) := bytes_of_word (k := 12) rfl (encSI_lt _ _)
theorem shli (f : SI) : Statement (.shli f) := bytes_of_word (k := 12) rfl (encSI_lt _ _)
theorem shri (f : SI) : Statement (.shri f) := bytes_of_word (k := 12) rfl (encSI_lt _ _)
theorem cmpeqi (f : SI) : Statement (.cmpeqi f) := bytes_of_word (k := 12) rfl (encSI_lt _ _)
theorem cmplti (f : SI) : Statement (.cmplti f) := bytes_of_word (k := 12) rfl (encSI_lt _ _)
theorem br (f : SI) : Statement (.br f) := bytes_of_word (k := 12) rfl (encSI_lt _ _)
theorem brx (f : SI) : Statement (.brx f) := bytes_of_word (k := 12) rfl (encSI_lt _ _)
theorem call (f : SI) : Statement (.call f) := bytes_of_word (k := 12) rfl (encSI_lt _ _)
theorem ret (f : SI) : Statement (.ret f) := bytes_of_word (k := 12) rfl (encSI_lt _ _)
theorem lpentReg (f : SI) : Statement (.lpentReg f) := bytes_of_word (k := 12) rfl (encSI_lt _ _)
theorem lpentImm (f : SI) : Statement (.lpentImm f) := bytes_of_word (k := 12) rfl (encSI_lt _ _)
theorem lpentTable (f : SI) : Statement (.lpentTable f) := bytes_of_word (k := 12) rfl (encSI_lt _ _)
theorem lpbrk (f : SI) : Statement (.lpbrk f) := bytes_of_word (k := 12) rfl (encSI_lt _ _)
theorem lget (f : SI) : Statement (.lget f) := bytes_of_word (k := 12) rfl (encSI_lt _ _)
theorem lset (f : SI) : Statement (.lset f) := bytes_of_word (k := 12) rfl (encSI_lt _ _)
theorem spawn (f : SX) : Statement (.spawn f) := bytes_of_word (k := 12) rfl (encSX_lt _ _)
theorem ld (f : SM) : Statement (.ld f) := bytes_of_word (k := 12) rfl (encSM_lt _ _)
theorem st (f : SM) : Statement (.st f) := bytes_of_word (k := 12) rfl (encSM_lt _ _)
theorem prf (f : SM) : Statement (.prf f) := bytes_of_word (k := 12) rfl (encSM_lt _ _)
theorem clean (f : SM) : Statement (.clean f) := bytes_of_word (k := 12) rfl (encSM_lt _ _)
theorem atadd (f : SM) : Statement (.atadd f) := bytes_of_word (k := 12) rfl (encSM_lt _ _)
theorem atand (f : SM) : Statement (.atand f) := bytes_of_word (k := 12) rfl (encSM_lt _ _)
theorem ator (f : SM) : Statement (.ator f) := bytes_of_word (k := 12) rfl (encSM_lt _ _)
theorem atxor (f : SM) : Statement (.atxor f) := bytes_of_word (k := 12) rfl (encSM_lt _ _)
theorem atmin (f : SM) : Statement (.atmin f) := bytes_of_word (k := 12) rfl (encSM_lt _ _)
theorem atmax (f : SM) : Statement (.atmax f) := bytes_of_word (k := 12) rfl (encSM_lt _ _)
theorem atswp (f : SM) : Statement (.atswp f) := bytes_of_word (k := 12) rfl (encSM_lt _ _)
theorem atcas (f : SM) : Statement (.atcas f) := bytes_of_word (k := 12) rfl (encSM_lt _ _)
theorem atfadd (f : SM) : Statement (.atfadd f) := bytes_of_word (k := 12) rfl (encSM_lt _ _)
theorem atfmax (f : SM) : Statement (.atfmax f) := bytes_of_word (k := 12) rfl (encSM_lt _ _)
theorem atfmin (f : SM) : Statement (.atfmin f) := bytes_of_word (k := 12) rfl (encSM_lt _ _)
theorem lathe (f : SM) : Statement (.lathe f) := bytes_of_word (k := 12) rfl (encSM_lt _ _)
theorem fence (f : SX) : Statement (.fence f) := bytes_of_word (k := 12) rfl (encSX_lt _ _)
theorem phreg (f : SX) : Statement (.phreg f) := bytes_of_word (k := 12) rfl (encSX_lt _ _)
theorem phdrop (f : SX) : Statement (.phdrop f) := bytes_of_word (k := 12) rfl (encSX_lt _ _)
theorem phsig (f : SX) : Statement (.phsig f) := bytes_of_word (k := 12) rfl (encSX_lt _ _)
theorem phwait (f : SX) : Statement (.phwait f) := bytes_of_word (k := 12) rfl (encSX_lt _ _)
theorem phsw (f : SX) : Statement (.phsw f) := bytes_of_word (k := 12) rfl (encSX_lt _ _)
theorem semwReg (f : SX) : Statement (.semwReg f) := bytes_of_word (k := 12) rfl (encSX_lt _ _)
theorem semwImm (f : SX) : Statement (.semwImm f) := bytes_of_word (k := 12) rfl (encSX_lt _ _)
theorem semsReg (f : SX) : Statement (.semsReg f) := bytes_of_word (k := 12) rfl (encSX_lt _ _)
theorem semsImm (f : SX) : Statement (.semsImm f) := bytes_of_word (k := 12) rfl (encSX_lt _ _)
theorem calchk (f : SX) : Statement (.calchk f) := bytes_of_word (k := 12) rfl (encSX_lt _ _)
theorem rdcnt (f : SX) : Statement (.rdcnt f) := bytes_of_word (k := 12) rfl (encSX_lt _ _)
theorem rdcyc (f : SX) : Statement (.rdcyc f) := bytes_of_word (k := 12) rfl (encSX_lt _ _)
theorem qget (f : SX) : Statement (.qget f) := bytes_of_word (k := 12) rfl (encSX_lt _ _)
theorem qpeek (f : SX) : Statement (.qpeek f) := bytes_of_word (k := 12) rfl (encSX_lt _ _)
theorem qlen (f : SX) : Statement (.qlen f) := bytes_of_word (k := 12) rfl (encSX_lt _ _)
theorem qwait (f : SX) : Statement (.qwait f) := bytes_of_word (k := 12) rfl (encSX_lt _ _)
theorem qwaitTimeout (f : SX) : Statement (.qwaitTimeout f) := bytes_of_word (k := 12) rfl (encSX_lt _ _)
theorem spin (f : SX) : Statement (.spin f) := bytes_of_word (k := 12) rfl (encSX_lt _ _)
theorem spflush (f : SX) : Statement (.spflush f) := bytes_of_word (k := 12) rfl (encSX_lt _ _)
theorem spend (f : SX) : Statement (.spend f) := bytes_of_word (k := 12) rfl (encSX_lt _ _)
theorem mfsr (f : SX) : Statement (.mfsr f) := bytes_of_word (k := 12) rfl (encSX_lt _ _)
theorem mtsr (f : SX) : Statement (.mtsr f) := bytes_of_word (k := 12) rfl (encSX_lt _ _)
theorem trap (f : SX) : Statement (.trap f) := bytes_of_word (k := 12) rfl (encSX_lt _ _)
theorem eret (f : SX) : Statement (.eret f) := bytes_of_word (k := 12) rfl (encSX_lt _ _)
theorem cxsw (f : SX) : Statement (.cxsw f) := bytes_of_word (k := 12) rfl (encSX_lt _ _)
theorem yield (f : SX) : Statement (.yield f) := bytes_of_word (k := 12) rfl (encSX_lt _ _)
theorem snap (f : SX) : Statement (.snap f) := bytes_of_word (k := 12) rfl (encSX_lt _ _)
theorem hcall (f : SX) : Statement (.hcall f) := bytes_of_word (k := 12) rfl (encSX_lt _ _)
theorem trapctlWrite (f : SX) : Statement (.trapctlWrite f) := bytes_of_word (k := 12) rfl (encSX_lt _ _)
theorem engineSharedRegisterWrite (f : SX) : Statement (.engineSharedRegisterWrite f) := bytes_of_word (k := 12) rfl (encSX_lt _ _)
theorem calcfgWrite (f : SX) : Statement (.calcfgWrite f) := bytes_of_word (k := 12) rfl (encSX_lt _ _)
theorem calcmdClr (f : SX) : Statement (.calcmdClr f) := bytes_of_word (k := 12) rfl (encSX_lt _ _)
theorem perfselWrite (f : SX) : Statement (.perfselWrite f) := bytes_of_word (k := 12) rfl (encSX_lt _ _)
theorem vadd (f : VR) : Statement (.vadd f) := bytes_of_word (k := 12) rfl (encVR_lt _ _)
theorem vsub (f : VR) : Statement (.vsub f) := bytes_of_word (k := 12) rfl (encVR_lt _ _)
theorem vmul (f : VR) : Statement (.vmul f) := bytes_of_word (k := 12) rfl (encVR_lt _ _)
theorem vfma (f : VR) : Statement (.vfma f) := bytes_of_word (k := 12) rfl (encVR_lt _ _)
theorem vfms (f : VR) : Statement (.vfms f) := bytes_of_word (k := 12) rfl (encVR_lt _ _)
theorem vfnma (f : VR) : Statement (.vfnma f) := bytes_of_word (k := 12) rfl (encVR_lt _ _)
theorem vdiv (f : VR) : Statement (.vdiv f) := bytes_of_word (k := 12) rfl (encVR_lt _ _)
theorem vsqrt (f : VR) : Statement (.vsqrt f) := bytes_of_word (k := 12) rfl (encVR_lt _ _)
theorem vrsqrt (f : VR) : Statement (.vrsqrt f) := bytes_of_word (k := 12) rfl (encVR_lt _ _)
theorem vrcp (f : VR) : Statement (.vrcp f) := bytes_of_word (k := 12) rfl (encVR_lt _ _)
theorem vexp2 (f : VR) : Statement (.vexp2 f) := bytes_of_word (k := 12) rfl (encVR_lt _ _)
theorem vlog2 (f : VR) : Statement (.vlog2 f) := bytes_of_word (k := 12) rfl (encVR_lt _ _)
theorem vmin (f : VR) : Statement (.vmin f) := bytes_of_word (k := 12) rfl (encVR_lt _ _)
theorem vmax (f : VR) : Statement (.vmax f) := bytes_of_word (k := 12) rfl (encVR_lt _ _)
theorem vabs (f : VR) : Statement (.vabs f) := bytes_of_word (k := 12) rfl (encVR_lt _ _)
theorem vneg (f : VR) : Statement (.vneg f) := bytes_of_word (k := 12) rfl (encVR_lt _ _)
theorem vand (f : VR) : Statement (.vand f) := bytes_of_word (k := 12) rfl (encVR_lt _ _)
theorem vor (f : VR) : Statement (.vor f) := bytes_of_word (k := 12) rfl (encVR_lt _ _)
theorem vxor (f : VR) : Statement (.vxor f) := bytes_of_word (k := 12) rfl (encVR_lt _ _)
theorem vnot (f : VR) : Statement (.vnot f) := bytes_of_word (k := 12) rfl (encVR_lt _ _)
theorem vshl (f : VR) : Statement (.vshl f) := bytes_of_word (k := 12) rfl (encVR_lt _ _)
theorem vshr (f : VR) : Statement (.vshr f) := bytes_of_word (k := 12) rfl (encVR_lt _ _)
theorem vmulh (f : VR) : Statement (.vmulh f) := bytes_of_word (k := 12) rfl (encVR_lt _ _)
theorem vclz (f : VR) : Statement (.vclz f) := bytes_of_word (k := 12) rfl (encVR_lt _ _)
theorem vpopc (f : VR) : Statement (.vpopc f) := bytes_of_word (k := 12) rfl (encVR_lt _ _)
theorem vtanh (f : VR) : Statement (.vtanh f) := bytes_of_word (k := 12) rfl (encVR_lt _ _)
theorem verf (f : VR) : Statement (.verf f) := bytes_of_word (k := 12) rfl (encVR_lt _ _)
theorem vmov (f : VR) : Statement (.vmov f) := bytes_of_word (k := 12) rfl (encVR_lt _ _)
theorem viota (f : VR) : Statement (.viota f) := bytes_of_word (k := 12) rfl (encVR_lt _ _)
theorem vcmpeq (f : VR) : Statement (.vcmpeq f) := bytes_of_word (k := 12) rfl (encVR_lt _ _)
theorem vcmpne (f : VR) : Statement (.vcmpne f) := bytes_of_word (k := 12) rfl (encVR_lt _ _)
theorem vcmplt (f : VR) : Statement (.vcmplt f) := bytes_of_word (k := 12) rfl (encVR_lt _ _)
theorem vcmple (f : VR) : Statement (.vcmple f) := bytes_of_word (k := 12) rfl (encVR_lt _ _)
theorem vcmpun (f : VR) : Statement (.vcmpun f) := bytes_of_word (k := 12) rfl (encVR_lt _ _)
theorem vclass (f : VR) : Statement (.vclass f) := bytes_of_word (k := 12) rfl (encVR_lt _ _)
theorem vsel (f : VR) : Statement (.vsel f) := bytes_of_word (k := 12) rfl (encVR_lt _ _)
theorem vcvt (f : VR) : Statement (.vcvt f) := bytes_of_word (k := 12) rfl (encVR_lt _ _)
theorem vmxq (f : VR) : Statement (.vmxq f) := bytes_of_word (k := 12) rfl (encVR_lt _ _)
theorem vmxd (f : VR) : Statement (.vmxd f) := bytes_of_word (k := 12) rfl (encVR_lt _ _)
theorem kand (f : VR) : Statement (.kand f) := bytes_of_word (k := 12) rfl (encVR_lt _ _)
theorem kor (f : VR) : Statement (.kor f) := bytes_of_word (k := 12) rfl (encVR_lt _ _)
theorem kxor (f : VR) : Statement (.kxor f) := bytes_of_word (k := 12) rfl (encVR_lt _ _)
theorem knot (f : VR) : Statement (.knot f) := bytes_of_word (k := 12) rfl (encVR_lt _ _)
theorem kmov (f : VR) : Statement (.kmov f) := bytes_of_word (k := 12) rfl (encVR_lt _ _)
theorem kmovFromScalar (f : VR) : Statement (.kmovFromScalar f) := bytes_of_word (k := 12) rfl (encVR_lt _ _)
theorem kmovToScalar (f : VR) : Statement (.kmovToScalar f) := bytes_of_word (k := 12) rfl (encVR_lt _ _)
theorem kpop (f : VR) : Statement (.kpop f) := bytes_of_word (k := 12) rfl (encVR_lt _ _)
theorem vredsum (f : VR) : Statement (.vredsum f) := bytes_of_word (k := 12) rfl (encVR_lt _ _)
theorem vredmax (f : VR) : Statement (.vredmax f) := bytes_of_word (k := 12) rfl (encVR_lt _ _)
theorem vredmin (f : VR) : Statement (.vredmin f) := bytes_of_word (k := 12) rfl (encVR_lt _ _)
theorem vscan (f : VR) : Statement (.vscan f) := bytes_of_word (k := 12) rfl (encVR_lt _ _)
theorem vscanmax (f : VR) : Statement (.vscanmax f) := bytes_of_word (k := 12) rfl (encVR_lt _ _)
theorem vtopk (f : VR) : Statement (.vtopk f) := bytes_of_word (k := 12) rfl (encVR_lt _ _)
theorem vargmax (f : VR) : Statement (.vargmax f) := bytes_of_word (k := 12) rfl (encVR_lt _ _)
theorem vrng (f : VR) : Statement (.vrng f) := bytes_of_word (k := 12) rfl (encVR_lt _ _)
theorem vperm (f : VR) : Statement (.vperm f) := bytes_of_word (k := 12) rfl (encVR_lt _ _)
theorem vrot (f : VR) : Statement (.vrot f) := bytes_of_word (k := 12) rfl (encVR_lt _ _)
theorem vzip (f : VR) : Statement (.vzip f) := bytes_of_word (k := 12) rfl (encVR_lt _ _)
theorem vunzip (f : VR) : Statement (.vunzip f) := bytes_of_word (k := 12) rfl (encVR_lt _ _)
theorem vtrn (f : VR) : Statement (.vtrn f) := bytes_of_word (k := 12) rfl (encVR_lt _ _)
theorem vcompress (f : VR) : Statement (.vcompress f) := bytes_of_word (k := 12) rfl (encVR_lt _ _)
theorem vexpand (f : VR) : Statement (.vexpand f) := bytes_of_word (k := 12) rfl (encVR_lt _ _)
theorem vrev (f : VR) : Statement (.vrev f) := bytes_of_word (k := 12) rfl (encVR_lt _ _)
theorem vld (f : VS) : Statement (.vld f) := bytes_of_word (k := 12) rfl (encVS_lt _ _)
theorem vst (f : VS) : Statement (.vst f) := bytes_of_word (k := 12) rfl (encVS_lt _ _)
theorem vldx (f : VS) : Statement (.vldx f) := bytes_of_word (k := 12) rfl (encVS_lt _ _)
theorem vstx (f : VS) : Statement (.vstx f) := bytes_of_word (k := 12) rfl (encVS_lt _ _)
theorem tld (f : VS) : Statement (.tld f) := bytes_of_word (k := 12) rfl (encVS_lt _ _)
theorem tst (f : VS) : Statement (.tst f) := bytes_of_word (k := 12) rfl (encVS_lt _ _)
theorem vgld (f : VS) : Statement (.vgld f) := bytes_of_word (k := 12) rfl (encVS_lt _ _)
theorem vgst (f : VS) : Statement (.vgst f) := bytes_of_word (k := 12) rfl (encVS_lt _ _)
theorem tzero (f : VS) : Statement (.tzero f) := bytes_of_word (k := 12) rfl (encVS_lt _ _)
theorem rep (f : VP) : Statement (.rep f) := bytes_of_word (k := 12) rfl (encVP_lt _ _)
theorem mma (f : MM) : Statement (.mma f) := bytes_of_word (k := 12) rfl (encMM_lt _ _)
theorem mmt (f : MM) : Statement (.mmt f) := bytes_of_word (k := 12) rfl (encMM_lt _ _)
theorem mzero (f : MA) : Statement (.mzero f) := bytes_of_word (k := 12) rfl (encMA_lt _ _)
theorem mscale (f : MA) : Statement (.mscale f) := bytes_of_word (k := 12) rfl (encMA_lt _ _)
theorem mbias (f : MA) : Statement (.mbias f) := bytes_of_word (k := 12) rfl (encMA_lt _ _)
theorem mstTile (f : MA) : Statement (.mstTile f) := bytes_of_word (k := 12) rfl (encMA_lt _ _)
theorem mstScratchpad (f : MA) : Statement (.mstScratchpad f) := bytes_of_word (k := 12) rfl (encMA_lt _ _)
theorem mldTile (f : MA) : Statement (.mldTile f) := bytes_of_word (k := 12) rfl (encMA_lt _ _)
theorem mldScratchpad (f : MA) : Statement (.mldScratchpad f) := bytes_of_word (k := 12) rfl (encMA_lt _ _)
theorem mcopy (f : MA) : Statement (.mcopy f) := bytes_of_word (k := 12) rfl (encMA_lt _ _)
theorem mskip (f : MA) : Statement (.mskip f) := bytes_of_word (k := 12) rfl (encMA_lt _ _)
theorem msave (f : MA) : Statement (.msave f) := bytes_of_word (k := 12) rfl (encMA_lt _ _)
theorem mrestore (f : MA) : Statement (.mrestore f) := bytes_of_word (k := 12) rfl (encMA_lt _ _)
theorem cp (f : CC) : Statement (.cp f) := bytes_of_word (k := 12) rfl (encCC_lt _ _)
theorem cpr (f : CC) : Statement (.cpr f) := bytes_of_word (k := 12) rfl (encCC_lt _ _)
theorem cpt (f : CC) : Statement (.cpt f) := bytes_of_word (k := 12) rfl (encCC_lt _ _)
theorem cptw (f : CC) : Statement (.cptw f) := bytes_of_word (k := 12) rfl (encCC_lt _ _)
theorem cpfill (f : CC) : Statement (.cpfill f) := bytes_of_word (k := 12) rfl (encCC_lt _ _)
theorem csem (f : CC) : Statement (.csem f) := bytes_of_word (k := 12) rfl (encCC_lt _ _)
theorem csemw (f : CC) : Statement (.csemw f) := bytes_of_word (k := 12) rfl (encCC_lt _ _)
theorem ringbind (f : CC) : Statement (.ringbind f) := bytes_of_word (k := 12) rfl (encCC_lt _ _)
theorem bobbind (f : CC) : Statement (.bobbind f) := bytes_of_word (k := 12) rfl (encCC_lt _ _)
theorem unbind (f : CC) : Statement (.unbind f) := bytes_of_word (k := 12) rfl (encCC_lt _ _)
theorem ringfill (f : CC) : Statement (.ringfill f) := bytes_of_word (k := 12) rfl (encCC_lt _ _)
theorem fget (f : CC) : Statement (.fget f) := bytes_of_word (k := 12) rfl (encCC_lt _ _)
theorem fput (f : CC) : Statement (.fput f) := bytes_of_word (k := 12) rfl (encCC_lt _ _)
theorem cgsum (f : CC) : Statement (.cgsum f) := bytes_of_word (k := 12) rfl (encCC_lt _ _)
theorem fsum (f : CC) : Statement (.fsum f) := bytes_of_word (k := 12) rfl (encCC_lt _ _)
theorem cprime (f : CC) : Statement (.cprime f) := bytes_of_word (k := 12) rfl (encCC_lt _ _)
theorem gjDispatch (d : BitVec 5) (a : BitVec 5) (b : BitVec 5) : Statement (.gjDispatch d a b) := bytes_of_word (k := 4) rfl (encGj_lt _ _ _ _)
theorem gjJoin (d : BitVec 5) (a : BitVec 5) (b : BitVec 5) : Statement (.gjJoin d a b) := bytes_of_word (k := 4) rfl (encGj_lt _ _ _ _)
theorem sliceDone (a : BitVec 3) : Statement (.sliceDone a) := bytes_of_word (k := 4) rfl (encSlice_lt _ _ _ _ _)
theorem sliceFail (c : BitVec 16) : Statement (.sliceFail c) := bytes_of_word (k := 4) rfl (encSlice_lt _ _ _ _ _)
theorem sliceSkip (a : BitVec 3) (b : BitVec 3) (c : BitVec 2) (u : BitVec 1) (n : BitVec 5) : Statement (.sliceSkip a b c u n) := bytes_of_word (k := 4) rfl (encSlice_lt _ _ _ _ _)
theorem sliceLi (d : BitVec 3) (i : BitVec 24) : Statement (.sliceLi d i) := bytes_of_word (k := 4) rfl (packBits_lt_of (n := 32) (by simp))
theorem sliceAddi (d : BitVec 3) (a : BitVec 3) (x : BitVec 18) : Statement (.sliceAddi d a x) := bytes_of_word (k := 4) rfl (encSlice_lt _ _ _ _ _)
theorem sliceAdd (d : BitVec 3) (a : BitVec 3) (b : BitVec 3) : Statement (.sliceAdd d a b) := bytes_of_word (k := 4) rfl (encSlice_lt _ _ _ _ _)
theorem sliceSub (d : BitVec 3) (a : BitVec 3) (b : BitVec 3) : Statement (.sliceSub d a b) := bytes_of_word (k := 4) rfl (encSlice_lt _ _ _ _ _)
theorem sliceAnd (d : BitVec 3) (a : BitVec 3) (b : BitVec 3) : Statement (.sliceAnd d a b) := bytes_of_word (k := 4) rfl (encSlice_lt _ _ _ _ _)
theorem sliceOr (d : BitVec 3) (a : BitVec 3) (b : BitVec 3) : Statement (.sliceOr d a b) := bytes_of_word (k := 4) rfl (encSlice_lt _ _ _ _ _)
theorem sliceXor (d : BitVec 3) (a : BitVec 3) (b : BitVec 3) : Statement (.sliceXor d a b) := bytes_of_word (k := 4) rfl (encSlice_lt _ _ _ _ _)
theorem sliceShl (d : BitVec 3) (a : BitVec 3) (b : BitVec 3) : Statement (.sliceShl d a b) := bytes_of_word (k := 4) rfl (encSlice_lt _ _ _ _ _)
theorem sliceShr (d : BitVec 3) (a : BitVec 3) (b : BitVec 3) : Statement (.sliceShr d a b) := bytes_of_word (k := 4) rfl (encSlice_lt _ _ _ _ _)
theorem sliceSra (d : BitVec 3) (a : BitVec 3) (b : BitVec 3) : Statement (.sliceSra d a b) := bytes_of_word (k := 4) rfl (encSlice_lt _ _ _ _ _)
theorem sliceMul (d : BitVec 3) (a : BitVec 3) (b : BitVec 3) : Statement (.sliceMul d a b) := bytes_of_word (k := 4) rfl (encSlice_lt _ _ _ _ _)
theorem sliceMin (d : BitVec 3) (a : BitVec 3) (b : BitVec 3) (t : BitVec 1) : Statement (.sliceMin d a b t) := bytes_of_word (k := 4) rfl (encSlice_lt _ _ _ _ _)
theorem sliceMax (d : BitVec 3) (a : BitVec 3) (b : BitVec 3) (t : BitVec 1) : Statement (.sliceMax d a b t) := bytes_of_word (k := 4) rfl (encSlice_lt _ _ _ _ _)
theorem sliceLld (d : BitVec 3) (s : BitVec 2) (e : BitVec 1) (o : BitVec 6) : Statement (.sliceLld d s e o) := bytes_of_word (k := 4) rfl (encSlice_lt _ _ _ _ _)
theorem sliceLldx (d : BitVec 3) (a : BitVec 3) (s : BitVec 2) (e : BitVec 1) (o : BitVec 6) : Statement (.sliceLldx d a s e o) := bytes_of_word (k := 4) rfl (encSlice_lt _ _ _ _ _)
theorem sliceLst (a : BitVec 3) (s : BitVec 2) (o : BitVec 6) : Statement (.sliceLst a s o) := bytes_of_word (k := 4) rfl (encSlice_lt _ _ _ _ _)
theorem sliceLstx (a : BitVec 3) (b : BitVec 3) (s : BitVec 2) (o : BitVec 6) : Statement (.sliceLstx a b s o) := bytes_of_word (k := 4) rfl (encSlice_lt _ _ _ _ _)
theorem sliceFadd (d : BitVec 3) (a : BitVec 3) (b : BitVec 3) (t : BitVec 1) : Statement (.sliceFadd d a b t) := bytes_of_word (k := 4) rfl (encSlice_lt _ _ _ _ _)
theorem sliceFmax (d : BitVec 3) (a : BitVec 3) (b : BitVec 3) : Statement (.sliceFmax d a b) := bytes_of_word (k := 4) rfl (encSlice_lt _ _ _ _ _)
theorem sliceFmin (d : BitVec 3) (a : BitVec 3) (b : BitVec 3) : Statement (.sliceFmin d a b) := bytes_of_word (k := 4) rfl (encSlice_lt _ _ _ _ _)
theorem unassignedOpcode (e : Engine) (w : IWord) : Statement (.unassignedOpcode e w) := bytes_of_word (k := 12) rfl w.isLt
theorem rdvRelease : Statement (.rdvRelease) := bytes_of_word (k := 0) rfl (by decide)
theorem hcallReply : Statement (.hcallReply) := bytes_of_word (k := 0) rfl (by decide)
theorem repetition : Statement (.repetition) := bytes_of_word (k := 0) rfl (by decide)
theorem matrixCommandStart : Statement (.matrixCommandStart) := bytes_of_word (k := 0) rfl (by decide)
theorem matrixCommandRetire : Statement (.matrixCommandRetire) := bytes_of_word (k := 0) rfl (by decide)
theorem copyCommandStart : Statement (.copyCommandStart) := bytes_of_word (k := 0) rfl (by decide)
theorem copyGranule : Statement (.copyGranule) := bytes_of_word (k := 0) rfl (by decide)
theorem copyCommandRetire : Statement (.copyCommandRetire) := bytes_of_word (k := 0) rfl (by decide)
theorem patternPortPush : Statement (.patternPortPush) := bytes_of_word (k := 0) rfl (by decide)
theorem patternPortDrainPop : Statement (.patternPortDrainPop) := bytes_of_word (k := 0) rfl (by decide)
theorem sectionIssue : Statement (.sectionIssue) := bytes_of_word (k := 0) rfl (by decide)
theorem gangPassStart : Statement (.gangPassStart) := bytes_of_word (k := 0) rfl (by decide)
theorem gangFreezeLift : Statement (.gangFreezeLift) := bytes_of_word (k := 0) rfl (by decide)
theorem trapAreaWrite : Statement (.trapAreaWrite) := bytes_of_word (k := 0) rfl (by decide)
theorem sliceAdmission : Statement (.sliceAdmission) := bytes_of_word (k := 0) rfl (by decide)
theorem sliceLineFill : Statement (.sliceLineFill) := bytes_of_word (k := 0) rfl (by decide)
theorem builtinAtomicRun : Statement (.builtinAtomicRun) := bytes_of_word (k := 0) rfl (by decide)
theorem routineRun : Statement (.routineRun) := bytes_of_word (k := 0) rfl (by decide)
theorem translationFill : Statement (.translationFill) := bytes_of_word (k := 0) rfl (by decide)
theorem invalidationAck : Statement (.invalidationAck) := bytes_of_word (k := 0) rfl (by decide)
theorem scrubZeroFillEnd : Statement (.scrubZeroFillEnd) := bytes_of_word (k := 0) rfl (by decide)
theorem migrationPartMoved : Statement (.migrationPartMoved) := bytes_of_word (k := 0) rfl (by decide)
theorem segmentVerified : Statement (.segmentVerified) := bytes_of_word (k := 0) rfl (by decide)
theorem arrivalBoundExpiry : Statement (.arrivalBoundExpiry) := bytes_of_word (k := 0) rfl (by decide)
theorem chunkTimeout : Statement (.chunkTimeout) := bytes_of_word (k := 0) rfl (by decide)
theorem requestMessage : Statement (.requestMessage) := bytes_of_word (k := 0) rfl (by decide)
theorem hackleTokenisation : Statement (.hackleTokenisation) := bytes_of_word (k := 0) rfl (by decide)
theorem requestAppend : Statement (.requestAppend) := bytes_of_word (k := 0) rfl (by decide)
theorem vudricFlitReceive : Statement (.vudricFlitReceive) := bytes_of_word (k := 0) rfl (by decide)
theorem dispatcherDecision : Statement (.dispatcherDecision) := bytes_of_word (k := 0) rfl (by decide)
theorem multiDieReservationGrant : Statement (.multiDieReservationGrant) := bytes_of_word (k := 0) rfl (by decide)
theorem multiDieReservationTimeout : Statement (.multiDieReservationTimeout) := bytes_of_word (k := 0) rfl (by decide)
theorem periodRelease : Statement (.periodRelease) := bytes_of_word (k := 0) rfl (by decide)
theorem budgetExhausted : Statement (.budgetExhausted) := bytes_of_word (k := 0) rfl (by decide)
theorem quantumEnd : Statement (.quantumEnd) := bytes_of_word (k := 0) rfl (by decide)
theorem starvation : Statement (.starvation) := bytes_of_word (k := 0) rfl (by decide)
theorem deadlineOverrun : Statement (.deadlineOverrun) := bytes_of_word (k := 0) rfl (by decide)
theorem preemptionRequest : Statement (.preemptionRequest) := bytes_of_word (k := 0) rfl (by decide)
theorem engineHold : Statement (.engineHold) := bytes_of_word (k := 0) rfl (by decide)
theorem drainCut : Statement (.drainCut) := bytes_of_word (k := 0) rfl (by decide)
theorem jobSaveComplete : Statement (.jobSaveComplete) := bytes_of_word (k := 0) rfl (by decide)
theorem scratchpadGranuleExchange : Statement (.scratchpadGranuleExchange) := bytes_of_word (k := 0) rfl (by decide)
theorem bankThrottle : Statement (.bankThrottle) := bytes_of_word (k := 0) rfl (by decide)
theorem thermalTrip : Statement (.thermalTrip) := bytes_of_word (k := 0) rfl (by decide)
theorem uncorrectableError : Statement (.uncorrectableError) := bytes_of_word (k := 0) rfl (by decide)
theorem partitionBackInService : Statement (.partitionBackInService) := bytes_of_word (k := 0) rfl (by decide)
theorem moduleReset : Statement (.moduleReset) := bytes_of_word (k := 0) rfl (by decide)
theorem bootStep : Statement (.bootStep) := bytes_of_word (k := 0) rfl (by decide)
theorem recoveryImage : Statement (.recoveryImage) := bytes_of_word (k := 0) rfl (by decide)
theorem hotReset : Statement (.hotReset) := bytes_of_word (k := 0) rfl (by decide)
theorem virtioNetMessage : Statement (.virtioNetMessage) := bytes_of_word (k := 0) rfl (by decide)
theorem snapshotTrigger : Statement (.snapshotTrigger) := bytes_of_word (k := 0) rfl (by decide)
theorem gjJoinTimeout : Statement (.gjJoinTimeout) := bytes_of_word (k := 0) rfl (by decide)
theorem controlBlockWrite : Statement (.controlBlockWrite) := bytes_of_word (k := 0) rfl (by decide)
theorem controlBlockRead : Statement (.controlBlockRead) := bytes_of_word (k := 0) rfl (by decide)
theorem contractSubmission : Statement (.contractSubmission) := bytes_of_word (k := 0) rfl (by decide)
theorem contractWithdrawal : Statement (.contractWithdrawal) := bytes_of_word (k := 0) rfl (by decide)
theorem dispatcherParameterWrite : Statement (.dispatcherParameterWrite) := bytes_of_word (k := 0) rfl (by decide)
theorem microContextRetire : Statement (.microContextRetire) := bytes_of_word (k := 0) rfl (by decide)
theorem faultClear : Statement (.faultClear) := bytes_of_word (k := 0) rfl (by decide)
theorem controlBlockInstall : Statement (.controlBlockInstall) := bytes_of_word (k := 0) rfl (by decide)
theorem preemptCommand : Statement (.preemptCommand) := bytes_of_word (k := 0) rfl (by decide)
theorem shset : Statement (.shset) := bytes_of_word (k := 0) rfl (by decide)
theorem shclr : Statement (.shclr) := bytes_of_word (k := 0) rfl (by decide)
theorem shroot : Statement (.shroot) := bytes_of_word (k := 0) rfl (by decide)
theorem tlbEntryRead : Statement (.tlbEntryRead) := bytes_of_word (k := 0) rfl (by decide)
theorem ownershipEntryRead : Statement (.ownershipEntryRead) := bytes_of_word (k := 0) rfl (by decide)
theorem frameAssign : Statement (.frameAssign) := bytes_of_word (k := 0) rfl (by decide)
theorem frameFree : Statement (.frameFree) := bytes_of_word (k := 0) rfl (by decide)
theorem migration : Statement (.migration) := bytes_of_word (k := 0) rfl (by decide)
theorem readDuplicate : Statement (.readDuplicate) := bytes_of_word (k := 0) rfl (by decide)
theorem segmentShare : Statement (.segmentShare) := bytes_of_word (k := 0) rfl (by decide)
theorem sealPages : Statement (.sealPages) := bytes_of_word (k := 0) rfl (by decide)
theorem keyWrite : Statement (.keyWrite) := bytes_of_word (k := 0) rfl (by decide)
theorem routineInstallation : Statement (.routineInstallation) := bytes_of_word (k := 0) rfl (by decide)
theorem routineClearing : Statement (.routineClearing) := bytes_of_word (k := 0) rfl (by decide)
theorem routineMapWrite : Statement (.routineMapWrite) := bytes_of_word (k := 0) rfl (by decide)
theorem slotRecordRead : Statement (.slotRecordRead) := bytes_of_word (k := 0) rfl (by decide)
theorem vocabularyLoad : Statement (.vocabularyLoad) := bytes_of_word (k := 0) rfl (by decide)
theorem vocabularyUnload : Statement (.vocabularyUnload) := bytes_of_word (k := 0) rfl (by decide)
theorem vstatRead : Statement (.vstatRead) := bytes_of_word (k := 0) rfl (by decide)
theorem contextKeyInstall : Statement (.contextKeyInstall) := bytes_of_word (k := 0) rfl (by decide)
theorem replayCommand : Statement (.replayCommand) := bytes_of_word (k := 0) rfl (by decide)
theorem attestationCommand : Statement (.attestationCommand) := bytes_of_word (k := 0) rfl (by decide)
theorem fabricGroupWrite : Statement (.fabricGroupWrite) := bytes_of_word (k := 0) rfl (by decide)
theorem runLengthSet : Statement (.runLengthSet) := bytes_of_word (k := 0) rfl (by decide)
theorem snapshotRecordRead : Statement (.snapshotRecordRead) := bytes_of_word (k := 0) rfl (by decide)
theorem counterRead : Statement (.counterRead) := bytes_of_word (k := 0) rfl (by decide)
theorem bootStepClear : Statement (.bootStepClear) := bytes_of_word (k := 0) rfl (by decide)
theorem powerLoss : Statement (.powerLoss) := bytes_of_word (k := 0) rfl (by decide)
theorem virtioDeviceStatus : Statement (.virtioDeviceStatus) := bytes_of_word (k := 0) rfl (by decide)
theorem hostTierLending : Statement (.hostTierLending) := bytes_of_word (k := 0) rfl (by decide)
theorem arrivalBoundSet : Statement (.arrivalBoundSet) := bytes_of_word (k := 0) rfl (by decide)
theorem serviceCoreInterrupt : Statement (.serviceCoreInterrupt) := bytes_of_word (k := 0) rfl (by decide)
theorem vocabularyLoadEnd : Statement (.vocabularyLoadEnd) := bytes_of_word (k := 0) rfl (by decide)
theorem sharingEnd : Statement (.sharingEnd) := bytes_of_word (k := 0) rfl (by decide)
theorem transportKeyInstall : Statement (.transportKeyInstall) := bytes_of_word (k := 0) rfl (by decide)

end Sys2Proof.Laws.Encoding
end

