-- ==== Sys2Proof/Laws/Words.lean ====
section
/-!
SUPPORT. What running a word comes to once it is at issue, and what issuing leaves alone.
-/
namespace Sys2Proof.Machine

theorem fateCause_nil : fateCause [] = none := rfl

/-- A word at issue does what its body says. -/
theorem runWord_atIssue {s : State} {n : Nat} {sel : Sel} {j : Job} {i : Instr} {g : Guard} {regs preds : List Nat}
    (h : AtIssue s n sel j i g regs preds) (body : Nat → Sel → Job → Act) :
    runWord i g regs preds s body =
      match body n sel j with
      | .done s1 cmd => .next ((s1.updJob n (·.retireWord sel cmd)).unstalled n sel.engine)
      | .stay s1 => .next s1
      | .wait => .next s
      | .stall va k => .next (s.stalled n sel.engine va k)
      | .jump s1 t => .next ((s1.updJob n (·.branch sel t)).unstalled n sel.engine)
      | .trap t s1 => .next (if j.trapHeld sel then s else (s1.takeTrap n sel t).unstalled n sel.engine) := by
  have hr : regs.any j.pendS = false := by simpa using h.regsReady
  have hp : preds.any j.pendP = false := by simpa using h.predsReady
  have hg : ¬ (j.rp g.pred.toNat = decide (g.neg = 1)) := by
    rw [h.holds]
    have : g.neg = 0 ∨ g.neg = 1 := by
      generalize g.neg = x; revert x; decide
    rcases this with e | e <;> simp [e]
  unfold runWord
  simp only [h.turn, h.job, h.free, h.legal, fateCause_nil, h.ready, hr, hp]
  simp only [Bool.not_true, Bool.false_eq_true, if_false, Bool.or_self]
  rw [if_neg hg]
  cases sel with
  | hm => rw [h.handler rfl] <;> rfl
  | _ => rfl

section
variable {s : State} {n : Nat} {sel : Sel} {j : Job} {i : Instr} {g : Guard} {regs preds : List Nat} {body : Nat → Sel → Job → Act}

theorem runWord_done (h : AtIssue s n sel j i g regs preds) {k : Job} (hb : body n sel j = .done (s.setJob n k) 0) :
    runWord i g regs preds s body = .next (s.issued n sel k) := by
  rw [runWord_atIssue h, hb]; simp [State.issued]

theorem runWord_commanded (h : AtIssue s n sel j i g regs preds) {k : Job} (hb : body n sel j = .done (s.setJob n k) 1) :
    runWord i g regs preds s body = .next (s.commanded n sel k) := by
  rw [runWord_atIssue h, hb]; simp [State.commanded]

theorem runWord_jump (h : AtIssue s n sel j i g regs preds) {k : Job} {t : Nat} (hb : body n sel j = .jump (s.setJob n k) t) :
    runWord i g regs preds s body = .next (s.branched n sel k t) := by
  rw [runWord_atIssue h, hb]; simp [State.branched]

theorem runWord_trap (h : AtIssue s n sel j i g regs preds) (ht : j.trapHeld sel = false) {t : Trap} {s1 : State}
    (hb : body n sel j = .trap t s1) : runWord i g regs preds s body = .next ((s1.takeTrap n sel t).unstalled n sel.engine) := by
  rw [runWord_atIssue h, hb]; simp [ht]

theorem runWord_stall (h : AtIssue s n sel j i g regs preds) {va : Nat} {k : AccessKind} (hb : body n sel j = .stall va k) :
    runWord i g regs preds s body = .next (s.stalled n sel.engine va k) := by rw [runWord_atIssue h, hb]

theorem runWord_wait (h : AtIssue s n sel j i g regs preds) (hb : body n sel j = .wait) : runWord i g regs preds s body = .next s := by
  rw [runWord_atIssue h, hb]

theorem runWord_stay (h : AtIssue s n sel j i g regs preds) {s1 : State} (hb : body n sel j = .stay s1) :
    runWord i g regs preds s body = .next s1 := by rw [runWord_atIssue h, hb]

end

theorem runJob_atIssue {s : State} {n : Nat} {sel : Sel} {j : Job} {i : Instr} {g : Guard} {regs preds : List Nat}
    (h : AtIssue s n sel j i g regs preds) (f : Job → Job) : runJob i g regs preds s f = .next (s.issued n sel (f j)) :=
  runWord_done h rfl

theorem runJob?_atIssue {s : State} {n : Nat} {sel : Sel} {j : Job} {i : Instr} {g : Guard} {regs preds : List Nat}
    (h : AtIssue s n sel j i g regs preds) (f : Job → Except Trap Job) (j1 : Job) (hf : f j = .ok j1) :
    runJob? i g regs preds s f = .next (s.issued n sel j1) :=
  runWord_done h (by rw [hf])

theorem runJob?_trap {s : State} {n : Nat} {sel : Sel} {j : Job} {i : Instr} {g : Guard} {regs preds : List Nat}
    (h : AtIssue s n sel j i g regs preds) (ht : j.trapHeld sel = false) (f : Job → Except Trap Job) (t : Trap) (hf : f j = .error t) :
    runJob? i g regs preds s f = .next ((s.takeTrap n sel t).unstalled n sel.engine) :=
  runWord_trap h ht (by rw [hf])

end Sys2Proof.Machine
end

