-- ==== Sys2Proof/Laws/Retire.lean ====
section
/-!
SUPPORT. What the retirement of a word, a command or a section leaves of a job: all but its streams, loop levels, bound registers,
counters and repeat registers.
-/
namespace Sys2Proof.Machine

@[simp] theorem Job.kept_ws (j : Job) (r : Nat) (v : Word) : (j.ws r v).kept = j.kept := by unfold Job.ws; split <;> rfl
@[simp] theorem Job.kept_wl (j : Job) (n v : Nat) : (j.wl n v).kept = j.kept := rfl
@[simp] theorem Job.kept_setLevel (j : Job) (n : Nat) (x : Level) : (j.setLevel n x).kept = j.kept := rfl
@[simp] theorem Job.kept_updLevel (j : Job) (n : Nat) (f : Level → Level) : (j.updLevel n f).kept = j.kept := rfl
@[simp] theorem Job.kept_setStream (j : Job) (a : Sel) (x : Stream) : (j.setStream a x).kept = j.kept := by cases a <;> rfl
@[simp] theorem Job.kept_updStream (j : Job) (a : Sel) (f : Stream → Stream) : (j.updStream a f).kept = j.kept := Job.kept_setStream ..
@[simp] theorem Job.kept_updPreempt (j : Job) (f : Preempt → Preempt) : (j.updPreempt f).kept = j.kept := by
  unfold Job.updPreempt; split <;> rfl
@[simp] theorem Job.kept_stepBinds (j : Job) (n k : Nat) : (j.stepBinds n k).kept = j.kept := by
  unfold Job.stepBinds
  generalize (j.loop n).binds = l
  induction l generalizing j with
  | nil => rfl
  | cons b l ih => rw [List.foldl_cons, ih, Job.kept_ws]
@[simp] theorem Job.kept_finishArming (j : Job) (n : Nat) (e : Engine) (m : Pass) : (j.finishArming n e m).kept = j.kept := by
  unfold Job.finishArming; simp only
  split
  · rw [Job.kept_wl, Job.kept_setLevel, Job.kept_updLevel]
  · rw [Job.kept_updLevel]
@[simp] theorem Job.kept_passEnd (j : Job) (n : Nat) (e : Engine) : (j.passEnd n e).1.kept = j.kept := by
  unfold Job.passEnd; simp only
  split <;> split <;> simp
@[simp] theorem Job.kept_markGone (j : Job) (e : Engine) (n : Nat) : (j.markGone e n).kept = j.kept := by unfold Job.markGone; simp
@[simp] theorem Job.kept_sectionEnd (j : Job) (e : Engine) (f : Flight) : (j.sectionEnd e f).1.kept = j.kept := by
  unfold Job.sectionEnd; simp only [Job.kept_markGone]
  split <;> split <;> (try split) <;> simp
@[simp] theorem Job.kept_retireSection (j : Job) (sel : Sel) (f : Flight) : (j.retireSection sel f).kept = j.kept := by
  unfold Job.retireSection; simp only
  split <;> split <;> (try split) <;> simp
@[simp] theorem Job.kept_settleN (k : Nat) (sel : Sel) (j : Job) : (Job.settleN k sel j).kept = j.kept := by
  induction k generalizing j with
  | zero => rfl
  | succ k ih =>
    unfold Job.settleN
    split
    · rfl
    · split
      · rfl
      · rw [ih, Job.kept_retireSection]
@[simp] theorem Job.kept_settle (j : Job) (sel : Sel) : (j.settle sel).kept = j.kept := Job.kept_settleN ..
@[simp] theorem Job.kept_count (j : Job) (e n : Nat) : (j.count e n).kept = j.kept := by
  unfold Job.count
  generalize j.perfsel = l
  induction l generalizing j with
  | nil => rfl
  | cons b l ih => rw [List.foldl_cons, ih]; split <;> rfl
@[simp] theorem Job.kept_advance (j : Job) (sel : Sel) (k : Nat) : (j.advance sel k).kept = j.kept := by
  unfold Job.advance; simp only; split <;> simp
@[simp] theorem Job.kept_branch (j : Job) (sel : Sel) (t : Nat) : (j.branch sel t).kept = j.kept := by unfold Job.branch; simp
@[simp] theorem Job.kept_commandDone (j : Job) (sel : Sel) : (j.commandDone sel).kept = j.kept := by unfold Job.commandDone; simp

/-- Passing a word changes the streams, the loop levels, the bound registers, the counters and the repeat registers alone. -/
@[simp] theorem Job.kept_retireWord (j : Job) (sel : Sel) (k : Nat) : (j.retireWord sel k).kept = j.kept := by
  unfold Job.retireWord
  split
  · split
    · simp
    · split
      · rw [Job.kept_advance]; rfl
      · rw [Job.kept_count]; rfl
  · simp

/-! Scalar registers -/

theorem Job.loops_of_kept {j k : Job} (h : k.kept = j.kept) : k.loops = j.loops := by
  have := congrArg Job.loops h; exact this

theorem Job.rs_stepBinds (j : Job) (n a r : Nat) (h : ∀ b ∈ (j.loop n).binds, b.1 ≠ r) : (j.stepBinds n a).rs r = j.rs r := by
  unfold Job.stepBinds
  generalize (j.loop n).binds = l at *
  induction l generalizing j with
  | nil => rfl
  | cons b l ih =>
    rw [List.foldl_cons, ih _ fun c hc => h c (by simp [hc]), Job.rs_ws]
    simp [h b (by simp)]

theorem Job.unbound_of_loops {j k : Job} (h : k.loops = j.loops) (r : Nat) : k.unbound r ↔ j.unbound r := by
  unfold Job.unbound Job.loop; rw [h]

theorem Job.rs_congr {j k : Job} (h : k.s = j.s) (r : Nat) : k.rs r = j.rs r := by unfold Job.rs; rw [h]

theorem Job.s_updPreempt (j : Job) (f : Preempt → Preempt) : (j.updPreempt f).s = j.s := by unfold Job.updPreempt; split <;> rfl
theorem Job.s_updStream (j : Job) (a : Sel) (f : Stream → Stream) : (j.updStream a f).s = j.s := by unfold Job.updStream; simp
theorem Job.s_updLevel (j : Job) (n : Nat) (f : Level → Level) : (j.updLevel n f).s = j.s := rfl
theorem Job.s_finishArming (j : Job) (n : Nat) (e : Engine) (m : Pass) : (j.finishArming n e m).s = j.s := by
  unfold Job.finishArming; simp only; split <;> rfl
theorem Job.s_markGone (j : Job) (e : Engine) (n : Nat) : (j.markGone e n).s = j.s := Job.s_updPreempt ..
theorem Job.s_count (j : Job) (e n : Nat) : (j.count e n).s = j.s := by
  unfold Job.count
  generalize j.perfsel = l
  induction l generalizing j with
  | nil => rfl
  | cons b l ih => rw [List.foldl_cons, ih]; split <;> rfl

theorem Job.rs_passEnd (j : Job) (n : Nat) (e : Engine) (r : Nat) (h : j.unbound r) : (j.passEnd n e).1.rs r = j.rs r := by
  have step : ∀ G m, ((j.stepBinds n G).wl n m).rs r = j.rs r := fun G m => by
    rw [Job.rs_congr (j := j.stepBinds n G) (by simp), Job.rs_stepBinds _ _ _ _ (h n)]
  unfold Job.passEnd; simp only
  split <;> split
  · rw [Job.rs_congr (Job.s_updLevel ..), Job.rs_congr (Job.s_updLevel ..), step]
  · rw [Job.rs_congr (Job.s_finishArming ..), Job.rs_congr (Job.s_updLevel ..), step]
  · rw [Job.rs_congr (Job.s_updLevel ..), Job.rs_congr (Job.s_updLevel ..)]
  · rw [Job.rs_congr (Job.s_finishArming ..), Job.rs_congr (Job.s_updLevel ..)]

theorem Job.rs_sectionEnd (j : Job) (e : Engine) (f : Flight) (r : Nat) (h : j.unbound r) : (j.sectionEnd e f).1.rs r = j.rs r := by
  unfold Job.sectionEnd; simp only
  rw [Job.rs_congr (Job.s_markGone ..)]
  have hp : ∀ (k : Job), k.kept = j.kept → k.s = j.s → ∀ m, (k.passEnd m e).1.rs r = j.rs r := fun k hk hs m => by
    rw [Job.rs_passEnd _ _ _ _ ((Job.unbound_of_loops (Job.loops_of_kept hk) r).mpr h), Job.rs_congr hs]
  have hq : ∀ (k : Job), k.kept = j.kept → k.s = j.s →
      (match k.bodyLevel e f.sect with
        | some n => if hL f.header.toNat && (k.level n).mode.get e = Pass.running && f.sect = ((k.loop n).spans.get e).last then k.passEnd n e
          else (k, none)
        | none => (k, none)).1.rs r = j.rs r := by
    intro k hk hs
    split
    · split
      · exact hp k hk hs _
      · exact Job.rs_congr hs r
    · exact Job.rs_congr hs r
  refine hq _ ?_ ?_ <;> split
  · exact Job.kept_updStream ..
  · rfl
  · exact Job.s_updStream ..
  · rfl

theorem Job.rs_retireSection (j : Job) (sel : Sel) (f : Flight) (r : Nat) (h : j.unbound r) : (j.retireSection sel f).rs r = j.rs r := by
  unfold Job.retireSection; simp only
  have hs : ∀ (g : Stream → Stream), ((j.updStream sel g).sectionEnd sel.engine f).1.rs r = j.rs r := fun g => by
    rw [Job.rs_sectionEnd _ _ _ _ ((Job.unbound_of_loops (Job.loops_of_kept (Job.kept_updStream ..)) r).mpr h),
      Job.rs_congr (Job.s_updStream ..)]
  split <;> split <;> (try split)
  all_goals first
    | exact hs _
    | rw [Job.rs_congr (Job.setStream_s ..)]; exact hs _
    | rw [Job.rs_congr (Job.setStream_s ..), Job.rs_congr (Job.s_updStream ..)]
    | rw [Job.rs_congr (Job.s_updStream ..)]

theorem Job.rs_settle (j : Job) (sel : Sel) (r : Nat) (h : j.unbound r) : (j.settle sel).rs r = j.rs r := by
  unfold Job.settle
  generalize (j.stream sel).flight.length = k
  induction k generalizing j with
  | zero => rfl
  | succ k ih =>
    unfold Job.settleN
    split
    · rfl
    · split
      · rfl
      · rw [ih _ ((Job.unbound_of_loops (Job.loops_of_kept (Job.kept_retireSection ..)) r).mpr h), Job.rs_retireSection _ _ _ _ h]

theorem Job.rs_advance (j : Job) (sel : Sel) (k r : Nat) (h : j.unbound r) : (j.advance sel k).rs r = j.rs r := by
  have hs : ((j.updStream sel (·.pass k)).settle sel).rs r = j.rs r := by
    rw [Job.rs_settle _ _ _ ((Job.unbound_of_loops (Job.loops_of_kept (Job.kept_updStream ..)) r).mpr h), Job.rs_congr (Job.s_updStream ..)]
  unfold Job.advance; simp only
  split
  · rw [Job.rs_congr (Job.s_count ..), hs]
  · exact hs

/-- Passing a word leaves a scalar register alone that no loop level steps. -/
theorem Job.rs_retireWord (j : Job) (sel : Sel) (k r : Nat) (h : j.unbound r) : (j.retireWord sel k).rs r = j.rs r := by
  unfold Job.retireWord
  split
  · split
    · exact Job.rs_advance _ _ _ _ h
    · split
      · exact Job.rs_advance { j with repValid := false, repDone := 0, repLeft := 0 } .v k r h
      · rw [Job.rs_congr (Job.s_count ..)]; rfl
  · exact Job.rs_advance _ _ _ _ h

/-- A branch leaves a scalar register alone that no loop level steps. -/
theorem Job.rs_branch (j : Job) (sel : Sel) (t r : Nat) (h : j.unbound r) : (j.branch sel t).rs r = j.rs r := by
  unfold Job.branch
  rw [Job.rs_congr (Job.s_count ..),
    Job.rs_settle _ _ _ ((Job.unbound_of_loops (Job.loops_of_kept (Job.kept_updStream ..)) r).mpr h), Job.rs_congr (Job.s_updStream ..)]

/-! The state -/

theorem State.job_unstalled (s : State) (n m : Nat) (e : Engine) :
    (s.unstalled n e).job? m = if n = m then (s.job? n).map fun j => { j with stalls := j.stalls.set e none } else s.job? m :=
  State.job_updJob ..

/-- Changing the job of a core changes nothing else. -/
theorem onlyJob_setJob (s : State) (n : Nat) (j : Job) : OnlyJob s (s.setJob n j) n where
  bytes := fun _ => rfl
  cores := fun m h => by rw [State.core_setJob, if_neg (Ne.symm h)]
  core := by rw [State.core_setJob, if_pos rfl]
  dies := fun d => by rw [State.die_setJob]; split <;> rfl
  blocks := fun _ _ => rfl
  extras := fun _ => rfl
  hub := rfl
  platform := rfl
  routines := rfl

theorem OnlyJob.refl (s : State) (n : Nat) : OnlyJob s s n :=
  ⟨fun _ => rfl, fun _ _ => rfl, rfl, fun _ => rfl, fun _ _ => rfl, fun _ => rfl, rfl, rfl, rfl⟩

theorem OnlyJob.trans {s t u : State} {n : Nat} (h : OnlyJob s t n) (k : OnlyJob t u n) : OnlyJob s u n where
  bytes := fun a => (k.bytes a).trans (h.bytes a)
  cores := fun m hm => (k.cores m hm).trans (h.cores m hm)
  core := k.core.trans h.core
  dies := fun d => (k.dies d).trans (h.dies d)
  blocks := fun c o => (k.blocks c o).trans (h.blocks c o)
  extras := fun c => (k.extras c).trans (h.extras c)
  hub := k.hub.trans h.hub
  platform := k.platform.trans h.platform
  routines := k.routines.trans h.routines

theorem onlyJob_updJob (s : State) (n : Nat) (f : Job → Job) : OnlyJob s (s.updJob n f) n := by
  unfold State.updJob
  split
  · exact onlyJob_setJob ..
  · exact .refl ..

/-- Issuing a word changes the job of its core alone. -/
theorem onlyJob_issued (s : State) (n : Nat) (sel : Sel) (j : Job) : OnlyJob s (s.issued n sel j) n :=
  (onlyJob_setJob ..).trans (onlyJob_updJob ..)
theorem onlyJob_commanded (s : State) (n : Nat) (sel : Sel) (j : Job) : OnlyJob s (s.commanded n sel j) n :=
  (onlyJob_setJob ..).trans (onlyJob_updJob ..)
theorem onlyJob_branched (s : State) (n : Nat) (sel : Sel) (j : Job) (t : Nat) : OnlyJob s (s.branched n sel j t) n :=
  (onlyJob_setJob ..).trans (onlyJob_updJob ..)

/-- The job once its word has issued. -/
theorem job_issued (s : State) (n : Nat) (sel : Sel) (j : Job) :
    ∃ k, (s.issued n sel j).job? n = some k ∧ k.kept = j.kept ∧ ∀ r, j.unbound r → k.rs r = j.rs r := by
  refine ⟨{ j.retireWord sel 0 with stalls := (j.retireWord sel 0).stalls.set sel.engine none }, ?_, ?_, ?_⟩
  · unfold State.issued; rw [State.job_unstalled]; simp
  · have := Job.kept_retireWord j sel 0
    exact this
  · intro r h
    rw [← Job.rs_retireWord j sel 0 r h]; rfl

end Sys2Proof.Machine
end

