-- ==== Sys2Proof/Laws/Scalar.lean ====
section
/-!
SUPPORT. The integers of the S engine as numbers and as bit vectors of the type's width (R98).
-/
namespace Sys2Proof.Machine

theorem toSigned_toNat (w x : Nat) : toSigned w x = (BitVec.ofNat w x).toInt := by
  unfold toSigned
  rw [BitVec.toInt_eq_toNat_cond, BitVec.toNat_ofNat]
  by_cases hw : w = 0
  · subst hw; simp [Nat.mod_one]
  · have h2 : 2 ^ w = 2 * 2 ^ (w - 1) := by
      obtain ⟨k, rfl⟩ : ∃ k, w = k + 1 := ⟨w - 1, by omega⟩
      rw [Nat.pow_succ, Nat.add_sub_cancel]; omega
    by_cases h : x % 2 ^ w < 2 ^ (w - 1)
    · rw [if_pos h, if_pos (by omega)]
    · rw [if_neg h, if_neg (by omega)]

theorem intWidth_typeWidth (ty : BitVec 5) : intWidth ty.toNat = typeWidth ty := rfl

/-- A source of R98. -/
theorem srcInt_typedRead (ty : BitVec 5) (x : Word) : srcInt ty.toNat x = typedRead ty x := by
  unfold srcInt typedRead isI
  rw [intWidth_typeWidth]
  by_cases h : ty.toNat < 4
  · simp only [h, decide_true, if_true, toSigned_toNat]
    congr 1; apply BitVec.eq_of_toNat_eq; simp
  · simp [h]

theorem srcNat_setWidth (ty : BitVec 5) (x : Word) : srcNat ty.toNat x = (x.setWidth (typeWidth ty)).toNat := by
  simp [srcNat, intWidth_typeWidth]

theorem wrapTo_ofInt (w : Nat) (x : Int) : wrapTo w x = (BitVec.ofInt w x).toNat := by
  simp [wrapTo, BitVec.toNat_ofInt]

/-- A result of R98. -/
theorem destWord_typedWrite (ty : BitVec 5) (x : Int) : destWord ty.toNat x = typedWrite ty x := by
  unfold destWord typedWrite isI sext64
  rw [intWidth_typeWidth, wrapTo_ofInt]
  by_cases h : ty.toNat < 4
  · simp only [h, decide_true, if_true, toSigned_toNat, BitVec.ofNat_toNat, BitVec.setWidth_eq]
    apply BitVec.eq_of_toInt_eq
    rw [BitVec.toInt_ofInt]
    have hw : typeWidth ty ≤ 64 := by
      unfold typeWidth
      have : ty.toNat % 4 < 4 := Nat.mod_lt _ (by decide)
      have : 2 ^ (ty.toNat % 4) ≤ 2 ^ 3 := Nat.pow_le_pow_right (by decide) (by omega)
      omega
    rw [BitVec.toInt_signExtend_of_le hw]
    generalize BitVec.ofInt (typeWidth ty) x = y
    have h1 := BitVec.le_toInt y
    have h2 := BitVec.toInt_lt (x := y)
    have h3 : (2 : Int) ^ (typeWidth ty - 1) ≤ 2 ^ 63 := by
      exact_mod_cast Nat.pow_le_pow_right (by decide) (show typeWidth ty - 1 ≤ 63 by omega)
    rw [Int.bmod_eq_of_le] <;> norm_num <;> omega
  · simp only [h, decide_false, Bool.false_eq_true, if_false]
    apply BitVec.eq_of_toNat_eq; simp

/-- An SR word of R98 at issue writes its result. -/
theorem runArith_atIssue {s : State} {n : Nat} {sel : Sel} {j : Job} {i : Instr} {f : SR} (op : Nat → Word → Word → Word → Int) {r : Int}
    (h : AtIssue s n sel j i f.g [f.d.toNat, f.a.toNat, f.b.toNat, f.c.toNat] [f.pd.toNat]) 
    (hr : op f.ty.toNat (j.rs f.a.toNat) (j.rs f.b.toNat) (j.rs f.c.toNat) = r) :
    runArith i f s op = .next (s.issued n sel (j.ws f.d.toNat (typedWrite f.ty r))) := by
  unfold runArith srRegs; rw [runJob_atIssue h, destWord_typedWrite, hr]

/-- A type's width is not zero. -/
theorem typeWidth_pos (ty : BitVec 5) : 0 < typeWidth ty := by unfold typeWidth; positivity

/-- Rotating left by numbers is rotating the bit vector. -/
theorem rolNat_rotate (w : Nat) (x : BitVec w) (n : Nat) (hw : 0 < w) : rolNat w x.toNat n = (x.rotateLeft (n % w)).toNat := by
  unfold rolNat
  have hn : n % w < w := Nat.mod_lt _ hw
  rw [BitVec.toNat_rotateLeft, Nat.mod_eq_of_lt hn, Nat.shiftLeft_eq, Nat.shiftRight_eq_div_pow]
  have hx := x.isLt
  generalize n % w = k at *
  have e : x.toNat * 2 ^ k % 2 ^ w = (x.toNat % 2 ^ (w - k)) * 2 ^ k := by
    have h2 : 2 ^ w = 2 ^ (w - k) * 2 ^ k := by rw [← Nat.pow_add]; congr 1; omega
    rw [h2, Nat.mul_mod_mul_right]
  have hlt : x.toNat / 2 ^ (w - k) < 2 ^ k := by
    rw [Nat.div_lt_iff_lt_mul (by positivity), ← Nat.pow_add]
    rwa [show k + (w - k) = w by omega]
  have hor : x.toNat * 2 ^ k % 2 ^ w ||| x.toNat / 2 ^ (w - k) = x.toNat * 2 ^ k % 2 ^ w + x.toNat / 2 ^ (w - k) := by
    rw [e, Nat.mul_comm, ← Nat.two_pow_add_eq_or_of_lt hlt]
  rw [hor, Nat.add_mod, Nat.mod_eq_of_lt (show x.toNat / 2 ^ (w - k) < 2 ^ w from lt_of_lt_of_le hlt (Nat.pow_le_pow_right (by decide) (by omega)))]
  apply Nat.mod_eq_of_lt
  rw [e]
  have : x.toNat % 2 ^ (w - k) < 2 ^ (w - k) := Nat.mod_lt _ (by positivity)
  calc _ < x.toNat % 2 ^ (w - k) * 2 ^ k + 2 ^ k := by omega
    _ = (x.toNat % 2 ^ (w - k) + 1) * 2 ^ k := by ring
    _ ≤ 2 ^ (w - k) * 2 ^ k := Nat.mul_le_mul_right _ (by omega)
    _ = 2 ^ w := by rw [← Nat.pow_add]; congr 1; omega

/-- Rotating right by numbers is rotating the bit vector. -/
theorem rolNat_rotateRight (w : Nat) (x : BitVec w) (n : Nat) (hw : 0 < w) :
    rolNat w x.toNat (w - n % w) = (x.rotateRight (n % w)).toNat := by
  have hn : n % w < w := Nat.mod_lt _ hw
  rw [rolNat_rotate w x _ hw]
  congr 1
  generalize n % w = k at *
  apply BitVec.eq_of_getLsbD_eq
  intro i hi
  by_cases hk : k = 0
  · subst hk; simp [hi]
  · rw [Nat.mod_eq_of_lt (show w - k < w by omega)]
    rw [BitVec.getLsbD_rotateLeft, BitVec.getLsbD_rotateRight, Nat.mod_eq_of_lt (show w - k < w by omega), Nat.mod_eq_of_lt hn]
    have : w - (w - k) = k := by omega
    rw [this]

/-- What `ctzNat` counts. -/
theorem ctzNat_spec (w : Nat) (x : BitVec w) : ctzNat w x.toNat ≤ w ∧ (∀ k < ctzNat w x.toNat, x.getLsbD k = false) ∧
    (ctzNat w x.toNat < w → x.getLsbD (ctzNat w x.toNat) = true) := by
  have key : ∀ (m : Nat) (p : Nat → Bool), let r := ((List.range m).takeWhile p).length
      r ≤ m ∧ (∀ k < r, p k = true) ∧ (r < m → p r = false) := by
    intro m p r
    refine ⟨by simpa using (List.takeWhile_prefix p (l := List.range m)).length_le, ?_, ?_⟩
    · intro k hk
      have hm := List.getElem_mem hk
      have := List.mem_takeWhile_imp hm
      rw [List.IsPrefix.getElem (List.takeWhile_prefix p)] at this
      simpa using this
    · intro hr
      have := List.takeWhile_append_dropWhile (p := p) (l := List.range m)
      have hd : (List.range m).dropWhile p ≠ [] := by
        intro he
        rw [he, List.append_nil] at this
        have : r = m := by simp only [r, this, List.length_range]
        omega
      have hh := List.head_dropWhile_not (p := p) hd
      have : ((List.range m).dropWhile p).head hd = r := by
        have e : (List.range m)[r]'(by simpa using hr) = ((List.range m).dropWhile p).head hd := by
          conv_lhs => rw [List.getElem_of_eq this.symm]
          rw [List.getElem_append_right (by simp [r])]
          simp [r, List.head_eq_getElem]
        simpa using e.symm
      rw [this] at hh
      exact hh
  obtain ⟨h1, h2, h3⟩ := key w (fun i => !x.toNat.testBit i)
  refine ⟨h1, ?_, ?_⟩
  · intro k hk; simpa [BitVec.getLsbD] using h2 k hk
  · intro hk; have := h3 hk; simp only [Bool.not_eq_false'] at this; exact this

/-- What `clzNat` counts. -/
theorem clzNat_spec (w : Nat) (x : BitVec w) : clzNat w x.toNat ≤ w ∧ (∀ k < clzNat w x.toNat, x.getMsbD k = false) ∧
    (clzNat w x.toNat < w → x.getMsbD (clzNat w x.toNat) = true) := by
  unfold clzNat
  by_cases h : x.toNat = 0
  · have : x = 0 := BitVec.eq_of_toNat_eq (by simpa using h)
    subst this
    simp
  · simp only [h, if_false]
    have hl := Nat.log2_lt h |>.mpr x.isLt
    have h1 : 2 ^ x.toNat.log2 ≤ x.toNat := Nat.log2_self_le h
    have h2 : x.toNat < 2 ^ (x.toNat.log2 + 1) := Nat.lt_log2_self
    refine ⟨by omega, ?_, ?_⟩
    · intro k hk
      rw [BitVec.getMsbD, BitVec.getLsbD]
      have : k < w := by omega
      simp only [this, decide_true, Bool.true_and]
      apply Nat.testBit_lt_two_pow
      exact lt_of_lt_of_le h2 (Nat.pow_le_pow_right (by decide) (by omega))
    · intro hk
      rw [BitVec.getMsbD, BitVec.getLsbD]
      have e : w - 1 - (w - 1 - x.toNat.log2) = x.toNat.log2 := by omega
      simp only [hk, decide_true, Bool.true_and, e]
      exact Nat.testBit_log2 h

/-- What `popcNat` counts. -/
theorem popcNat_countP (w : Nat) (x : BitVec w) : popcNat w x.toNat = (List.range w).countP fun k => x.getLsbD k := by
  rw [popcNat, ← List.countP_eq_length_filter]; rfl

/-- A field of a word as a number. -/
theorem bext_field (a : Word) (pos n : Nat) : (a.extractLsb' pos n).toNat = a.toNat / 2 ^ pos % 2 ^ n := by
  rw [BitVec.extractLsb'_toNat, Nat.shiftRight_eq_div_pow]

/-- Replacing a field of a number, bit by bit. -/
theorem binsNat_bits (o a pos n k : Nat) :
    (o - (o / 2 ^ pos % 2 ^ n) * 2 ^ pos + (a % 2 ^ n) * 2 ^ pos).testBit k = 
      if pos ≤ k ∧ k < pos + n then a.testBit (k - pos) else o.testBit k := by
  have e : o = (o % 2 ^ pos + 2 ^ pos * ((o / 2 ^ pos) % 2 ^ n)) + 2 ^ (pos + n) * (o / 2 ^ (pos + n)) := by
    have h1 := Nat.mod_add_div o (2 ^ pos)
    have h2 := Nat.mod_add_div (o / 2 ^ pos) (2 ^ n)
    rw [Nat.div_div_eq_div_mul, ← Nat.pow_add] at h2
    have h3 : 2 ^ pos * (o / 2 ^ pos) = 2 ^ pos * ((o / 2 ^ pos) % 2 ^ n) + 2 ^ (pos + n) * (o / 2 ^ (pos + n)) := by
      conv_lhs => rw [← h2]
      rw [Nat.pow_add]; ring
    omega
  have hx : o % 2 ^ pos < 2 ^ pos := Nat.mod_lt _ (by positivity)
  have hy : a % 2 ^ n < 2 ^ n := Nat.mod_lt _ (by positivity)
  have hz : (o / 2 ^ pos) % 2 ^ n < 2 ^ n := Nat.mod_lt _ (by positivity)
  have hlow : o % 2 ^ pos + 2 ^ pos * (a % 2 ^ n) < 2 ^ (pos + n) := by
    rw [Nat.pow_add]
    calc _ < 2 ^ pos + 2 ^ pos * (a % 2 ^ n) := by omega
      _ = 2 ^ pos * (a % 2 ^ n + 1) := by ring
      _ ≤ _ := Nat.mul_le_mul_left _ hy
  have r : o - (o / 2 ^ pos % 2 ^ n) * 2 ^ pos + (a % 2 ^ n) * 2 ^ pos
      = 2 ^ (pos + n) * (o / 2 ^ (pos + n)) + (2 ^ pos * (a % 2 ^ n) + o % 2 ^ pos) := by
    have hc : (o / 2 ^ pos % 2 ^ n) * 2 ^ pos = 2 ^ pos * (o / 2 ^ pos % 2 ^ n) := Nat.mul_comm _ _
    have hd : (a % 2 ^ n) * 2 ^ pos = 2 ^ pos * (a % 2 ^ n) := Nat.mul_comm _ _
    rw [hc, hd]
    generalize 2 ^ pos * (o / 2 ^ pos % 2 ^ n) = x at *
    generalize 2 ^ (pos + n) * (o / 2 ^ (pos + n)) = y at *
    omega
  rw [r, Nat.testBit_two_pow_mul_add _ (by omega), Nat.testBit_two_pow_mul_add _ hx]
  by_cases c1 : k < pos + n
  · by_cases c2 : k < pos
    · have c3 : ¬ (pos ≤ k ∧ k < pos + n) := by omega
      simp only [c1, c2, c3, if_true, if_false]
      rw [Nat.testBit_mod_two_pow]; simp [c2]
    · have c3 : pos ≤ k ∧ k < pos + n := by omega
      simp only [c1, c2, if_true, if_false, c3.1, and_self]
      rw [Nat.testBit_mod_two_pow]
      simp [show k - pos < n by omega]
  · have c3 : ¬ (pos ≤ k ∧ k < pos + n) := by omega
    simp only [c1, c3, if_false]
    rw [Nat.testBit_div_two_pow, show k - (pos + n) + (pos + n) = k by omega]; simp

/-- `bins` stays within the width. -/
theorem binsNat_lt (ty : Nat) (o a : Word) (pos len : Nat) : binsNat ty o a pos len < 2 ^ intWidth ty := by
  unfold binsNat
  simp only
  have ho : o.toNat % 2 ^ intWidth ty < 2 ^ intWidth ty := Nat.mod_lt _ (by positivity)
  split
  · exact ho
  · rename_i hc
    simp only [ge_iff_le, Bool.or_eq_true, decide_eq_true_eq, not_or, not_le] at hc
    generalize intWidth ty = w at *
    generalize hn : min len (w - pos) = n
    by_contra hlt
    push Not at hlt
    have hlt2 : o.toNat % 2 ^ w - o.toNat % 2 ^ w / 2 ^ pos % 2 ^ n * 2 ^ pos + a.toNat % 2 ^ n * 2 ^ pos < 2 ^ (w + 1) := by
      have h1 : a.toNat % 2 ^ n < 2 ^ n := Nat.mod_lt _ (by positivity)
      have h2 : a.toNat % 2 ^ n * 2 ^ pos < 2 ^ w := by
        calc _ < 2 ^ n * 2 ^ pos := Nat.mul_lt_mul_of_pos_right h1 (by positivity)
          _ = 2 ^ (n + pos) := (Nat.pow_add ..).symm
          _ ≤ _ := Nat.pow_le_pow_right (by decide) (by omega)
      rw [Nat.pow_succ]; omega
    have := binsNat_bits (o.toNat % 2 ^ w) a.toNat pos n w
    rw [if_neg (by omega), Nat.testBit_lt_two_pow ho] at this
    generalize o.toNat % 2 ^ w - o.toNat % 2 ^ w / 2 ^ pos % 2 ^ n * 2 ^ pos + a.toNat % 2 ^ n * 2 ^ pos = x at *
    have hx : x.testBit w = true := by
      rw [Nat.testBit_eq_decide_div_mod_eq]
      have : x / 2 ^ w = 1 := by
        apply Nat.div_eq_of_lt_le <;> rw [Nat.pow_succ] at * <;> omega
      simp [this]
    rw [hx] at this; cases this

/-- What `bext` reads (R100). -/
theorem bextInt_spec (ty : BitVec 5) (a : Word) (pos len : Nat) :
    bextInt ty.toNat a pos len = if pos ≥ typeWidth ty ∨ len = 0 then 0
      else if ty.toNat < 4 then (a.extractLsb' pos (min len (typeWidth ty - pos))).toInt
      else ((a.extractLsb' pos (min len (typeWidth ty - pos))).toNat : Int) := by
  unfold bextInt isI
  simp only [intWidth_typeWidth, ge_iff_le, Bool.or_eq_true, decide_eq_true_eq]
  by_cases hc : typeWidth ty ≤ pos ∨ len = 0
  · simp only [hc, if_true]
  · simp only [hc, if_false]
    split
    · rw [toSigned_toNat]; congr 1; apply BitVec.eq_of_toNat_eq; rw [bext_field]; simp
    · rw [bext_field]

/-- What `bins` leaves in each bit (R100). -/
theorem binsNat_spec (ty : BitVec 5) (o a : Word) (pos len : Nat) (k : Nat) (hk : k < typeWidth ty) :
    (BitVec.ofNat (typeWidth ty) (binsNat ty.toNat o a pos len)).getLsbD k =
      if pos ≤ k ∧ k < pos + len then a.getLsbD (k - pos) else o.getLsbD k := by
  have hold : (o.toNat % 2 ^ typeWidth ty).testBit k = o.getLsbD k := by
    rw [Nat.testBit_mod_two_pow]; simp [hk, BitVec.getLsbD]
  rw [BitVec.getLsbD, BitVec.toNat_ofNat, ← intWidth_typeWidth, Nat.mod_eq_of_lt (binsNat_lt ty.toNat o a pos len)]
  simp only [binsNat, intWidth_typeWidth, ge_iff_le, Bool.or_eq_true, decide_eq_true_eq]
  split
  · rw [hold, if_neg (by omega)]
  · rename_i hc
    push Not at hc
    rw [binsNat_bits _ a.toNat pos _ k, hold]
    by_cases c : pos ≤ k ∧ k < pos + len
    · rw [if_pos c, if_pos (by omega)]; rfl
    · rw [if_neg c, if_neg (by omega)]

/-- An SR compare at issue writes its predicate. -/
theorem runCompare_atIssue {s : State} {n : Nat} {sel : Sel} {j : Job} {i : Instr} {f : SR} (op : Int → Int → Bool)
    (h : AtIssue s n sel j i f.g [f.d.toNat, f.a.toNat, f.b.toNat, f.c.toNat] [f.pd.toNat]) :
    runCompare i f s op = .next (s.issued n sel (j.wp f.pd.toNat (op (typedRead f.ty (j.rs f.a.toNat)) (typedRead f.ty (j.rs f.b.toNat))))) := by
  unfold runCompare srRegs; rw [runJob_atIssue h, srcInt_typedRead, srcInt_typedRead]

end Sys2Proof.Machine
end

