-- ==== Sys2Proof/Tests/Slice0.lean ====
section
/-!
SUPPORT. Tests: the decoder on words the spec writes out, a term for every check of well-formedness, and, for every statement, states
and operands that meet its hypotheses, clause by clause.
-/
namespace Sys2Proof.Tests
open Sys2Proof.Machine

/-! A small machine: die 0 with two pages of world 1 in its vault, code at 0x20000 and data at 0x40000, and one job on core 0 -/

/-- The header of a section that ends its stream, number 1, with no waits. -/
def tHeader : Word := 0xF01001FFFFFFFFF1

/-- A stream at word 1 of that section. -/
def tStream : Stream := { Stream.empty with entry := 0x20000, hdr := 0x20000, word := 1, header := some tHeader, ended := false }

def tJob : Job :=
  { ctx := 0, gidx := 0, gsize := 1, ndie := 0, child := false, core := 0, page := 0x60000, wid := 1, conf := false, set := 0
    handS := 0x20800, handM := 0, s := [(1, 0x40000), (2, 5), (3, 3)], p := [], l := [], spend := [], ppend := [], levels := [], loops := []
    v := [], k := [], b := [], repValid := false, repDone := 0, repLeft := 0, tiles := [], accs := [], rings := [], binds := [], mqueue := []
    ccmd := none, fpstat := 0, fpen := 0, srseed := 7, srcntv := 0, srcntm := 0, srcntc := 0, trap := .zero, hmode := false, nest := false
    skip := false, swapped := false, rets := 0, heldv := none, heldm := none, heldc := none, areaPending := false, msaved := .before
    imaged := [], streams := .all tStream, hs := .empty, hm := .empty, prerec := 0, loopsave := 0, mons := [], perfsel := [], perfcnt := []
    pad := [], ordinal := 0, drawIdx := 0, rmap := [], swait := .none, waitFrom := none, preempt := none, rebind := [], stalls := .all none
    frozen := false }

def tCore (j : Job) : Core := { Core.idle with job := some j, tlb := [⟨0, 0x20000, 17, 0, 4, 4, 0, [], false⟩, ⟨0, 0x40000, 17, 0x20000, 3, 3, 0, [], false⟩] }

def tDie (j : Job) : Die :=
  { Die.reset with cores := [(0, tCore j)], owner := [(0, 0x4200000010000000), (1, 0x4000000010000000)], tags := [(0, 0x8001)] }

/-- The job `j` on core 0, and the turn of its stream `sel`, once the module is up. -/
def tState (sel : Sel) (j : Job) : State :=
  { State.reset with platform := { Platform.reset with step := 10 }, turn := .stream 0 sel, dies := [(0, tDie j)], blocks := [(0, [(0, 0x4000000100000000)])], mem := [(0x20000, 0x5A#8)] }

/-- What `AtIssue` asks of a job's stream. -/
def tReady (sel : Sel) (j : Job) (i : Instr) (g : Guard) (regs preds : List Nat) : Bool :=
  j.mayIssue sel && decide (i.fates = []) && !j.pendP g.pred.toNat && decide (j.rp g.pred.toNat = decide (g.neg = 0)) &&
    regs.all (fun r => !j.pendS r) && preds.all (fun p => !j.pendP p) && decide (sel = .hm → mHandlerTrap j i = none)

theorem atIssue_of {s : State} {n : Nat} {sel : Sel} {j : Job} {i : Instr} {g : Guard} {regs preds : List Nat}
    (ht : s.turn = .stream n sel) (hj : s.job? n = some j) (h : tReady sel j i g regs preds = true) : AtIssue s n sel j i g regs preds := by
  simp only [tReady, Bool.and_eq_true, decide_eq_true_eq, Bool.not_eq_true', List.all_eq_true] at h
  obtain ⟨⟨⟨⟨⟨⟨h1, h2⟩, h3⟩, h4⟩, h5⟩, h6⟩, h7⟩ := h
  exact ⟨ht, hj, h1, h2, h3, h4, h5, h6, h7⟩

theorem tJob_job (sel : Sel) (j : Job) : (tState sel j).job? 0 = some j := rfl

theorem tAt {sel : Sel} {j : Job} {i : Instr} {g : Guard} {regs preds : List Nat} (h : tReady sel j i g regs preds = true) :
    AtIssue (tState sel j) 0 sel j i g regs preds := atIssue_of rfl (tJob_job sel j) h

/-! Fields all zero, one record per format -/

def zSR : SR := ⟨⟨0, 0⟩, 0, 0, 0, 0, 0, 0⟩
def zSI : SI := ⟨⟨0, 0⟩, 0, 0, 0, 0, 0⟩
def zSM : SM := ⟨⟨0, 0⟩, 0, 0, 0, 0, 0, 0, 0, 0, 0, 0, 0, 0, 0, 0, 0⟩
def zSX : SX := ⟨⟨0, 0⟩, 0, 0, 0, 0, 0, 0, 0, 0⟩
def zVR : VR := ⟨⟨0, 0⟩, 0, 0, 0, 0, 0, 0, 0, 0, 0, 0, 0, 0, 0⟩
def zVS : VS := ⟨⟨0, 0⟩, 0, 0, 0, 0, 0, 0, 0, 0, 0, 0, 0⟩
def zVP : VP := ⟨⟨0, 0⟩, 0, 0, 0, 0, 0, 0, 0⟩
def zMM : MM := ⟨⟨0, 0⟩, 0, 0, 0, 0, 0, 0, 0, 0, 0, 0, 0, 0⟩
def zMA : MA := ⟨⟨0, 0⟩, 0, 0, 0, 0, 0, 0, 0, 0, 0, 0, 0⟩
def zCC : CC := ⟨⟨0, 0⟩, 0, 0, 0, 0, 0, 0, 0, 0, 0, 0, 0, 0, 0⟩

/-! Decoding: words the spec writes out bit by bit, and their fields (the file of spec/ after each) -/

-- 02_encoding.md, worked example
theorem test_decode_li : (decode .s 0x28000A00C000000000000003).toOption = some (.li { zSI with d := 5, ty := 3, imm := 3 }) := by decide
-- 02_encoding.md, worked example
theorem test_decode_add : (decode .s 0x01000C28A000C00000000000).toOption = some (.add { zSR with d := 6, a := 5, b := 5, ty := 3 }) := by decide
-- 02_encoding.md, worked example
theorem test_decode_vmov : (decode .v 0x1C000580000C020000000000).toOption = some (.vmov { zVR with vd := 2, va := 48, sreg := 6, ty := 2 }) := by decide
-- 04_scalar_registers.md
theorem test_decode_bext : (decode .s 0x170008084181C00000000000).toOption = some (.bext { zSR with d := 4, a := 1, b := 2, c := 3, ty := 7 }) := by decide
-- 04_scalar_registers.md
theorem test_decode_cmpeqi : (decode .s 0x30000020C400000000000000).toOption = some (.cmpeqi { zSI with a := 4, ty := 3, pd := 1 }) := by decide
-- 04_scalar_registers.md
theorem test_decode_br : (decode .s 0x40080000000000000000005C).toOption = some (.br { zSI with g := ⟨0, 1⟩, imm := 92 }) := by decide
-- 05_vector_registers.md
theorem test_decode_rep : (decode .v 0xF00000000822000000000000).toOption = some (.rep { zVP with count := 4, dstep := 1, astep := 1 }) := by decide
-- 05_vector_registers.md
theorem test_decode_vld : (decode .v 0xA00000000000004000001000).toOption = some (.vld { zVS with ty := 2, disp := 0x1000 }) := by decide
-- 05_vector_registers.md
theorem test_decode_vredsum : (decode .v 0x60000A000000020000000000).toOption = some (.vredsum { zVR with vd := 5, ty := 2 }) := by decide
-- 06_tile_registers.md
theorem test_decode_mma : (decode .m 0x0100248400FE000000004000).toOption = some (.mma { zMM with acc := 2, warp := 1, aty := 0x10, bty := 0x10, km1 := 127, z := 1 }) := by decide
-- 06_tile_registers.md
theorem test_decode_mstTile : (decode .m 0x230020A00202000000000000).toOption = some (.mstTile { zMA with acc := 2, top := 5 * 2 ^ 11, ty := 0x10, sat := 1 }) := by decide
-- 07_system_registers.md
theorem test_decode_mfsr : (decode .s 0xC0000C00000A000000000000).toOption = some (.mfsr { zSX with d := 6, idx := 5 }) := by decide
-- 07_system_registers.md
theorem test_decode_eret : (decode .s 0xC30000000000000000000000).toOption = some (.eret zSX) := by decide
-- 07_system_registers.md
theorem test_decode_trapctlWrite : (decode .s 0xC1000038000E000000000000).toOption = some (.trapctlWrite { zSX with a := 7, idx := 7 }) := by decide
-- 08_memories.md
theorem test_decode_ld : (decode .s 0x60010E20A000028A00000010).toOption = some (.ld { zSM with cls := 2, d := 7, a := 4, b := 5, ord := 1, scope := 1, ty := 2, scale := 2, disp := 16 }) := by decide
-- 08_memories.md
theorem test_decode_st : (decode .s 0x61011220000004AC00000008).toOption = some (.st { zSM with cls := 2, d := 9, a := 4, ord := 2, scope := 1, ty := 0x0B, disp := 8 }) := by decide
-- 09_copy_engine.md
theorem test_decode_cp : (decode .c 0x0100A8516602520000000000).toOption = some (.cp { zCC with cls := 1, tok := 20, sa := 10, sd := 11, recd := 12, ty := 9, dty := 9 }) := by decide
-- 10_ordering.md
theorem test_decode_fence : (decode .s 0x700000000001A00000000006).toOption = some (.fence { zSX with ord := 3, scope := 1, imm := 6 }) := by decide
-- 11_lathe.md
theorem test_decode_atadd : (decode .s 0x630090212000070C00000040).toOption = some (.atadd { zSM with cls := 1, d := 8, a := 4, b := 9, ord := 3, scope := 2, ty := 3, disp := 64 }) := by decide
-- 11_lathe.md
theorem test_decode_lathe : (decode .s 0x6E009021200002800C000000).toOption = some (.lathe { zSM with cls := 1, d := 8, a := 4, b := 9, ord := 1, scope := 1, rout := 3 }) := by decide
-- 12_translation_tables.md
theorem test_decode_hcall : (decode .s 0xC70010000000000000000100).toOption = some (.hcall { zSX with d := 8, imm := 0x100 }) := by decide
-- 13_context_tables.md, R356
theorem test_decode_spawn : (decode .s 0x48000E516004000000000000).toOption = some (.spawn { zSX with d := 7, a := 10, b := 11, idx := 2 }) := by decide
-- 15_queues.md
theorem test_decode_qget : (decode .s 0xA0000C000002000000000000).toOption = some (.qget { zSX with d := 6, idx := 1 }) := by decide
-- 15_queues.md
theorem test_decode_qwaitTimeout : (decode .s 0xA3000E000000000000000578).toOption = some (.qwaitTimeout { zSX with d := 7, imm := 1400 }) := by decide
-- 15_queues.md
theorem test_decode_spin : (decode .s 0xA40000480000000000000000).toOption = some (.spin { zSX with a := 9 }) := by decide
-- 16_counters.md
theorem test_decode_phsig : (decode .s 0x82008A20C001200000000000).toOption = some (.phsig { zSX with cls := 1, d := 5, a := 4, b := 6, ord := 2, scope := 1 }) := by decide
-- 16_counters.md
theorem test_decode_phsw : (decode .s 0x84008A20C001A00000000000).toOption = some (.phsw { zSX with cls := 1, d := 5, a := 4, b := 6, ord := 3, scope := 1 }) := by decide
-- 16_counters.md
theorem test_decode_semsImm : (decode .s 0x860080200001200000000001).toOption = some (.semsImm { zSX with cls := 1, a := 4, ord := 2, scope := 1, imm := 1 }) := by decide
-- 16_counters.md
theorem test_decode_calchk : (decode .s 0x87000E000000000000000003).toOption = some (.calchk { zSX with d := 7, imm := 3 }) := by decide
-- 18_programs_sync.md
theorem test_decode_atfmax : (decode .s 0x6C0180094000003480000000).toOption = some (.atfmax { zSM with cls := 3, a := 1, b := 10, ty := 0x0D, nr := 1 }) := by decide
-- 18_programs_sync.md
theorem test_decode_atmax : (decode .s 0x689180094000000880000040).toOption = some (.atmax { zSM with g := ⟨1, 2⟩, cls := 3, a := 1, b := 10, ty := 2, nr := 1, disp := 64 }) := by decide
-- 18_programs_sync.md
theorem test_decode_atmin : (decode .s 0x671180094000001880000080).toOption = some (.atmin { zSM with g := ⟨0, 2⟩, cls := 3, a := 1, b := 10, ty := 6, nr := 1, disp := 128 }) := by decide
-- 19_programs_inference.md
theorem test_decode_lpentTable : (decode .s 0x440000000000800000000000).toOption = some (.lpentTable { zSI with imm := 2 ^ 47 }) := by decide
-- 19_programs_inference.md
theorem test_decode_vgst : (decode .v 0xA70030000E80015200000000).toOption = some (.vgst { zVS with v := 24, top := 29 * 2 ^ 9, ty := 0x0A, m := 1, k := 1 }) := by decide
-- 19_programs_inference.md
theorem test_decode_vfms : (decode .v 0x05000043CF000D0000000000).toOption = some (.vfms { zVR with va := 8, vb := 30, vc := 30, ty := 0x0D }) := by decide
-- 19_programs_inference.md
theorem test_decode_vtopk : (decode .v 0x6500203000000D0000000080).toOption = some (.vtopk { zVR with vd := 16, va := 6, ty := 0x0D, ctl := 128 }) := by decide
-- 19_programs_inference.md
theorem test_decode_vcmplt : (decode .v 0x42000096000E0D0010000000).toOption = some (.vcmplt { zVR with va := 18, vb := 48, sreg := 7, ty := 0x0D, kd := 1 }) := by decide
-- 19_programs_inference.md
theorem test_decode_kpop : (decode .v 0x4F00000800280A0000000000).toOption = some (.kpop { zVR with va := 1, sreg := 20, ty := 0x0A }) := by decide
-- 19_programs_inference.md
theorem test_decode_vrng : (decode .v 0x67002AA0000C0D0000000000).toOption = some (.vrng { zVR with vd := 21, va := 20, sreg := 6, ty := 0x0D }) := by decide
-- 20_programs_data.md
theorem test_decode_vgld : (decode .v 0xA6000A000B80012000000820).toOption = some (.vgld { zVS with v := 5, top := 23 * 2 ^ 9, ty := 9, disp := 0x820 }) := by decide
-- 20_programs_data.md
theorem test_decode_vperm : (decode .v 0x800000030000090000000000).toOption = some (.vperm { zVR with vb := 24, ty := 9 }) := by decide
-- 20_programs_data.md
theorem test_decode_csem : (decode .c 0x060100000048000780000000).toOption = some (.csem { zCC with cls := 2, ord := 2, scope := 1, aux := 15 }) := by decide
-- 20_programs_data.md
theorem test_decode_semwImm : (decode .s 0x850100780000A00000000100).toOption = some (.semwImm { zSX with cls := 2, a := 15, ord := 1, scope := 1, imm := 256 }) := by decide

-- 11_lathe.md, the routine capinc
theorem test_decode_sliceLld : (decodeSlice 0x8C030000).toOption = some (.sliceLld 4 3 0 0) := by decide
theorem test_decode_sliceSkip : (decodeSlice 0x18828001).toOption = some (.sliceSkip 4 0 2 1 1) := by decide
theorem test_decode_sliceFail : (decodeSlice 0x10000007).toOption = some (.sliceFail 7) := by decide
theorem test_decode_sliceAddi : (decodeSlice 0x2D800001).toOption = some (.sliceAddi 5 4 1) := by decide
theorem test_decode_sliceLst : (decodeSlice 0x98A30000).toOption = some (.sliceLst 5 3 0) := by decide
theorem test_decode_sliceDone : (decodeSlice 0x08800000).toOption = some (.sliceDone 4) := by decide

-- 15_queues.md
theorem test_decode_gjDispatch : (decodeService 0x0003028B).toOption = some (.gjDispatch 5 6 0) := by decide
theorem test_decode_gjDispatch_timed : (decodeService 0x0073028B).toOption = some (.gjDispatch 5 6 7) := by decide
theorem test_decode_gjJoin : (decodeService 0x0005950B).toOption = some (.gjJoin 10 11 0) := by decide

/-! The hypotheses of the statements, met -/

/-- The S stream of the small machine stands at `i`. -/
abbrev atS (j : Job) (i : Instr) (g : Guard) (regs preds : List Nat) : Prop := AtIssue (tState .s j) 0 .s j i g regs preds

def rD : SR := { zSR with d := 4, a := 1, b := 2, ty := 3 }
def rC : SR := { rD with c := 3 }
def rA : SR := { rD with b := 0 }
def iD : SI := { zSI with d := 4, a := 1, ty := 3 }

theorem witness_ScalarArithmetic : atS tJob (.add rD) ⟨0, 0⟩ [4, 1, 2, 0] [0] ∧ atS tJob (.sel rD) ⟨0, 0⟩ [4, 1, 2, 0] [0] :=
  ⟨tAt (by decide), tAt (by decide)⟩

theorem witness_ScalarBits : atS tJob (.clz rA) ⟨0, 0⟩ [4, 1, 0, 0] [0] ∧ atS tJob (.ctz rA) ⟨0, 0⟩ [4, 1, 0, 0] [0] ∧
    atS tJob (.popc rA) ⟨0, 0⟩ [4, 1, 0, 0] [0] ∧ atS tJob (.bext rC) ⟨0, 0⟩ [4, 1, 2, 3] [0] ∧ atS tJob (.bins rC) ⟨0, 0⟩ [4, 1, 2, 3] [] :=
  ⟨tAt (by decide), tAt (by decide), tAt (by decide), tAt (by decide), tAt (by decide)⟩

theorem witness_ScalarPredicates : atS tJob (.cmpeq { rD with d := 0, pd := 1 }) ⟨0, 0⟩ [0, 1, 2, 0] [1] ∧
    atS tJob (.pand { zSR with a := 1, b := 2, pd := 1 }) ⟨0, 0⟩ [] [1, 1, 2] := ⟨tAt (by decide), tAt (by decide)⟩

/-- `mkva` in range, at the greatest offset; and out of it. -/
theorem witness_ScalarImmediates :
    (atS { tJob with s := [(1, 7), (2, 0x1FFFFFFFFFFFF)] } (.mkva { rD with ty := 0 }) ⟨0, 0⟩ [4, 1, 2, 0] [] ∧
      (0x1FFFFFFFFFFFF : Nat) < 2 ^ 49) ∧
    (atS { tJob with s := [(1, 8)] } (.mkva { rD with ty := 0 }) ⟨0, 0⟩ [4, 1, 2, 0] [] ∧ tJob.trapHeld .s = false) ∧
    atS tJob (.addi iD) ⟨0, 0⟩ [4, 1] [] ∧ atS tJob (.li { iD with a := 0 }) ⟨0, 0⟩ [4] [] ∧
    atS tJob (.lih { iD with a := 0, ty := 0 }) ⟨0, 0⟩ [4] [] ∧ atS tJob (.cmpeqi { iD with d := 0, pd := 1 }) ⟨0, 0⟩ [1] [1] :=
  ⟨⟨tAt (by decide), by decide⟩, ⟨tAt (by decide), by decide⟩, tAt (by decide), tAt (by decide), tAt (by decide), tAt (by decide)⟩

/-- A machine whose code page holds the bytes `bs` from its first on. -/
def tCode (bs : List Byte) (j : Job) : State := { tState .s j with mem := Sparse.ofList 0 0 bs }

/-- Branches to a misaligned target, to a page that is not mapped, to a target that stalls, to no header, to one with L, and to a header. -/
theorem witness_Branches :
    (atS tJob (.br { zSI with imm := 2 }) ⟨0, 0⟩ [] [] ∧ (0x20000 + 2) % 4 ≠ 0) ∧
    (tState .s tJob).fetch tJob 0x80000 8 = .trap 0x07 0x80000 2 ∧
    ({ tState .s tJob with dies := [(0, { tDie tJob with tags := [] })] } : State).fetch tJob 0x20000 8 = .stall 0x20000 ∧
    (tState .s tJob).fetch tJob 0x20000 8 = .ok [0, 0, 0, 0, 0, 0, 0, 0] ∧ (0 / 2 ^ 60 % 16 ≠ 15) ∧
    (tCode (leBytes 8 0xF01001FFFFFFFFF4) tJob).fetch tJob 0x20000 8 = .ok (leBytes 8 0xF01001FFFFFFFFF4) ∧
    (tCode (leBytes 8 tHeader.toNat) tJob).fetch tJob 0x20000 8 = .ok (leBytes 8 tHeader.toNat) ∧ tHeader.toNat / 2 ^ 60 % 16 = 15 ∧
    tHeader.toNat.testBit 2 = false ∧ tHeader.toNat.testBit 1 = false ∧ tJob.trapHeld .s = false := by
  refine ⟨⟨tAt (by decide), by decide⟩, ?_⟩
  decide

def tLevel : LoopLevel := ⟨4, 0, ⟨true, false, false, false⟩, false, false, false, 0, [], .all ⟨0, 0, 0xFFF, 0xFFF⟩⟩
/-- A job with loop level 0, and one in which S runs a pass of it. -/
def tLooped : Job := { tJob with loops := [tLevel] }
def tInPass : Job := { tLooped with levels := [(0, { Level.idle with trip := 4, active := true, mode := ⟨.running, .out, .out, .out⟩ })] }

theorem witness_Loops :
    (atS tLooped (.lpentReg { zSI with a := 2 }) ⟨0, 0⟩ [2] [] ∧ 0 < tLooped.gsize ∧ (tLooped.level 0).active = false ∧ (tLooped.loop 0).pipe = false) ∧
    (atS tInPass (.lpentImm { zSI with imm := 3 }) ⟨0, 0⟩ [] [] ∧ (tInPass.level 0).active = true) ∧
    (atS tInPass (.lpbrk zSI) ⟨0, 0⟩ [] [] ∧ (tInPass.loop 0).kind = 0 ∧ (tInPass.level 0).mode.s = .running) ∧
    (atS tLooped (.lpbrk zSI) ⟨0, 0⟩ [] [] ∧ (tLooped.level 0).mode.s ≠ .running ∧ tLooped.trapHeld .s = false) ∧
    atS tLooped (.lget { zSI with d := 4 }) ⟨0, 0⟩ [4] [] ∧
    (atS tLooped (.lset { zSI with a := 2 }) ⟨0, 0⟩ [2] [] ∧ (tLooped.level 0).active = false) ∧
    (atS tInPass (.lset { zSI with a := 2 }) ⟨0, 0⟩ [2] [] ∧ (tInPass.level 0).active = true ∧ tInPass.trapHeld .s = false) :=
  ⟨⟨tAt (by decide), by decide⟩, ⟨tAt (by decide), by decide⟩, ⟨tAt (by decide), by decide⟩, ⟨tAt (by decide), by decide⟩, tAt (by decide),
    ⟨tAt (by decide), by decide⟩, ⟨tAt (by decide), by decide⟩⟩

/-- A word with a fate, a pending guard, a guard that does not hold; `nop`; an unassigned opcode; a rendezvous that waits for a command,
one that does not, and one that ends. -/
theorem witness_StreamWords :
    (fateCause (Instr.nop .s ⟨1, 9⟩).fates = none ∧ fateCause (Instr.add { rD with ty := 4, g := ⟨0, 15⟩ }).fates = none ∧
      fateCause (Instr.add { rD with ty := 0x1F }).fates = some 1 ∧ tJob.mayIssue .s = true ∧ tJob.trapHeld .s = false) ∧
    (Instr.nop .s ⟨0, 3⟩).fates = [] ∧ ({ tJob with ppend := [(3, true)] } : Job).pendP ((Instr.nop .s ⟨0, 3⟩).bits / 2 ^ 83 % 16) = true ∧
    (tJob.pendP ((Instr.nop .s ⟨1, 0⟩).bits / 2 ^ 83 % 16) = false ∧
      tJob.rp ((Instr.nop .s ⟨1, 0⟩).bits / 2 ^ 83 % 16) = decide ((Instr.nop .s ⟨1, 0⟩).bits / 2 ^ 87 % 2 = 1)) ∧
    atS tJob (.nop .s ⟨0, 0⟩) ⟨0, 0⟩ [] [] ∧ atS tJob (.unassignedOpcode .s 0xFF0000000000000000000000) ⟨0, 0⟩ [] [] ∧
    (atS tJob (.rdv .s ⟨0, 0⟩) ⟨0, 0⟩ [] [] ∧ (tJob.stream .s).out = 0 ∧ (∀ x ∈ (tJob.stream .s).flight, x.out = 0) ∧
      (tState .s tJob).unfenced 0 .s 0xFFFF = false) ∧
    (AtIssue (tState .c { tJob with streams := .all { tStream with out := 1 } }) 0 .c { tJob with streams := .all { tStream with out := 1 } }
      (.rdv .c ⟨0, 0⟩) ⟨0, 0⟩ [] []) ∧
    (let j := { tJob with streams := .all { tStream with rdvWait := true } }
     (tState .s j).job? 0 = some j ∧ (tState .s j).input.core = 0 ∧ (tState .s j).input.flag = false ∧ j.hmode = false ∧ j.preempt = none ∧ j.frozen = false ∧
       ∀ e, (j.streams.get e).rdvWait = true ∨ (j.streams.get e).ended = true) := by
  refine ⟨by decide, by decide, by decide, by decide, tAt (by decide), tAt (by decide), ⟨tAt (by decide), by decide⟩, tAt (by decide), rfl, rfl, rfl,
    rfl, rfl, rfl, ?_⟩
  intro e; cases e <;> exact .inl rfl

/-- A stream at a header: misaligned, illegal, and legal with nothing to wait for. -/
def tAtHeader (h : Nat) : Job := { tJob with streams := { (PerEngine.all Stream.empty) with s := { tStream with hdr := h, word := 0, header := none } } }

theorem witness_SectionHeaders :
    ((tState .s (tAtHeader 0x20002)).turn = .stream 0 .s ∧ (tAtHeader 0x20002).mayIssue .s = true ∧ ((tAtHeader 0x20002).stream .s).header = none ∧
      ((tAtHeader 0x20002).stream .s).hdr % 4 ≠ 0) ∧
    ((tAtHeader 0x20000).mayIssue .s = true ∧ (tCode [] (tAtHeader 0x20000)).fetch (tAtHeader 0x20000) 0x20000 8 = .ok [0, 0, 0, 0, 0, 0, 0, 0]) ∧
    ((tCode (leBytes 8 tHeader.toNat) (tAtHeader 0x20000)).fetch (tAtHeader 0x20000) 0x20000 8 = .ok (leBytes 8 tHeader.toNat) ∧
      (tAtHeader 0x20000).preempt = none ∧ ((tAtHeader 0x20000).stream .s).word = 0 ∧ ((tAtHeader 0x20000).stream .s).closed = false ∧
      tHeader.toNat / 2 ^ 4 % 2 ^ 36 = 0xFFFFFFFFF ∧ (tCode (leBytes 8 tHeader.toNat) (tAtHeader 0x20000)).unfenced 0 .s 0xFFFF = false) := by decide

def tSpawn (sets : Nat) (pool : List ChildRecord) : State :=
  { tState .s tJob with dies := [(0, { tDie tJob with pool := pool })], blocks := [(0, [(0, 0x4000000100000000), (3, BitVec.ofNat 64 (sets * 2 ^ 52))])] }
def xSpawn : SX := { zSX with d := 4, a := 1, b := 2, idx := 2 }

/-- A set of the block with room in the pool; a full pool; a set out of range. -/
theorem witness_Spawn :
    (AtIssue (tSpawn 3 []) 0 .s tJob (.spawn xSpawn) ⟨0, 0⟩ [4, 1, 2] [] ∧ (tSpawn 3 []).blk 0 0x18 / 2 ^ 52 % 256 = 3 ∧
      (tSpawn 3 []).unfenced 0 .s 0xFFFF = false ∧ ((tSpawn 3 []).die 0).alive = true ∧ (tSpawn 3 []).blk 0 0x30 / 2 ^ 52 % 256 = 0 ∧ ((tSpawn 3 []).die 0).pool.length < 56) ∧
    (AtIssue (tSpawn 3 (List.replicate 56 ⟨0, 2, 0, 0, 0, 0, 0⟩)) 0 .s tJob (.spawn xSpawn) ⟨0, 0⟩ [4, 1, 2] [] ∧
      56 ≤ ((tSpawn 3 (List.replicate 56 ⟨0, 2, 0, 0, 0, 0, 0⟩)).die 0).pool.length ∧ tJob.trapHeld .s = false) ∧
    (AtIssue (tSpawn 2 []) 0 .s tJob (.spawn xSpawn) ⟨0, 0⟩ [4, 1, 2] [] ∧ (tSpawn 2 []).blk 0 0x18 / 2 ^ 52 % 256 ≤ xSpawn.idx.toNat) :=
  ⟨⟨atIssue_of rfl rfl (by decide), by decide⟩, ⟨atIssue_of rfl rfl (by decide), by decide⟩, ⟨atIssue_of rfl rfl (by decide), by decide⟩⟩

/-! Memory -/

def mL : SM := { zSM with d := 4, a := 1, ty := 3 }
def mRegs : List Nat := [4, 1, 0, 0, 0, 0]

/-- A load from the data page's first word, from its last, at an address of 2^52, and at a misaligned one. -/
theorem witness_Loads :
    (atS tJob (.ld mL) ⟨0, 0⟩ mRegs [] ∧ (∃ r, (tState .s tJob).jobLoad tJob 0x40000 8 = .ok r) ∧
      (tState .s tJob).behind 0 .s 0 none = false ∧ (tState .s tJob).span 0 0 1 false .read 0x40000 8 = .at [(0x20000, 8)]) ∧
    (atS { tJob with s := [(1, 0x5FFF8)] } (.ld mL) ⟨0, 0⟩ mRegs [] ∧ ∃ r, (tState .s tJob).jobLoad tJob 0x5FFF8 8 = .ok r) ∧
    (atS { tJob with s := [(1, 0x10000000000000)] } (.ld mL) ⟨0, 0⟩ mRegs [] ∧ tJob.trapHeld .s = false) ∧
    (atS { tJob with s := [(1, 0x40004)] } (.ld mL) ⟨0, 0⟩ mRegs [] ∧ (0x40004 : Nat) % 8 ≠ 0) := by
  refine ⟨⟨tAt (by decide), ⟨_, rfl⟩, by decide⟩, ⟨tAt (by decide), ⟨_, rfl⟩⟩, ⟨tAt (by decide), by decide⟩, ⟨tAt (by decide), by decide⟩⟩

theorem witness_Stores :
    (atS tJob (.st mL) ⟨0, 0⟩ mRegs [] ∧ (∃ t, (tState .s tJob).jobStore tJob 0x40000 (leBytes 8 0) = .ok t) ∧
      (tState .s tJob).behind 0 .s 0 none = false ∧ (tState .s tJob).span 0 0 1 false .write 0x40000 8 = .at [(0x20000, 8)]) ∧
    (atS { tJob with s := [(1, 0x10000000000000)] } (.st mL) ⟨0, 0⟩ mRegs [] ∧ tJob.trapHeld .s = false) ∧
    atS { tJob with s := [(1, 0x40004)] } (.st mL) ⟨0, 0⟩ mRegs [] :=
  ⟨⟨tAt (by decide), ⟨_, rfl⟩, by decide⟩, ⟨tAt (by decide), by decide⟩, tAt (by decide)⟩

def aD : SM := { zSM with d := 4, a := 1, b := 2, cls := 2, ty := 3 }
def tReq (i : Instr) : SliceRequest := ⟨0, false, 0, 1, i, 0x40000, 0x20000, [5, 0, 0, 0], 0, none⟩
/-- An atomic without a result, of class 2, that its slice has admitted and not run: it holds the data page's first line. -/
def tUnrun : State :=
  { tState .s tJob with dies := [(0, { tDie tJob with slices := [(sliceOf (0x20000 / 64),
      { Slice.idle with queues := [⟨0x20000 / 64, false, [tReq (.atadd { aD with d := 0, nr := 1 })]⟩] })] })] }

/-- A line that nothing holds; a fence of one class with nothing left to perform, one behind an atomic that has not run, and one of no
class. -/
theorem witness_PrefetchCleanFence :
    atS tJob (.prf { mL with d := 0, ty := 0 }) ⟨0, 0⟩ [0, 1, 0, 0, 0, 0] [] ∧
    (atS tJob (.clean { mL with d := 0, ty := 0 }) ⟨0, 0⟩ [0, 1, 0, 0, 0, 0] [] ∧
      (tState .s tJob).span 0 0 1 false .read 0x40000 1 = .at [(0x20000, 1)] ∧
      ((tState .s tJob).slice (paDie 0x20000) (sliceOf (0x20000 / 64))).holds (0x20000 / 64) = false ∧
      (tState .s tJob).behind 0 .s 0 none = false) ∧
    (atS tJob (.fence { zSX with ord := 3, imm := 1 }) ⟨0, 0⟩ [] [] ∧ (1 : Nat) % 2 ^ 16 ≠ 0 ∧ (tState .s tJob).unfenced 0 .s 1 = false) ∧
    (AtIssue tUnrun 0 .s tJob (.fence { zSX with ord := 3, imm := 4 }) ⟨0, 0⟩ [] [] ∧ tUnrun.unfenced 0 .s 4 = true ∧ tUnrun.behind 0 .s 2 none = true) ∧
    (atS tJob (.fence { zSX with ord := 3 }) ⟨0, 0⟩ [] [] ∧ tJob.trapHeld .s = false) :=
  ⟨tAt (by decide), ⟨tAt (by decide), by decide⟩, ⟨tAt (by decide), by decide⟩, ⟨atIssue_of rfl rfl (by decide), by decide⟩, ⟨tAt (by decide), by decide⟩⟩

/-! Atomics and routines at the slices -/

/-- The home slice of the data page's first line, with `y` in it. -/
def tHome (y : Slice) (j : Job) : State :=
  { tState .s j with dies := [(0, { tDie j with slices := [(sliceOf (0x20000 / 64), y)] })], input := { slice := sliceOf (0x20000 / 64), line := 0x20000 / 64 } }
/-- A slice whose routine machine is idle, with a queue of the data page's first line. -/
def tQueued (filled : Bool) (r : SliceRequest) : Slice := { Slice.idle with queues := [⟨0x20000 / 64, filled, [r]⟩] }
def tWaits : Job := { tJob with swait := .slice 0 (sliceOf (0x20000 / 64)) }

theorem witness_AtomicIssue :
    (atS tJob (.atadd aD) ⟨0, 0⟩ [4, 1, 2, 0, 0, 0] [] ∧ (tState .s tJob).span 0 0 1 false .write 0x40000 8 = .at [(0x20000, 8)] ∧
      (tState .s tJob).behind 0 .s 2 (some (0x20000 / 64)) = false ∧ tUnrun.behind 0 .s 2 (some (0x20000 / 64)) = false) ∧
    atS tJob (.atcas { aD with c := 3, ty := 7 }) ⟨0, 0⟩ [4, 1, 2, 3, 0, 0] [] ∧
    atS tJob (.atfadd { aD with ty := 0x0E }) ⟨0, 0⟩ [4, 1, 2, 0, 0, 0] [] ∧ atS tJob (.atfmax { aD with ty := 0x0D }) ⟨0, 0⟩ [4, 1, 2, 0, 0, 0] [] ∧
    atS tJob (.lathe { aD with ty := 0, te := 1 }) ⟨0, 0⟩ [4, 1, 2, 0, 0, 0] [] :=
  ⟨⟨tAt (by decide), by decide⟩, tAt (by decide), tAt (by decide), tAt (by decide), tAt (by decide)⟩

/-- A request whose line has no queue, one whose line's queue is full, and a queue to fill. -/
theorem witness_SliceRequests :
    (let s := tHome { Slice.idle with input := [tReq (.atadd aD)] } tWaits
     (s.slice 0 s.input.slice).input = [tReq (.atadd aD)] ∧ (s.slice 0 s.input.slice).queues = [] ∧ s.down 0x02 s.input.slice = false) ∧
    (let s := tHome { Slice.idle with input := [tReq (.atadd { aD with d := 0, nr := 1 })] } tWaits
     (s.slice 0 s.input.slice).input = [tReq (.atadd { aD with d := 0, nr := 1 })] ∧ (tReq (.atadd { aD with d := 0, nr := 1 })).nr = true ∧
       s.job? 0 = some tWaits ∧ tWaits.swait = .slice 0 s.input.slice ∧ tWaits.rebind = []) ∧
    (let s := tHome { Slice.idle with input := [tReq (.atadd aD)], queues := [⟨0x20000 / 64, true, List.replicate 8 (tReq (.atadd aD))⟩] } tWaits
     (s.slice 0 s.input.slice).queues.find? (fun q => q.line = 0x20000 / 64) =
       some ⟨0x20000 / 64, true, List.replicate 8 (tReq (.atadd aD))⟩) ∧
    (let s := tHome (tQueued false (tReq (.atadd aD))) tWaits
     (s.slice 0 s.input.slice).queues.find? (fun q => q.line = s.input.line && !q.filled) = some ⟨s.input.line, false, [tReq (.atadd aD)]⟩ ∧
       paDie (64 * s.input.line) = 0 ∧ sliceOf s.input.line = s.input.slice) := by decide

theorem witness_SliceAtomics :
    (let s := tHome (tQueued true (tReq (.atadd aD))) tWaits
     (s.slice 0 s.input.slice).headRequest s.input.line = some (tReq (.atadd aD)) ∧ s.job? 0 = some tWaits ∧
       tWaits.swait = .slice 0 s.input.slice ∧ tWaits.heldv = none ∧ tWaits.heldm = none ∧ tWaits.heldc = none ∧ tWaits.rebind = [] ∧ s.down 0x02 s.input.slice = false) ∧
    (let r := tReq (.lathe { aD with ty := 0 })
     let s := tHome (tQueued true r) tWaits
     (s.slice 0 s.input.slice).rm.active = none ∧ (s.slice 0 s.input.slice).headRequest s.input.line = some r ∧ r.pa / 64 = s.input.line ∧ r.code = none) ∧
    (let r := { tReq (.lathe { aD with ty := 0, te := 1 }) with code := some [BitVec.ofNat 32 (Instr.sliceDone 1).bits] }
     let s := tHome (tQueued true r) tWaits
     let m := runWords 2 (s.routineEntry r [BitVec.ofNat 32 (Instr.sliceDone 1).bits])
     (s.slice 0 s.input.slice).headRequest s.input.line = some r ∧ m.commit = true ∧ m.line.length = 64 ∧
       ∃ res, m.result = some res ∧ res.getLsbD 63 = false) := by
  refine ⟨by decide, by decide, ?_⟩
  refine ⟨by decide, by decide, by decide, ⟨_, rfl, by decide⟩⟩

/-- The routine machine of slice 0 of die 0 at a word, `cyc` cycles into its run, for the request of line 0. -/
def tMachine (cyc : Nat) : RoutineMachine :=
  { RoutineMachine.idle with active := some 0, code := [0x04000000], line := List.replicate 64 0, cyc := cyc }
def tRoutine (cyc : Nat) : State :=
  { State.reset with turn := .slice 0 0, dies := [(0, { Die.reset with slices :=
      [(0, { Slice.idle with rm := tMachine cyc, queues := [⟨0, true, [{ tReq (.lathe aD) with pa := 0 }]⟩] })] })] }

/-- Words within the 48 cycles, the last of them at the bound; places in the working line, the last of each size, and places outside it. -/
theorem witness_SliceDataWords :
    ((tRoutine 47).turn = .slice 0 0 ∧ ((tRoutine 47).slice 0 0).rm = tMachine 47 ∧ (tMachine 47).active ≠ none ∧ (tMachine 47).result = none ∧
      (tMachine 47).cyc + 1 ≤ 48 ∧ (tMachine 44).cyc + 4 ≤ 48 ∧ (tMachine 47).line.length = 64) ∧
    ((0 : Nat) % 8 = 0 ∧ 0 + 8 ≤ 64 ∧ 56 % 8 = 0 ∧ 56 + 8 ≤ 64 ∧ 63 % 1 = 0 ∧ 63 + 1 ≤ 64) ∧
    ((61 % 4 ≠ 0 ∨ 64 < 61 + 4) ∧ (64 % 4 ≠ 0 ∨ 64 < 64 + 4) ∧
      ((tRoutine 40).slice 0 0).headRequest ((tMachine 40).active.getD 0) = some { tReq (.lathe aD) with pa := 0 }) := by decide

theorem witness_SliceControlWords :
    ((tRoutine 47).turn = .slice 0 0 ∧ ((tRoutine 47).slice 0 0).rm = tMachine 47 ∧ (tMachine 47).active = some 0 ∧ (tMachine 47).result = none ∧
      ((tRoutine 47).slice 0 0).headRequest 0 = some { tReq (.lathe aD) with pa := 0 } ∧ (tMachine 47).cyc + 1 ≤ 48) ∧
    (((tRoutine 48).slice 0 0).rm = tMachine 48 ∧ ((tRoutine 48).slice 0 0).headRequest 0 = some { tReq (.lathe aD) with pa := 0 } ∧
      48 < (tMachine 48).cyc + 1) := by decide

/-! Synchronisation objects, counters, queues -/

/-- The small machine with the bytes `bs` at the head of its data page, and a resident object there. -/
def tObject (sel : Sel) (bs : List Byte) (j : Job) : State :=
  { tState sel j with dies := [(0, { tDie j with objects := [(0x20000, List.replicate 64 0)] })], mem := Sparse.ofList 0 0x20000 bs }
def xObj : SX := { zSX with a := 1, cls := 2 }
/-- The object of a statement: where it lies, that it is resident and has no waiters, and what its record holds. -/
abbrev ObjectReady (sel : Sel) (bs : List Byte) (j : Job) (r : SyncRecord) : Prop :=
  (tObject sel bs j).objectAt 0 j 0x40000 = .ok 0x20000 ∧ (tObject sel bs j).down 0x05 (paDie 0x20000) = false ∧
    ((tObject sel bs j).die (paDie 0x20000)).objects.find? (fun x => x.1 = 0x20000) = some (0x20000, List.replicate 64 0) ∧
    (tObject sel bs j).heldLine [(0x20000, 64)] = false ∧ (tObject sel bs j).behind 0 sel 2 none = false ∧ (tObject sel bs j).behind 0 sel 0 none = false ∧
    (tObject sel bs j).waitersAt 0x20000 = [] ∧ (tObject sel bs j).record 0x20000 = r
abbrev atO (bs : List Byte) (j : Job) (i : Instr) (regs : List Nat) : Prop := AtIssue (tObject .s bs j) 0 .s j i ⟨0, 0⟩ regs []

/-- A blank record, a count that is just enough, one that is one short, and the greatest sum. -/
theorem witness_Semaphores :
    ObjectReady .s [] tJob .blank ∧ ObjectReady .s (semBytes 5) tJob (.sem 5) ∧ ObjectReady .s (semBytes 4) tJob (.sem 4) ∧
    atO (semBytes 5) tJob (.semwReg { xObj with b := 2, ord := 1 }) [0, 1, 2] ∧ atO (semBytes 4) tJob (.semwImm { xObj with imm := 5, ord := 1 }) [0, 1, 0] ∧
    atO (semBytes 5) tJob (.semsReg { xObj with b := 2, ord := 2 }) [0, 1, 2] ∧ 5 + 4294967290 < 2 ^ 32 :=
  ⟨by decide, by decide, by decide, atIssue_of rfl rfl (by decide), atIssue_of rfl rfl (by decide), atIssue_of rfl rfl (by decide), by decide⟩

def tPhaser (sig wait arr : Nat) : Phaser := ⟨7, 0, 0, false, 0, sig, wait, arr⟩

/-- `phreg` of a blank record and of a phaser, with both roles; `phdrop` that leaves a phase open, and one that ends it; a mode of 0, a role
taken twice, and one dropped unheld. -/
theorem witness_PhaserRoles :
    (ObjectReady .s [] tJob .blank ∧ atO [] tJob (.phreg { xObj with d := 4, cls := 0, imm := 3 }) [4, 1, 0]) ∧
    (ObjectReady .s (tPhaser 2 2 0).bytes tJob (.phaser (tPhaser 2 2 0)) ∧
      atO (tPhaser 2 2 0).bytes tJob (.phreg { xObj with d := 4, cls := 0, imm := 3 }) [4, 1, 0] ∧ (tPhaser 2 2 0).sig.testBit 0 = false) ∧
    (ObjectReady .s (tPhaser 3 3 0).bytes tJob (.phaser (tPhaser 3 3 0)) ∧ atO (tPhaser 3 3 0).bytes tJob (.phdrop { xObj with cls := 0, imm := 3 }) [0, 1, 0] ∧
      (tPhaser 3 3 0).sig.testBit 0 = true ∧ (tPhaser 3 3 0).wait.testBit 0 = true ∧ (2 &&& 0 : Nat) ≠ 2) ∧
    (ObjectReady .s (tPhaser 3 3 2).bytes tJob (.phaser (tPhaser 3 3 2)) ∧ atO (tPhaser 3 3 2).bytes tJob (.phdrop { xObj with cls := 0, imm := 1 }) [0, 1, 0] ∧
      (3 - 1 : Nat) &&& 2 = 3 - 1) ∧
    (atO (tPhaser 3 3 0).bytes tJob (.phreg { xObj with cls := 0 }) [0, 1, 0] ∧ tJob.trapHeld .s = false ∧ (0 : Nat) % 4 = 0) ∧
    (atO (tPhaser 3 3 0).bytes tJob (.phreg { xObj with cls := 0, imm := 1 }) [0, 1, 0] ∧ (tPhaser 3 3 0).sig.testBit 0 = true) ∧
    (atO (tPhaser 2 2 0).bytes tJob (.phdrop { xObj with cls := 0, imm := 2 }) [0, 1, 0] ∧ (tPhaser 2 2 0).wait.testBit 0 = false) :=
  ⟨⟨by decide, atIssue_of rfl rfl (by decide)⟩, ⟨by decide, atIssue_of rfl rfl (by decide), by decide⟩,
    ⟨by decide, atIssue_of rfl rfl (by decide), by decide⟩, ⟨by decide, atIssue_of rfl rfl (by decide), by decide⟩,
    ⟨atIssue_of rfl rfl (by decide), by decide⟩, ⟨atIssue_of rfl rfl (by decide), by decide⟩, ⟨atIssue_of rfl rfl (by decide), by decide⟩⟩

set_option maxRecDepth 2000 in
/-- A signal of the current phase that is the last and one that is not, of a past phase, and of the phase to come; waits for an ended phase
and for the current one. -/
theorem witness_PhaserPhases :
    let at7 (i : Instr) (p : Phaser) : Prop := atO p.bytes { tJob with s := [(1, 0x40000), (2, 7)] } i [4, 1, 2] ∧
      ObjectReady .s p.bytes { tJob with s := [(1, 0x40000), (2, 7)] } (.phaser p)
    let y : SX := { xObj with d := 4, b := 2, ord := 2 }
    (at7 (.phsig y) (tPhaser 1 1 0) ∧ (1 &&& (0 ||| 2 ^ 0) : Nat) = 1) ∧ (at7 (.phsig y) (tPhaser 3 1 0) ∧ (3 &&& (0 ||| 2 ^ 0) : Nat) ≠ 3) ∧
    (atO (tPhaser 1 1 0).bytes { tJob with s := [(1, 0x40000), (2, 6)] } (.phsig y) [4, 1, 2] ∧ phaseAhead 7 6) ∧
    (atO (tPhaser 1 1 0).bytes { tJob with s := [(1, 0x40000), (2, 8)] } (.phsig y) [4, 1, 2] ∧ phaseAhead 8 7) ∧
    (at7 (.phwait { y with ord := 1 }) (tPhaser 1 1 0) ∧ ¬ phaseAhead 7 7) ∧ (at7 (.phsw { y with ord := 3 }) (tPhaser 1 1 0)) := by
  refine ⟨⟨⟨?_, ?_⟩, ?_⟩, ⟨⟨?_, ?_⟩, ?_⟩, ⟨?_, ?_⟩, ⟨?_, ?_⟩, ⟨⟨?_, ?_⟩, ?_⟩, ⟨?_, ?_⟩⟩ <;>
    first | exact atIssue_of rfl rfl (by decide) | decide

/-- Monitors whose check finds no drift, and one that saw a value that is not finite. -/
theorem witness_CountersRead :
    let m : Monitor := { Monitor.idle with cfg := 0x8000000000000000 }
    let bad : Monitor := { m with stat := 0x10 }
    (atS { tJob with mons := [(1, m)] } (.calchk { zSX with d := 4, imm := 2 }) ⟨0, 0⟩ [4] [] ∧ m.en = true ∧
      (calCheck (capturesOf [(0, 1, m)] 1)).drift = false) ∧
    (atS { tJob with mons := [(1, bad)] } (.calchk { zSX with d := 4, imm := 2 }) ⟨0, 0⟩ [4] [] ∧ bad.en = true ∧
      (calCheck (capturesOf [(0, 1, bad)] 1)).drift = true) ∧
    (atS tJob (.rdcnt { zSX with d := 4, idx := 0x40 }) ⟨0, 0⟩ [4] [] ∧ ((tState .s tJob).die 0).alive = true) ∧
    fateCause (Instr.rdcnt { zSX with d := 4, idx := 0x1F }).fates = some 0x01 ∧
    atS tJob (.rdcyc { zSX with d := 4 }) ⟨0, 0⟩ [4] [] :=
  ⟨⟨tAt (by decide), by decide⟩, ⟨tAt (by decide), by decide⟩, ⟨tAt (by decide), by decide⟩, by decide, tAt (by decide)⟩

theorem ok_with {α : Type} {x : Access α} (p : α → Bool) (h : (match x with
    | .ok v => p v
    | _ => false) = true) : ∃ v, x = .ok v ∧ p v = true := by
  cases x with
  | ok v => exact ⟨v, rfl, h⟩
  | stall _ => cases h
  | trap _ _ _ => cases h

theorem ok_of {α : Type} {x : Access α} (h : (match x with
    | .ok _ => true
    | _ => false) = true) : ∃ v, x = .ok v := (ok_with (fun _ => true) h).imp fun _ h => h.1

/-- The small machine with a request queue area in its data page: the header, and descriptor 0. -/
def tQueue (q : QArea) (j : Job) : State :=
  { tState .s j with
    dies := [(0, { tDie j with mtlb := [⟨0, 0x40000, 17, 0x20000, 3, 3, 0, [], false⟩] })]
    blocks := [(0, [(0, 0x4000000100000000), (2, 0x40000)])]
    mem := Sparse.ofList 0 0x20000 (q.bytes ++ List.replicate 39 0 ++ (QDesc.mk 0 2 9 0 0 0 0 0x77 0 0 0).bytes) }
/-- No request waits; one waits; the same one is current, at its first token and past its last. -/
def tNone : QArea := ⟨0, 0, 0, 0, 4, 12, 0, 0⟩
def tWaiting : QArea := ⟨0, 1, 0, 0, 4, 12, 0, 0⟩
def tCurrent (cpos : Nat) : QArea := ⟨0, 1, 0, 0, 4, 12, cpos, 1⟩
abbrev atQ (q : QArea) (i : Instr) (regs : List Nat) : Prop := AtIssue (tQueue q tJob) 0 .s tJob i ⟨0, 0⟩ regs []

set_option maxRecDepth 10000 in
theorem witness_QueueWords :
    (tQueue tNone tJob).queueArea 0 = .ok (tNone, none) ∧ (tQueue tWaiting tJob).queueArea 0 = .ok (tWaiting, none) ∧
    (∃ x, (tQueue (tCurrent 0) tJob).queueArea 0 = .ok (tCurrent 0, some x) ∧ (tCurrent 0).cpos < x.tcount) ∧
    (∃ x, (tQueue (tCurrent 2) tJob).queueArea 0 = .ok (tCurrent 2, some x) ∧ x.tcount ≤ (tCurrent 2).cpos) ∧
    atQ tNone (.qget { zSX with d := 4, idx := 1 }) [4, 0] ∧ atQ (tCurrent 0) (.qpeek { zSX with d := 4 }) [4, 0] ∧
    atQ (tCurrent 0) (.qlen { zSX with d := 4, idx := 1 }) [4, 0] ∧ tWaiting.pending ≠ 0 ∧
    (∃ bs, (tQueue tWaiting tJob).queueLoad 0 0x40 64 = .ok bs) ∧
    (∃ t, (tQueue tWaiting tJob).queueStore 0 0 { tWaiting with cur := 1, cpos := 0 }.bytes = .ok t ∧ t.stream? 0 = none) ∧
    (∃ t, (tQueue (tCurrent 0) tJob).queueStore 0 0x14 (leBytes 4 1) = .ok t) ∧
    (∃ bs, (tQueue (tCurrent 0) tJob).queueLoad 0 (0x40 + 64 * 2 ^ 4 + 4 * 0) 4 = .ok bs) ∧
    atQ tWaiting (.qwait { zSX with d := 4 }) [4] ∧ atQ tNone (.qwaitTimeout { zSX with d := 4, imm := 5 }) [4] ∧
    ((tState .s tJob).turn = .stream 0 .s ∧ tJob.mayIssue .s = true ∧ tJob.trapHeld .s = false ∧ 1 < ({ zSX with d := 4, idx := 2 } : SX).idx.toNat) := by
  refine ⟨by decide, by decide, ⟨_, rfl, by decide⟩, ⟨_, rfl, by decide⟩, ?_, ?_, ?_, by decide, ok_of (by decide +kernel),
    (ok_with (fun t => (t.stream? 0).isNone) (by decide +kernel)).imp fun _ h => ⟨h.1, Option.isNone_iff_eq_none.mp h.2⟩, ok_of (by decide +kernel),
    ok_of (by decide +kernel), ?_, ?_,
    by decide⟩ <;>
    exact atIssue_of rfl rfl (by decide)

def tReply (slot : Option Nat) (stopped : Option (Nat × Nat)) : ReplyStream :=
  ⟨0, some (.ethernet 3), 0, false, slot, [], stopped, 0, 0, 9, [], [], 0⟩
/-- A vocabulary of two tokens in slot 1, and an open reply stream. -/
def tReplies (r : ReplyStream) (j : Job) : State :=
  { tQueue (tCurrent 0) j with hub := { Hub.reset with streams := [r], vocab := [(1, ⟨2, 0, 0, [0, 0, 0, 0, 0, 0, 0, 0, 2, 0, 0, 0], none⟩)] } }
abbrev atR (r : ReplyStream) (j : Job) (i : Instr) (regs : List Nat) : Prop :=
  AtIssue (tReplies r j) 0 .s j i ⟨0, 0⟩ regs [] ∧ (∃ x, (tReplies r j).queueArea 0 = .ok x) ∧ (tReplies r j).stream? 0 = some r

/-- Tokens of 33 bits, of an unbound stream, the first above the vocabulary, the last of it (stopped, and not); `spflush` and `spend`. -/
theorem witness_ReplyStreams :
    let tok (v : Word) : Job := { tJob with s := [(1, v)] }
    (atR (tReply (some 1) none) (tok 0x100000000) (.spin { zSX with a := 1 }) [1] ∧ tJob.trapHeld .s = false) ∧
    atR (tReply none none) (tok 0) (.spin { zSX with a := 1 }) [1] ∧
    (atR (tReply (some 1) none) (tok 2) (.spin { zSX with a := 1 }) [1] ∧ vocNtok (Sparse.get .empty (tReplies (tReply (some 1) none) tJob).hub.vocab 1).image = 2) ∧
    atR (tReply (some 1) (some (1, 0))) (tok 1) (.spin { zSX with a := 1 }) [1] ∧
    atR (tReply (some 1) none) (tok 1) (.spin { zSX with a := 1 }) [1] ∧
    atR (tReply (some 1) none) tJob (.spflush zSX) [0, 0] ∧ atR (tReply (some 1) none) tJob (.spend zSX) [0, 0] := by
  refine ⟨⟨⟨?_, ⟨_, rfl⟩, rfl⟩, ?_⟩, ⟨?_, ⟨_, rfl⟩, rfl⟩, ⟨⟨?_, ⟨_, rfl⟩, rfl⟩, ?_⟩, ⟨?_, ⟨_, rfl⟩, rfl⟩, ⟨?_, ⟨_, rfl⟩, rfl⟩, ⟨?_, ⟨_, rfl⟩, rfl⟩,
      ⟨?_, ⟨_, rfl⟩, rfl⟩⟩ <;>
    first | exact atIssue_of rfl rfl (by decide) | decide

/-! System registers, traps and the system words -/

/-- One register of every row, the first and the last of each range. -/
theorem witness_SystemRegisterReads :
    ∀ x ∈ [0x00, 0x08, 0x0C, 0x10, 0x11, 0x18, 0x19, 0x20, 0x27, 0x30, 0x37, 0x40, 0x4B, 0x100, 0x1E6, 0x200, 0x207, 0x208, 0x20F, 0x280],
      tReady .s tJob (.mfsr { zSX with d := 4, idx := BitVec.ofNat 12 x }) ⟨0, 0⟩ [4] [] = true := by decide

/-- A job in its handler. -/
def tHandler : Job :=
  { tJob with hmode := true, hs := tStream, streams := { PerEngine.all tStream with s := { tStream with trapped := true } }
              trap := ⟨0x07, 0, 1, 1, 0, 0x50000, 0⟩, rets := 0x10000000020000 }

theorem witness_SystemRegisterWrites :
    let ones : Job := { tJob with s := [(1, 1)] }
    let two : Job := { tJob with s := [(1, 2)] }
    let high : Job := { tJob with s := [(1, 255)] }
    let wr (x : BitVec 12) : SX := { zSX with a := 1, idx := x }
    atS ones (.trapctlWrite (wr 7)) ⟨0, 0⟩ [1] [] ∧
    (∀ v ∈ [(1 : Word), 8], let j := { tHandler with s := [(1, v)] }; AtIssue (tState .hs j) 0 .hs j (.trapctlWrite (wr 7)) ⟨0, 0⟩ [1] []) ∧
    (atS ones (.engineSharedRegisterWrite (wr 0x40)) ⟨0, 0⟩ [1] [] ∧ setsRes 0x40 1 = false ∧ ones.enginesDrained = true) ∧
    (let j := { ones with streams := { PerEngine.all tStream with v := { tStream with out := 1 } } }
     atS j (.engineSharedRegisterWrite (wr 0x48)) ⟨0, 0⟩ [1] [] ∧ j.enginesDrained = false) ∧
    (atS { tJob with s := [(1, 0)] } (.calcfgWrite (wr 0x1E0)) ⟨0, 0⟩ [1] [] ∧ calConfigOk 0 0 0 0 = true) ∧
    (atS { tJob with s := [(1, 0x8000000000000000)] } (.calcfgWrite (wr 0x100)) ⟨0, 0⟩ [1] [] ∧ setsRes 0x100 0x8000000000000000 = false ∧
      calConfigOk 0x8000000000000000 0 0 0 = false) ∧
    atS ones (.calcmdClr (wr 0x105)) ⟨0, 0⟩ [1] [] ∧ atS two (.calcmdClr (wr 0x1E5)) ⟨0, 0⟩ [1] [] ∧
    atS two (.perfselWrite (wr 0x207)) ⟨0, 0⟩ [1] [] ∧ atS high (.perfselWrite (wr 0x200)) ⟨0, 0⟩ [1] [] ∧
    atS ones (.mtsr (wr 0x20F)) ⟨0, 0⟩ [1] [] ∧
    (atS two (.mtsr (wr 0x1E1)) ⟨0, 0⟩ [1] [] ∧ setsRes 0x1E1 2 = false ∧ (tJob.mon 7).en = false) ∧
    (atS { two with mons := [(0, { Monitor.idle with cfg := 0x8000000000000000 })] } (.mtsr (wr 0x103)) ⟨0, 0⟩ [1] []) ∧
    atS two (.mtsr (wr 0x104)) ⟨0, 0⟩ [1] [] ∧ (atS two (.mtsr (wr 0x106)) ⟨0, 0⟩ [1] [] ∧ setsRes 0x106 2 = false) := by
  refine ⟨tAt (by decide), ?_, ⟨tAt (by decide), by decide, by decide⟩, ⟨tAt (by decide), by decide⟩, ⟨tAt (by decide), by decide⟩,
    ⟨tAt (by decide), by decide, by decide⟩, tAt (by decide), tAt (by decide), tAt (by decide), tAt (by decide), tAt (by decide),
    ⟨tAt (by decide), by decide, by decide⟩, tAt (by decide), tAt (by decide), ⟨tAt (by decide), by decide⟩⟩
  intro v hv
  simp only [List.mem_cons, List.not_mem_nil, or_false] at hv
  rcases hv with rfl | rfl <;> exact tAt (by decide)

/-- The small machine with its trap area at the head of the data page. -/
def tArea (sel : Sel) (j : Job) : State := { tState sel j with blocks := [(0, [(0, 0x4000000100000000), (5, 0x40000)])] }
abbrev AreaReady (sel : Sel) (j : Job) : Prop :=
  (tArea sel j).blk 0 0x28 = 0x40000 ∧ (0x40000 : Nat) % 64 = 0 ∧ (tArea sel j).span j.core j.ctx j.wid j.conf .write 0x40000 64 = .at [(0x20000, 64)] ∧
    (tArea sel j).heldLine [(0x20000, 64)] = false

/-- A job with a handler and one with none. -/
theorem witness_TakingATrap :
    ((tArea .s tJob).job? 0 = some tJob ∧ Sel.s.isHandler = false ∧ tJob.hmode = false ∧ tJob.swait = .none ∧ tJob.handS ≠ 0) ∧ AreaReady .s tJob ∧
    ((tArea .v { tJob with handS := 0 }).job? 0 = some { tJob with handS := 0 }) ∧ AreaReady .v { tJob with handS := 0 } := by
  refine ⟨⟨rfl, rfl, rfl, rfl, by decide⟩, by decide, rfl, by decide⟩

theorem witness_TrapAndReturn :
    (AtIssue (tArea .s tJob) 0 .s tJob (.trap { zSX with imm := 5 }) ⟨0, 0⟩ [] [] ∧ AreaReady .s tJob ∧ tJob.handS ≠ 0) ∧
    (atS tJob (.eret zSX) ⟨0, 0⟩ [] [] ∧ tJob.trapHeld .s = false) ∧
    (let j := { tHandler with msaved := .saved }
     AtIssue (tState .hs j) 0 .hs j (.eret zSX) ⟨0, 0⟩ [] [] ∧ j.trapHeld .hs = false) ∧
    (let j := { tHandler with hm := { tStream with out := 1 } }
     AtIssue (tState .hs j) 0 .hs j (.eret zSX) ⟨0, 0⟩ [] [] ∧ j.handlerDrained = false) ∧
    (AtIssue (tState .hs tHandler) 0 .hs tHandler (.eret zSX) ⟨0, 0⟩ [] [] ∧ tHandler.handlerDrained = true ∧ (tState .hs tHandler).unfenced 0 .hs 0xFFFF = false ∧
      tHandler.pend = false ∧ tHandler.skips = false) ∧
    (let j := { tHandler with skip := true, trap := { tHandler.trap with stream := 1 }, streams := .all { tStream with header := some 0xF02001FFFFFFFFF1 } }
     AtIssue (tState .hs j) 0 .hs j (.eret zSX) ⟨0, 0⟩ [] [] ∧ j.handlerDrained = true ∧ j.skips = true ∧ selOfCode j.trap.stream = .v ∧
       j.repValid = false ∧ j.streams.v.word < hLength 0xF02001FFFFFFFFF1) := by
  refine ⟨⟨atIssue_of rfl rfl (by decide), by decide, by decide⟩, ⟨tAt (by decide), by decide⟩, ⟨tAt (by decide), by decide⟩,
    ⟨tAt (by decide), by decide⟩, ⟨tAt (by decide), by decide⟩, ⟨tAt (by decide), by decide⟩⟩

/-- A `yield` with nothing queued, and one with a queued micro-context of the same shape on the same die; snapshots at every scope. -/
theorem witness_YieldAndSnapshots :
    (atS tJob (.yield zSX) ⟨0, 0⟩ [] [] ∧ ∀ b ∈ (tState .s tJob).blocks, b.1 = tJob.ctx) ∧
    (let s := { tState .s tJob with blocks := [(0, [(0, 0x4000000100000000)]), (1, [(0, 0x2000000100000000)])] }
     AtIssue s 0 .s tJob (.yield zSX) ⟨0, 0⟩ [] [] ∧ s.ctxState 1 = 1 ∧ s.prio 0 ≤ s.prio 1 ∧ 0 ∈ s.wantedCores 1 ∧ 0 ∈ s.coresOf 0) ∧
    (atS tJob (.snap { zSX with imm := 4 }) ⟨0, 0⟩ [] [] ∧ tJob.trapHeld .s = false) ∧
    (atS tJob (.snap zSX) ⟨0, 0⟩ [] [] ∧ Sparse.get 0 ((tState .s tJob).die 0).lastSnap 16 = 0) ∧
    atS tJob (.snap { zSX with imm := 3 }) ⟨0, 0⟩ [] [] ∧ (tState .s tJob).input.kind = 0 ∧ (tState .s tJob).ring (tState .s tJob).input.ring = [] :=
  ⟨⟨tAt (by decide), by decide⟩, ⟨atIssue_of rfl rfl (by decide), by decide⟩, ⟨tAt (by decide), by decide⟩, ⟨tAt (by decide), by decide⟩,
    tAt (by decide), rfl, rfl⟩

theorem witness_HypervisorCalls :
    (AtIssue (tArea .s tJob) 0 .s tJob (.hcall { zSX with d := 4, imm := 0x1000 }) ⟨0, 0⟩ [4, 1, 2, 3, 4, 5, 6] [] ∧ AreaReady .s tJob) ∧
    (AtIssue (tArea .hs tHandler) 0 .hs tHandler (.hcall { zSX with d := 4, imm := 0x1000 }) ⟨0, 0⟩ [4, 1, 2, 3, 4, 5, 6] [] ∧
      AreaReady .hs tHandler) ∧
    (∀ imm ∈ [0xFF, 0x300, 0xFFF, 0x10000, 0x104, 0x2FF, 0x1000, 0xFFFF],
      let j := { tJob with swait := .hcall 4 imm 0 0 }
      ((tState .s j).coresOf 0).find? (fun m => ((tState .s j).job? m).any fun k => k.gidx = 0 && k.child = false) = some 0 ∧
        (tState .s j).job? 0 = some j ∧ j.pend = false) := by
  refine ⟨⟨atIssue_of rfl rfl (by decide), by decide⟩, ⟨atIssue_of rfl rfl (by decide), by decide⟩, by decide⟩

/-! Vectors -/

/-- The V stream of the small machine stands at `i`. -/
abbrev atV (j : Job) (i : Instr) (regs : List Nat) : Prop := AtIssue (tState .v j) 0 .v j i ⟨0, 0⟩ regs []
def vR : VR := { zVR with vd := 2, va := 3, vb := 4, ty := 2 }
/-- A job whose mask 1 enables lane 0 alone, and whose FPEN enables every flag. -/
def tOne : Job := { tJob with k := [(1, 1)], fpen := 0xFFFFFFFF }
/-- Bobbin 0 bound with one entry, bobbin 1 bound and draining with room. -/
def tBobbins : Job := { tJob with b := [(0, ⟨[5], false, false, true⟩), (1, ⟨[], false, true, true⟩)] }

/-- Registers, a source bobbin and a destination bobbin; a quotient by zero in the one enabled lane, with the flag enabled and not. -/
theorem witness_VectorElements :
    (atV tJob (.vadd vR) [0] ∧ tJob.bobbinGate (bobbinsOf [3, 4]) (bobbinsOf [2]) = .ready ∧ tJob.fpen = 0) ∧
    (atV tBobbins (.vmul { vR with vd := 33, va := 32 }) [0] ∧ tBobbins.bobbinGate (bobbinsOf [32, 4]) (bobbinsOf [33]) = .ready) ∧
    (atV tOne (.vdiv { vR with m := 1, k := 1, ty := 0x0D }) [0] ∧
      tOne.fpTraps .v (lanesRaise 128 1 fun e => Elem.divide ⟨0x0D, .rne, false, 0, e, 0x3F800000, 0, 0⟩) = true ∧
      tJob.fpTraps .v (lanesRaise 128 1 fun e => Elem.divide ⟨0x0D, .rne, false, 0, e, 0x3F800000, 0, 0⟩) = false ∧
      tOne.trapHeld .v = false) :=
  ⟨⟨tAt (by decide), by decide⟩, ⟨tAt (by decide), by decide⟩, ⟨tAt (by decide), by decide, by decide, by decide⟩⟩

/-- The least and the greatest integers of a signed and of an unsigned type. -/
theorem witness_VectorIntegerElements : ∀ x ∈ [(Elem.mk 0 .rne true 0 511 128 255 0), ⟨4, .rne, false, 0, 0, 255, 0, 0⟩, ⟨6, .rne, true, 0, 0, 0, 2 ^ 32 - 1, 0⟩],
    x.t < 12 ∧ x.a < 2 ^ tyWidth x.t ∧ x.b < 2 ^ tyWidth x.t := by decide

theorem witness_VectorMasks :
    (atV tJob (.vcmplt { vR with vd := 0, kd := 1 }) [0] ∧ tJob.bobbinGate (bobbinsOf [3, 4]) [] = .ready ∧ tJob.fpTraps .v 0 = false) ∧
    (atV tJob (.vsel { vR with k := 7, m := 1 }) [0] ∧ tJob.bobbinGate (bobbinsOf [3, 4]) (bobbinsOf [2]) = .ready) ∧
    atV tJob (.kand { zVR with va := 1, vb := 7, kd := 2 }) [] ∧ atV tJob (.knot { zVR with va := 1, kd := 2 }) [] ∧
    atV tJob (.kmov { zVR with va := 1, kd := 2 }) [] ∧
    atV tJob (.kmovFromScalar { zVR with va := 48, sreg := 2, kd := 2 }) [2] ∧ atV tJob (.kmovToScalar { zVR with va := 1, sreg := 2, ctl := 1 }) [2] ∧
    atV tJob (.kpop { zVR with va := 1, sreg := 2, ty := 2 }) [2] :=
  ⟨⟨tAt (by decide), by decide⟩, ⟨tAt (by decide), by decide⟩, tAt (by decide), tAt (by decide), tAt (by decide), tAt (by decide), tAt (by decide),
    tAt (by decide)⟩

/-- Conversions at the last part and past it. -/
theorem witness_VectorConversions :
    (atV tJob (.vcvt { vR with vb := 0, ty := 0x0D, dty := 0x0E, ctl := 1 }) [0] ∧ tJob.bobbinGate (bobbinsOf [3]) (bobbinsOf [2]) = .ready ∧
      1 < cvtRatio 0x0D 0x0E ∧ tJob.fpen = 0) ∧
    (atV tJob (.vcvt { vR with vb := 0, ty := 0x0D, dty := 0x0E, ctl := 2 }) [0] ∧ cvtRatio 0x0D 0x0E ≤ 2 ∧ tJob.trapHeld .v = false) ∧
    (atV tJob (.vmxq { vR with ty := 0x0D, dty := 0x15, ctl := 3 }) [0] ∧ 3 < 512 / (4096 / tyWidth 0x0D)) ∧
    (atV tJob (.vmxd { vR with ty := 0x15, dty := 0x0D, ctl := 3 }) [0] ∧ tJob.bobbinGate (bobbinsOf [3, 4]) (bobbinsOf [2]) = .ready) :=
  ⟨⟨tAt (by decide), by decide⟩, ⟨tAt (by decide), by decide⟩, ⟨tAt (by decide), by decide⟩, ⟨tAt (by decide), by decide⟩⟩

/-- Reductions and scans; a count `vtopk` takes, the greatest, and those it does not. -/
theorem witness_VectorReductions :
    atV tJob (.vredsum { vR with vb := 0 }) [0] ∧ atV tJob (.vredmax { vR with vb := 0 }) [0] ∧ atV tJob (.vscan { vR with vb := 0, ctl := 1 }) [0] ∧
    (atV tJob (.vtopk { vR with vb := 0, vd := 30, ctl := 128 }) [0] ∧ ¬((128 : Nat) = 0 ∨ 4096 / tyWidth 2 < 128 ∨ 30 < 30)) ∧
    (atV tJob (.vtopk { vR with vb := 0, ctl := 129 }) [0] ∧ 4096 / tyWidth 2 < 129) ∧ atV tJob (.vtopk { vR with vb := 0, vd := 31, ctl := 1 }) [0] ∧
    atV tJob (.vtopk { vR with vb := 0, ctl := 0 }) [0] ∧
    (atV tJob (.vtopk { vR with vb := 0, ty := 0, ctl := 257 }) [0] ∧ tyWidth 0 = 8) ∧
    atV tJob (.vargmax { vR with vd := 0, vb := 0, sreg := 5 }) [0, 5] ∧
    atV tJob (.vrng { vR with vb := 0, sreg := 2, ty := 0x0D }) [0, 2] ∧ tJob.bobbinGate (bobbinsOf [3]) (bobbinsOf [2]) = .ready ∧
    (Nat.testBit 1 0 = true ∧ 0 < 4096 / tyWidth 2) :=
  ⟨tAt (by decide), tAt (by decide), tAt (by decide), ⟨tAt (by decide), by decide⟩, ⟨tAt (by decide), by decide⟩, tAt (by decide), tAt (by decide),
    ⟨tAt (by decide), by decide⟩, tAt (by decide), tAt (by decide), by decide, by decide⟩

theorem witness_VectorPermutes :
    atV tJob (.vperm { vR with vc := 5 }) [0] ∧ atV tJob (.vrot vR) [0] ∧ atV tJob (.vzip { vR with ctl := 1 }) [0] ∧
    atV tJob (.vexpand { vR with vb := 0, m := 1, k := 1 }) [0] ∧ atV tJob (.vcompress { vR with vb := 0, m := 1, k := 1, sreg := 5 }) [0, 5] ∧
    tJob.bobbinGate (bobbinsOf [3, 4, 5]) (bobbinsOf [2]) = .ready ∧ tJob.bobbinGate (bobbinsOf [3]) (bobbinsOf [2]) = .ready :=
  ⟨tAt (by decide), tAt (by decide), tAt (by decide), tAt (by decide), tAt (by decide), by decide, by decide⟩

def vS : VS := { zVS with v := 3, sbase := 1, ty := 2 }

/-- Scratchpad offsets: the last element in range, a misaligned one, one out of range. Tile lines: the last, one too far, and a leased tile. -/
theorem witness_VectorMoves :
    let at_ (b : Word) : Job := { tOne with s := [(1, b)] }
    let lane0 : VS := { vS with m := 1, k := 1 }
    (atV (at_ 3145724) (.vld lane0) [1, 0] ∧ 3145724 % 4 = 0 ∧ ¬(3145728 < 3145724 + 4) ∧ (tState .v (at_ 3145724)).padStalls 0 3145724 4 = false ∧
      (at_ 3145724).bobbinGate [] (bobbinsOf [3]) = .ready) ∧
    (atV (at_ 2) (.vstx { lane0 with sidx := 2 }) [1, 2] ∧ (2 : Nat) % 4 ≠ 0) ∧
    (atV (at_ 3145728) (.vst lane0) [1, 0] ∧ 3145728 < 3145728 + 4) ∧
    atV (at_ 0) (.vgst { lane0 with top := 4 * 512 }) [1, 0] ∧
    (let f : VS := { vS with sbase := 0, top := 124 }
     atV tJob (.tld f) [] ∧ topTile f.top = 0 ∧ topDir f.top = .row ∧ 124 + linesPerVector 32 .row ≤ lineCount 32 .row ∧
       tJob.tileLeased 0 = false ∧ tJob.bobbinGate (bobbinsOf [3]) [] = .ready) ∧
    (atV tJob (.tst { vS with sbase := 0, top := 125 }) [] ∧ ¬(125 + linesPerVector 32 .row ≤ lineCount 32 .row)) ∧
    (let j := { tJob with mqueue := [⟨.mmt { zMM with aty := 12, bty := 12 }, 0, 0, true, 0, 1, 1, false, false, false⟩] }
     atV j (.tzero { zVS with top := 0 }) [] ∧ j.tileLeased 0 = true ∧ j.trapHeld .v = false) ∧
    atV tJob (.tzero { zVS with top := 0x7800 }) [] := by
  refine ⟨⟨tAt (by decide), by decide⟩, ⟨tAt (by decide), by decide⟩, ⟨tAt (by decide), by decide⟩, tAt (by decide), ⟨tAt (by decide), by decide⟩,
    ⟨tAt (by decide), by decide⟩, ⟨tAt (by decide), by decide⟩, tAt (by decide)⟩

/-- The V stream at word 1 of a section of two words, whose second word adds v3 and v4 to v2. -/
def tTwo : Stream := { tStream with header := some 0xF02001FFFFFFFFF1 }
def wAdd : Nat := 0x10004188000020000000000
def tRep (j : Job) : State :=
  { tState .v j with mem := Sparse.ofList 0 0 (leBytes 8 0xF02001FFFFFFFFF1 ++ List.replicate 12 0 ++ leBytes 12 wAdd) }
def pR : VP := { zVP with count := 4, dstep := 1 }

def tRepJob : Job := { tJob with streams := { PerEngine.all tStream with v := tTwo }, s := [(1, 0), (2, 65536)] }
def tRepeats : Job := { tRepJob with repValid := true, repDone := 2, repLeft := 2, streams := { PerEngine.all tStream with
  v := { tTwo with word := 2, fetched := some 0xA80000000200000000000000 } } }
def tRepeatState : State := { tState .v tRepeats with mem := Sparse.ofList 0 8 (leBytes 12 0xF00000000800002000000000) }

theorem tRep_next : (tRep tRepJob).repNext tRepJob = .word wAdd := by
  have x : (tRep tRepJob).fetch tRepJob (tRepJob.streams.v.wordAt (tRepJob.streams.v.word + 1)) 12 = .ok (leBytes 12 wAdd) := by decide
  have y : leNat (leBytes 12 wAdd) = wAdd := by decide
  have z : (vWord (candidate .v (leNat (leBytes 12 wAdd)))).isSome = true := by decide
  rw [← y]
  simp only [State.repNext]
  rw [show tRepJob.streams.v.header = some 0xF02001FFFFFFFFF1 from rfl]
  simp only [x, z]
  rfl


/-- A prefix of 0, one in range, one of a word that leaves the registers, one above 65,535; a repetition of `tzero`. -/
theorem witness_RepeatPrefix :
    let atRep (f : VP) : Prop := AtIssue (tRep tRepJob) 0 .v tRepJob (.rep f) ⟨0, 0⟩ [f.creg.toNat] [] ∧ (tRep tRepJob).repNext tRepJob = .word wAdd ∧
      (decode .v wAdd).toOption = some (.vadd vR)
    atRep { zVP with creg := 1 } ∧ (atRep pR ∧ repChecks pR (.vadd vR) 4 = true) ∧
    (atRep { pR with count := 31 } ∧ repChecks { pR with count := 31 } (.vadd vR) 31 = false) ∧ atRep { zVP with creg := 2 } ∧
    (tRepeats.mayIssue .v = true ∧ tRepeats.repValid = true ∧
      tRepeatState.fetch tRepeats (tRepeats.streams.v.wordAt (tRepeats.streams.v.word - 1)) 12 = .ok (leBytes 12 0xF00000000800002000000000) ∧
      (decode .v 0xA80000000200000000000000).toOption = some (.tzero { zVS with top := 0x800 }) ∧
      stepWord { zVP with count := 4, tstep := 1 } 2 (.tzero { zVS with top := 0x800 }) = .tzero { zVS with top := 0x1800 }) := by
  have add : (decode .v wAdd).toOption = some (.vadd vR) := by decide
  exact ⟨⟨atIssue_of rfl rfl (by decide), tRep_next, add⟩, ⟨⟨atIssue_of rfl rfl (by decide), tRep_next, add⟩, by decide⟩,
    ⟨⟨atIssue_of rfl rfl (by decide), tRep_next, add⟩, by decide⟩, ⟨atIssue_of rfl rfl (by decide), tRep_next, add⟩,
    by decide, by decide, by decide, by decide, by decide +kernel⟩

/-! The matrix engine -/

def mA : MA := { zMA with acc := 2 }
def mMma : MM := { zMM with acc := 1, warp := 1, weft := 2, aty := 0x10, bty := 0x11 }
def tCommand (i : Instr) (first : Word) (started : Bool) : MCommand := ⟨i, first, 0, started, 0, 1, 1, false, false, false⟩
abbrev atM (j : Job) (i : Instr) (regs : List Nat) : Prop := AtIssue (tState .m j) 0 .m j i ⟨0, 0⟩ regs []

/-- A full queue, an image that has not issued, a leased tile, an empty queue; operands that trap. -/
theorem witness_MatrixIssue :
    let full : Job := { tJob with mqueue := List.replicate 4 (tCommand (.mzero mA) 0 true) }
    let image : Job := { tJob with mqueue := [{ tCommand (.mzero mA) 0 false with queued := true }] }
    let lent : Job := { tJob with ccmd := some ⟨.cpfill { zCC with sd := 1, ty := 2, dty := 2 }, true, 0, 0, 0x4000000000000000, 0, 0, [], 1, 1, false, [], 0⟩ }
    (atM full (.mzero mA) [] ∧ 4 ≤ full.mqueue.length) ∧ (atM image (.mzero mA) [] ∧ ∃ x ∈ image.mqueue, x.queued = true ∧ (x.handler = true ∨ image.streams.m.trapped = false)) ∧
    (atM lent (.mbias { mA with ty := 2, top := 512 }) [] ∧ mIssueTrap (.mbias { mA with ty := 2, top := 512 }) 0 0 = none ∧ ∃ t ∈ leasedTiles (.mbias { mA with ty := 2, top := 512 }), t ∈ lent.cTiles) ∧
    (atM tJob (.mma mMma) [] ∧ mIssueTrap (.mma mMma) 0 0 = none ∧ ∀ t ∈ leasedTiles (.mma mMma), t ∉ tJob.cTiles) ∧
    (atM tJob (.mma { mMma with km1 := 8191 }) [] ∧ min (kLimit 0x10) (kLimit 0x11) < 8191 + 1 ∧ tJob.trapHeld .m = false) ∧
    atM tJob (.mskip { zMA with imm := 8 }) [] ∧ atM tJob (.mskip { zMA with imm := 512 }) [] ∧
    (atM { tJob with s := [(1, 0x40100)] } (.msave { zMA with sbase := 1 }) [1] ∧ 0x40100 % 4096 ≠ 0) ∧
    (atM { tJob with s := [(1, 8)] } (.mldScratchpad { mA with sbase := 1, ty := 0x0D }) [1] ∧ (8 : Nat) % 16 ≠ 0) := by
  refine ⟨⟨tAt (by decide), by decide⟩, ⟨tAt (by decide), by decide⟩, ⟨tAt (by decide), by decide, by decide⟩, ⟨tAt (by decide), by decide, by decide⟩,
    ⟨tAt (by decide), by decide, by decide⟩, tAt (by decide), tAt (by decide), ⟨tAt (by decide), by decide⟩, ⟨tAt (by decide), by decide⟩⟩

/-- The small machine whose input names core 0, with a job. -/
abbrev tEvent (j : Job) : State := tState .m j
def tMac : Job := { tJob with mqueue := [tCommand (.mma mMma) 0 false], rings := [(1, ⟨false, false, true, 0, 7, 0, 3, 1, 0, 1⟩), (6, ⟨false, false, true, 0, 7, 64, 3, 1, 0, 1⟩)] }
def tRun (i : Instr) (first : Word) : Job := { tJob with mqueue := [tCommand i first true], rings := tMac.rings }

/-- A restored image that issues; a command that starts, one whose ring is empty; a command of every kind that retires, over the rings' last and first places. -/
theorem witness_MatrixCommands :
    (let j := { tMac with mqueue := [tCommand (.mma mMma) 0 true, { tCommand (.mbias { mA with ty := 2, top := 512 }) 0 false with queued := true }] }
     (tEvent j).job? 0 = some j ∧ j.mqueue.findIdx? j.imageIssues = some 1 ∧ j.mStarts = true ∧ mIssueTrap (.mbias { mA with ty := 2, top := 512 }) 0 0 = none ∧
       ∀ t ∈ leasedTiles (.mbias { mA with ty := 2, top := 512 }), t ∉ j.cTiles) ∧
    ((tEvent tMac).job? 0 = some tMac ∧ (∀ x ∈ tMac.mqueue, tMac.imageIssues x = false) ∧ tMac.nextStart = some 0 ∧ tMac.mStarts = true ∧ tMac.mayStart 0 = .go) ∧
    (let j := { tMac with rings := [(1, ⟨false, false, true, 0, 7, 0, 3, 0, 0, 0⟩), (6, ⟨false, false, true, 0, 7, 64, 3, 1, 0, 1⟩)] }
     j.nextStart = some 0 ∧ j.mayStart 0 = .wait) ∧
    (∀ i ∈ [Instr.mzero mA, .mma mMma, .mmt { zMM with aty := 12, bty := 12, ta := 512, tb := 512 }, .mscale { mA with ty := 0x0D },
        .mbias { mA with ty := 2, top := 512 }, .mbias { mA with ty := 0x0D, top := 512 }, .mstScratchpad { mA with sbase := 1, ty := 0x0D },
        .mldScratchpad { mA with sbase := 1, ty := 0x0D }, .mldTile { mA with ty := 0x0D }, .mstTile { mA with ty := 0x0D },
        .mcopy { mA with acc2 := 1 }, .mcopy { mA with acc2 := 1, ty := 10, imm := 1 }, .mskip { zMA with imm := 1 }],
      (tRun i 0x1000).mqueue[0]? = some (tCommand i 0x1000 true) ∧ (tRun i 0x1000).fpen = 0 ∧
        ∀ p ∈ (tRun i 0x1000).mPadRuns i 0x1000, (tEvent (tRun i 0x1000)).padStalls 0 p.1 p.2 = false) ∧
    (mMma.warp.toNat ≠ 4 + mMma.weft.toNat ∧ (tMac.binding 1).stop = false ∧ (tMac.binding 6).stop = false) := by
  refine ⟨by decide, ⟨rfl, by decide, rfl, rfl, rfl⟩, ⟨rfl, rfl⟩, by decide, by decide⟩

/-! The copy engine -/

/-- A record of `nd` dimensions with these slots and BASE, its sum in place (R239, R240). -/
def tRecord (slots : List (Nat × Nat × Nat)) (base : Nat) : List Byte :=
  let body := slots.flatMap fun x => leBytes 8 x.1 ++ leBytes 8 x.2.1 ++ leBytes 8 x.2.2
  let rest := (body ++ List.replicate (96 - body.length) 0 ++ leBytes 8 base ++ List.replicate 16 0).take 120
  let head := slots.length + 0x5100
  let total := head + ((List.range 30).map fun k => leNat ((rest.drop (4 * k)).take 4)).foldl (· + ·) 0
  leBytes 4 head ++ leBytes 4 (2 ^ 32 - 1 - total % 2 ^ 32) ++ rest

def cR : CC := { zCC with tok := 5, sa := 1, sd := 2, recd := 3, ty := 2, dty := 2 }
/-- Eight elements of 4 bytes, from scratchpad 0x1000 to 0x2000; the record is at 0. -/
def tCopyC (i : Instr) (started : Bool) (bytes : Nat) : CCommand :=
  { instr := i, started := started, bytes := bytes, sa := 0x8000000000001000,
      sd := 0x8000000000002000, recd := 0x8000000000000000, aux := 0x40000, record := if started then tRecord [(8, 4, 4)] 0 else [], sect := 1, word := 1,
      held := false, members := [], flags := 0 }
def tCopy (i : Instr) (started : Bool) (bytes : Nat) : Job :=
  { tJob with pad := Sparse.ofList 0 0 (tRecord [(8, 4, 4)] 0), ccmd := some (tCopyC i started bytes) }
/-- A job whose copy words read scratchpad addresses, a record's place and an object's. -/
def tCopies : Job := { tJob with s := [(1, 0x8000000000001000), (2, 0x8000000000002000), (3, 0x8000000000000000), (4, 0x40000)] }
def cRegs (f : CC) : List Nat := [f.tok.toNat, f.sa.toNat, f.sd.toNat, f.recd.toNat, f.aux.toNat]
abbrev atC (j : Job) (i : Instr) (f : CC) : Prop := AtIssue (tState .c j) 0 .c j i ⟨0, 0⟩ (cRegs f) []
def cFill : CC := { cR with sa := 0, aux := 4 }
def cSum : CC := { cR with aux := 4 }
def cRing : CC := { cR with sd := 0, tgt := 7 }
def cBob : CC := { cRing with sa := 0, tgt := 8, dty := 0 }
def cBind : CC := { cBob with aux := 4, tgt := 7, ty := 0 }
def cSem : CC := { zCC with aux := 4, ord := 2 }
def cPrime : CC := { zCC with tok := 5, sa := 1, aux := 4 }

/-- Every form at issue with no command: the ring words with a ring, `bobbind` with a bobbin, and endpoints that are in order and hold no
tile. -/
theorem witness_CopyIssue : (∀ x ∈ [(Instr.cp cR, cR), (.cpr cRing, cRing), (.cpt cR, cR), (.cptw cR, cR), (.cpfill cFill, cFill), (.csem cSem, cSem),
      (.csemw { cSem with ord := 1 }, { cSem with ord := 1 }), (.ringbind cBind, cBind), (.bobbind cBob, cBob), (.unbind zCC, zCC), (.ringfill cRing, cRing),
      (.fget cR, cR), (.fput cR, cR), (.cgsum cSum, cSum), (.fsum cSum, cSum), (.cprime cPrime, cPrime)],
      tReady .c tCopies x.1 ⟨0, 0⟩ (cRegs x.2) [] = true) ∧
    tCopies.ccmd = none ∧ cRing.tgt.toNat < 8 ∧ cBind.tgt.toNat < 8 ∧ ¬ cBob.tgt.toNat < 8 ∧
    (∀ x ∈ [(0 : Nat), 0x8000000000001000, 0x8000000000002000, 0x4000000003000000], tileEndBad x = false) ∧
    ((Endpoint.ofNat 0x8000000000001000).map (·.tiles)).getD [] = [] ∧ ((Endpoint.ofNat 0x4000000003000000).map (·.tiles)).getD [] = [0, 1, 2, 3] ∧
    tCopies.mTiles = [] := by decide

/-- A held command that its word resumes, and one of another word; a command that is outstanding; a tile that M has leased; targets of the
wrong kind; and a tile endpoint out of order. -/
theorem witness_CopyIssue_held :
    let held (w : Nat) : CCommand := { tCopyC (.cp cR) true 4096 with held := true, word := w }
    let bad : Job := { tCopies with s := [(1, 0x400000000303C000), (2, 0x8000000000002000), (3, 0x8000000000000000)] }
    let tiles : Job := { tCopies with s := [(1, 0x8000000000001000), (2, 0x4000000003000000), (3, 0x8000000000000000)] }
    let number := hSect (tCopies.streams.c.header.getD 0).toNat
    (atC { tCopies with ccmd := some (held 1) } (.cp cR) cR ∧ (held 1).sect = number ∧ (held 1).word = tCopies.streams.c.word ∧ targetOk (.cp cR) cR = true ∧
      (∀ x ∈ endpointFields (.cp cR) (held 1).sa.toNat (held 1).sd.toNat, tileEndBad x = false) ∧ copyTiles (.cp cR) (held 1).sa.toNat (held 1).sd.toNat = []) ∧
    (atC { tCopies with ccmd := some (held 2) } (.cp cR) cR ∧ (held 2).held = true ∧ (held 2).word ≠ tCopies.streams.c.word) ∧
    atC { tCopies with ccmd := some (tCopyC (.cp cR) true 0) } (.cp cR) cR ∧
    (let m := { tiles with mqueue := [tCommand (.mstTile { mA with ty := 0x0D }) 0 true] }
     atC m (.cp cR) cR ∧ m.ccmd = none ∧ copyTiles (.cp cR) 0x8000000000001000 0x4000000003000000 = [0, 1, 2, 3] ∧ m.mTiles = [0, 1, 2, 3]) ∧
    (atC tCopies (.cpr { cRing with tgt := 8 }) { cRing with tgt := 8 } ∧ atC tCopies (.bobbind { cBob with tgt := 7 }) { cBob with tgt := 7 } ∧ tCopies.trapHeld .c = false) ∧
    (atC bad (.cp cR) cR ∧ (endpointFields (.cp cR) 0x400000000303C000 0x8000000000002000).find? tileEndBad = some 0x400000000303C000) := by
  refine ⟨⟨tAt (by decide), by decide⟩, ⟨tAt (by decide), by decide⟩, tAt (by decide), ⟨tAt (by decide), by decide⟩, ⟨tAt (by decide), tAt (by decide), by decide⟩,
    ⟨tAt (by decide), by decide⟩⟩

/-- Bobbin 0 bound to a pattern of four entries of eight elements from the scratchpad, filling and draining. -/
def tPattern (drain : Bool) (entries : List VReg) (done : Nat) : Job :=
  { tJob with b := [(0, ⟨entries, false, drain, true⟩)],
              binds := [(8, { Binding.none with pat := true, ty := 2, done := done, recd := tRecord [(8, 4, 4), (4, 32, 0)] 0x8000000000001000 })] }

/-- A copy at its start, its first granule and its retirement; `csem` and `csemw` of a blank semaphore; `unbind` and `ringbind` of ring 0, with
the widest ring; a bobbin's port filling its last entry, and draining. -/
theorem witness_CopyCommands :
    (let j := tCopy (.cp cR) false 0
     (tState .c j).job? 0 = some j ∧ j.cRuns = true ∧ (∀ x ∈ endpointFields (.cp cR) 0x8000000000001000 0x8000000000002000, (Endpoint.ofNat x).isSome = true) ∧
       (∃ a r t, (tState .c j).readKind 0 j (.cp cR) 0x51 0x8000000000000000 = .ok (a, r, t)) ∧
       planTrap (.cp cR) 0 (j.copyPlan (tCopyC (.cp cR) false 0) cR (tRecord [(8, 4, 4)] 0)) none = none) ∧
    (let j := tCopy (.cp cR) true 0
     let p := j.copyPlan (tCopyC (.cp cR) true 0) cR (tCopyC (.cp cR) true 0).record
     j.cRuns = true ∧ p.src = some ⟨⟨.pad, 0x1000, 0⟩, [4], 32⟩ ∧ p.dst = some ⟨⟨.pad, 0x2000, 0⟩, [4], 32⟩ ∧ p.bytes = 32 ∧
       p.granule 0 = List.range 8 ∧ j.fpen = 0 ∧ ((tState .c j).core 0).exchange = []) ∧
    (let j := tCopy (.cp cR) true 32
     (tCopyC (.cp cR) true 32).record ≠ [] ∧ (j.copyPlan (tCopyC (.cp cR) true 32) cR (tCopyC (.cp cR) true 32).record).bytes ≤ 32) ∧
    (ObjectReady .c [] (tCopy (.csem { zCC with aux := 4, tok := 5 }) false 0) .blank ∧ (tCopy (.csemw { zCC with aux := 4 }) false 0).frozen = false) ∧
    (let j := { tCopy (.unbind zCC) false 0 with rings := [(0, ⟨false, false, true, 0, 0, 0, 0, 0, 0, 0⟩)] }
     j.cRuns = true ∧ (j.ring 0).bound = true) ∧
    (let g := 0xBF00
     let c : CCommand := { tCopyC (.ringbind zCC) false 0 with recd := 0, aux := 0xBF00 }
     let j := { tJob with ccmd := some c }
     j.cRuns = true ∧ c.recd = 0 ∧ c.aux.toNat = g ∧ (j.ring 0).bound = false ∧ g < 2 ^ 21 ∧ g / 2 ^ 18 % 4 ≤ 2 ∧
       g % 256 + (g / 2 ^ 8 % 32 + 1) * (g / 2 ^ 13 % 32 + 1 + g / 2 ^ 18 % 4) ≤ 192) ∧
    (let j := tPattern false (List.replicate 7 0) 3
     ∃ p, j.patternAt 8 = some p ∧ j.portRuns 8 = true ∧ p.mem.at_.kind = .pad ∧ (j.bobbin 0).drain = false ∧ j.targetExh 8 = false ∧
       (j.binding 8).stop = false ∧ (j.binding 8).again = false ∧ (j.binding 8).done < p.count ∧ (j.bobbin 0).entries.length < 8) ∧
    (let j := tPattern true [5] 0
     ∃ p, j.patternAt 8 = some p ∧ j.portRuns 8 = true ∧ p.mem.at_.kind = .pad ∧ (j.bobbin 0).drain = true ∧ (j.bobbin 0).entries ≠ [] ∧
       (j.binding 8).stop = false ∧ (j.binding 8).again = false) := by
  refine ⟨⟨rfl, rfl, by decide, ⟨_, _, _, rfl⟩, by decide⟩, ⟨rfl, by decide, by decide, by decide, by decide, rfl, rfl⟩, by decide, ⟨by decide, rfl⟩, by decide, by decide,
    ⟨_, rfl, by decide⟩, ⟨_, rfl, by decide⟩⟩

/-! Images: a job whose world owns the first 8 MiB of its vault, mapped at address 0, all of it zero -/

def tBig (sel : Sel) (j : Job) : State :=
  { State.reset with
    turn := .stream 0 sel
    dies := [(0, { Die.reset with
      cores := [(0, { Core.idle with job := some j, tlb := [⟨0, 0, 25, 0, 3, 3, 0, [], false⟩] })]
      mtlb := [⟨0, 0, 25, 0, 3, 3, 0, [], false⟩]
      owner := (List.range 64).map fun i => (i, 0x4000000010000000)
      tags := (List.range 8).map fun i => (i, 0x8001) })]
    blocks := [(0, [(0, 0x4000000100000000), (5, 0x40000)])] }

theorem tBig_slice (sel : Sel) (j : Job) (d i : Nat) : (tBig sel j).slice d i = .idle := by
  rcases Nat.eq_zero_or_pos d with rfl | h
  · rfl
  · rw [State.slice, show (tBig sel j).die d = .reset from Sparse.get_not_mem _ _ _ (by simp [tBig]; omega)]; rfl

def tPieces (a : Nat) (l : List (Nat × Nat)) : List (Nat × Nat) := l.map fun p => (a + p.1, p.2)
def tFrames (n k : Nat) : List (Nat × Nat) := ((List.range n).map fun i => (131072 * i, 131072)) ++ [(131072 * n, k)]


theorem readPa_nil {s : State} (h : s.mem = []) (pa n : Nat) : s.readPa pa n = List.replicate n 0 := by
  unfold State.readPa Sparse.read
  rw [h]
  exact List.map_eq_replicate_iff.mpr (fun _ _ => rfl) |>.trans (by simp)

theorem readPieces_nil {s : State} (h : s.mem = []) (ps : List (Nat × Nat)) : s.readPieces ps = List.replicate (ps.map (·.2)).sum 0 := by
  unfold State.readPieces
  induction ps with
  | nil => rfl
  | cons p ps ih => rw [List.flatMap_cons, ih, readPa_nil h, List.map_cons, List.sum_cons, List.replicate_append_replicate]

theorem leNat_zeros (n : Nat) : leNat (List.replicate n (0 : Byte)) = 0 := by
  induction n with
  | zero => rfl
  | succ n ih => rw [List.replicate_succ, leNat, ih]; rfl

theorem recNat_zeros (n o k : Nat) : recNat (List.replicate n (0 : Byte)) o k = 0 := by
  rw [recNat, List.drop_replicate, List.take_replicate, leNat_zeros]

/-- A matrix image of zero bytes holds no command. -/
theorem imageQueue_zeros (n : Nat) : imageQueue (List.replicate n (0 : Byte)) = some [] := by
  have z : ∀ m o k, recNat (List.replicate m 0#8) o k = 0 := recNat_zeros
  simp [imageQueue, z, bits]

def tSaving (i : Instr) : Job := { tJob with mqueue := [tCommand i 0x100000 true] }

/-- `msave` at its first granule; `mrestore` of an image of zero bytes. -/
theorem witness_MatrixImages :
    (let j := tSaving (.msave { zMA with sbase := 1 })
     (tBig .m j).job? 0 = some j ∧ j.mqueue[0]? = some (tCommand (.msave { zMA with sbase := 1 }) 0x100000 true) ∧
       ∃ t, (tBig .m j).jobStore j (0x100000 + 4096 * 0) (((j.matrixImage []).drop (4096 * 0)).take 4096) = .ok t) ∧
    (let j := tSaving (.mrestore { zMA with sbase := 1 })
     ∃ bs t q, (tBig .m j).jobLoad j 0x100000 525312 = .ok (bs, t) ∧ imageQueue bs = some q) := by
  refine ⟨⟨rfl, rfl, _, State.store_at (ps := [(0x100000, 4096)]) ?_ (State.heldLine_idle (tBig_slice _ _))⟩,
    ⟨_, _, [], State.load_at (ps := tPieces 0x100000 (tFrames 4 1024)) ?_ (State.heldLine_idle (tBig_slice _ _)), ?_⟩⟩
  · have h : ((((tSaving (.msave { zMA with sbase := 1 })).matrixImage []).drop (4096 * 0)).take 4096).length = 4096 := by
      simp [Job.matrixImage_length]
    rw [h]
    decide
  · decide
  · rw [readPieces_nil rfl]
    exact imageQueue_zeros _

def tPlan : Preempt := ⟨0, .all .none, .all false, 0, none, none, false, false, true⟩
def tSwap (a b : Word) (p : Option Preempt) : Job := { tHandler with s := [(1, a), (2, b)], preempt := p }
abbrev atSwap (a b : Word) (p : Option Preempt) : Prop :=
  AtIssue (tBig .hs (tSwap a b p)) 0 .hs (tSwap a b p) (.cxsw { zSX with a := 1, b := 2 }) ⟨0, 0⟩ [1, 2] []

/-- `cxsw` in job mode; its quiesce phase; misaligned images; two images in the core's own vault. -/
theorem witness_ContextSwitch :
    (atS tJob (.cxsw { zSX with a := 1, b := 2 }) ⟨0, 0⟩ [1, 2] [] ∧ tJob.trapHeld .s = false) ∧ atSwap 0x100000 0x200000 none ∧
    (atSwap 0x100800 0x200000 (some tPlan) ∧ (tSwap 0x100800 0x200000 (some tPlan)).quiesced tPlan = true ∧
      ((tBig .hs (tSwap 0x100800 0x200000 (some tPlan))).unrun 0 fun _ => true) = false ∧ 0x100800 % 4096 ≠ 0) ∧
    (atSwap 0x100000 0x200800 (some tPlan) ∧ 0x200800 % 4096 ≠ 0) ∧
    (let p : Preempt := { tPlan with plan := .all .epilogue }
     atSwap 0x100000 0x200000 (some p) ∧ (tSwap 0x100000 0x200000 (some p)).quiesced p = false) ∧
    (let j := tSwap 0x100000 0x200000 (some tPlan)
     let s := tBig .hs j
     let pa := tPieces 0x100000 (tFrames 6 51200)
     let pb := tPieces 0x200000 (tFrames 6 51200)
     let image := ({ j.swapOut tPlan with preempt := none, swapped := true } : Job).contextImage
     let s1 := s.writePieces pa image
     atSwap 0x100000 0x200000 (some tPlan) ∧ s.heldLine pa = false ∧ s.heldLine pb = false ∧ s.inOwnVault j 0x100000 = true ∧ s.inOwnVault j 0x200000 = true ∧ j.msaved ≠ .saved ∧
       s.span 0 0 1 false .write 0x100000 837632 = .at pa ∧ s.span 0 0 1 false .read 0x200000 837632 = .at pb ∧
       controlBad (s.cells pb) = false ∧ contextQueue (s.cells pb) = some [] ∧ contextCopy (s.cells pb) (0 - 1) = .ok none ∧
       contextQueue (s1.cells pb) = some [] ∧ contextCopy (s1.cells pb) (0 - 1) = .ok none ∧ ctl (s1.cells pb) 0x248 8 = 0 ∧
       ∀ t < 16, ctl (s1.cells pb) (if t < 8 then 0x2C0 + 8 * t else 0x1B0 + 8 * (t - 8)) 8 < 2 ^ 63) := by
  refine ⟨⟨tAt (by decide), by decide⟩, atIssue_of rfl rfl (by decide), ⟨atIssue_of rfl rfl (by decide), by decide⟩,
    ⟨atIssue_of rfl rfl (by decide), by decide⟩, ⟨atIssue_of rfl rfl (by decide), by decide⟩, ?_⟩
  intro j s pa pb image s1
  have c0 : s.cells pb = [] := by decide
  have c1 : s1.cells pb = [] := by
    rw [State.cells_writePieces s pa pb image (by decide)]
    exact c0
  refine ⟨atIssue_of rfl rfl (by decide), State.heldLine_idle (tBig_slice _ _), State.heldLine_idle (tBig_slice _ _), by decide, by decide, by decide,
    by decide, by decide, ?_⟩
  rw [c1, c0]
  exact ⟨by decide, by decide, rfl, by decide, rfl, by decide, by decide⟩

/-! Dispatchers and service cores -/

/-- Service core 0 at its turn, with these registers, over a machine. -/
def tService (s : State) (x : Sparse Word) (join : Option (Nat × Nat × Option Nat)) : State :=
  { s with turn := .service 0, hub := { s.hub with services := [(0, { ServiceCore.reset with x := x, join := join })] } }
def tTickets (n : Nat) (status : Option Nat) (q : QArea) : State :=
  let s := tQueue q tJob
  { s with dies := [(0, { (s.die 0) with tickets := List.replicate n ⟨7, 0, 0, true, status⟩ })] }

set_option maxRecDepth 20000 in
/-- A retired micro-context, one with no queue, a full queue, 256 tickets outstanding, room for one more; tickets known, ended and unknown. -/
theorem witness_ServiceInstructions :
    (let s := tService State.reset [] none
     s.turn = .service 0 ∧ ((s.service 0).rx 5).toNat < 8192 ∧ s.ctxState 0 = 5) ∧
    (let s := tService (tState .s tJob) [] none
     s.ctxState 0 ≠ 5 ∧ s.queueVa 0 = 0) ∧
    (let s := tService (tQueue ⟨0, 16, 0, 0, 4, 12, 0, 0⟩ tJob) [] none
     s.ctxState 0 ≠ 5 ∧ s.appendArea 0 12 = .full) ∧
    (let s := tService (tTickets 256 none tWaiting) [] none
     s.appendArea 0 12 = .ok tWaiting ∧ 256 ≤ (s.die (0 / 1024)).tickets.length) ∧
    (let s := tService (tTickets 255 none tWaiting) [] none
     s.appendArea 0 12 = .ok tWaiting ∧ (s.die (0 / 1024)).tickets.length < 256 ∧ ∃ r, s.appendDispatch 0 (List.replicate 6 0) 0 0 = .ok r) ∧
    (let s := tService State.reset [(5, 7)] none
     s.ticket 7 = none) ∧
    (let s := tService (tTickets 1 (some 0) tWaiting) [(5, 7)] none
     s.ticket 7 = some (0, ⟨7, 0, 0, true, some 0⟩)) ∧
    (let s := tService (tTickets 1 none tWaiting) [(5, 7)] (some (3, 7, some 100))
     s.ticket 7 = some (0, ⟨7, 0, 0, true, none⟩) ∧ s.input.index = 0 ∧ (s.service 0).join = some (3, 7, some 100)) := by
  refine ⟨by decide, by decide, by decide, by decide, ⟨by decide, by decide, _, rfl⟩, by decide, by decide, by decide⟩

/-- A machine without jobs whose micro-context 0 is queued: its tables in frame 8, down to a leaf of 4 MiB at 0x400000, its park page; and entry
sets of zero bytes. -/
def tQueued0 (words : List (Nat × Word)) : State :=
  { tBig .s tJob with
    dies := [(0, { ((tBig .s tJob).die 0) with cores := [], owner := ((tBig .s tJob).die 0).owner.map fun e => if e.1 = 8 then (8, 0x4000000000000000) else e })]
    blocks := [(0, words)]
    mem := [(0x40002, 0x40), (0x100000, 1), (0x100001, 0x10), (0x100002, 0x10), (0x101000, 1), (0x101001, 0x20), (0x101002, 0x10), (0x102000, 1),
      (0x102001, 0x30), (0x102002, 0x10), (0x103000, 1), (0x103001, 0x40), (0x103002, 0x10), (0x104008, 0x0F), (0x10400A, 0x40)] }
def tBlock : List (Nat × Word) := [(0, 0x2000000100000000), (1, 0x100000), (3, 0x60000), (9, 0x40000)]

set_option maxRecDepth 20000 in
/-- A block whose job has finished; a queued block whose one core is free. -/
theorem witness_DispatcherDecision :
    (let j := { tJob with streams := .all .empty }
     let s := { tState .s j with blocks := [(0, [(0, 0x4000000100000000), (17, 0x100)])] }
     (s.die 0).alive = true ∧ s.routines = [] ∧ s.homed 0 = [0] ∧ homeDie 0 = 0 ∧ s.isBound 0 = true ∧ s.ctxState 0 = 2 ∧ (s.extra 0).wanted = false ∧
       s.poolOf 0 = [] ∧ s.childLog 0 = 0 ∧ s.queueVa 0 = 0 ∧ s.coresOf 0 = [0] ∧ s.unrun 0 (fun _ => true) = false ∧ s.job? 0 = some j ∧
       j.finished = true) ∧
    (let s := tQueued0 tBlock
     s.homed 0 = [0] ∧ s.isBound 0 = false ∧ s.ctxState 0 = 1 ∧ (∀ n < 128, (s.core n).reserved = none) ∧
       (s.places 0).find? (fun cs => cs.all (s.freeFor 0)) = some [0] ∧ s.needsReservation 0 = false ∧ (∃ x, s.bindInfo 0 = .ok x) ∧
       (∃ x, s.readImage 0 0 = .ok x) ∧ s.coresOf 0 = [] ∧ (s.extra 0).trapAll = [] ∧ (s.extra 0).trapZero = [] ∧ s.groupSize 0 ≤ 128) := by
  refine ⟨by decide, by decide, by decide, by decide, by decide, by decide, by decide, ok_of (by decide), ok_of (by decide +kernel), by decide⟩

def tBlockState (words : List (Nat × Word)) (clock : Nat) : State := { tState .s tJob with blocks := [(0, words)], clock := clock }

/-- A release that has come; a budget that has run out; a deadline that has passed; a block that has waited; and none before its cycle. -/
theorem witness_ContractPeriods :
    (let s := tBlockState [(0, 0x4100000100000000)] 0
     (s.blk 0 0).testBit 56 = true ∧ s.blk 0 0x70 = 0 ∧ (s.blk 0 0x68) % 2 ^ 32 = 0 ∧ (s.blk 0 0).testBit 55 = false ∧ s.ctxState 0 ∈ [1, 2, 3] ∧
       s.blk 0 0x140 = 0) ∧
    (let s := tBlockState [(0, 0x4100000100000000), (17, 0x100)] 0
     (s.blk 0 0x88).testBit 8 = true ∧ s.blkBits 0 0x68 31 0 = 0) ∧
    (let s := { tBlockState [(0, 0x4100000100000000)] 0 with extras := [(0, { CtxExtra.none with dlDone := false })] }
     (s.extra 0).dlDone = false ∧ s.blk 0 0x140 ≤ s.clock) ∧
    (let s := tBlockState [(0, 0x2000000100000000)] (2 ^ 24)
     s.ctxState 0 ∈ [1, 3] ∧ s.blk 0 0x80 + (s.die (homeDie 0)).starve ≤ s.clock) ∧
    (let s := tBlockState [(0, 0x4100000100000000), (14, 0x8000000000000000), (40, 0x8000000000000000)] 0
     s.clock + Config.dieOffset s.resets (homeDie 0) < s.blk 0 0x70 ∧ s.clock + Config.dieOffset s.resets (homeDie 0) < s.blk 0 0x140) ∧
    (let s := { tBlockState [] 0 with dies := [(0, { tDie tJob with starve := 2 ^ 63 })] }
     s.clock + Config.dieOffset s.resets (homeDie 0) < s.blk 0 0x80 + (s.die (homeDie 0)).starve) := by
  have small : ∀ r, 0 + Config.dieOffset r 0 < 2 ^ 63 := fun r => by simpa [Config.dieOffset] using (Config.dieOffsetBits r 0).isLt
  exact ⟨by decide, by decide, by decide, by decide, ⟨small _, small _⟩, small _⟩

/-- A queued block of 32 cores, its request at the head of die 0's. -/
def tReserving (left asks : List Nat) (since clock : Nat) : State :=
  let s := tQueued0 tBlock
  { s with
    clock := clock
    dies := [(0, { (s.die 0) with asks := asks, reserves := [⟨0, none, left, since⟩] })] }

/-- A grant with one die more to ask and a last one; a request that has run 2,048 cycles and one that has not. A quantum that ends with
nothing waiting, and with a block of a higher priority. -/
theorem witness_ReservationsAndQuanta :
    (let s := tReserving [0, 1] [0] 0 0
     (s.die 0).reserves.find? (fun r => r.ctx = 0) = some ⟨0, none, [0, 1], 0⟩ ∧ (s.die 0).asks = [0] ∧ s.grantable 0 0 = some [0] ∧ s.ctxState 0 ∈ [1, 3]) ∧
    (let s := tReserving [0] [0] 0 0
     (s.die 0).reserves.find? (fun r => r.ctx = 0) = some ⟨0, none, [0], 0⟩ ∧ s.grantable 0 0 = some [0]) ∧
    (let s := tReserving [0] [0] 0 2049
     (s.die 0).reserves.find? (fun r => r.ctx = 0) = some ⟨0, none, [0], 0⟩ ∧ 0 + 2048 < s.clock) ∧
    (let s := tBlockState [(0, 0x4000000100000000)] 65536
     s.ctxState 0 = 2 ∧ s.bestEffort 0 = true ∧ (s.extra 0).wanted = false ∧ (s.extra 0).quantum + (s.die 0).quant ≤ s.clock ∧
       ∀ b ∈ s.blocks, s.ctxState b.1 ≠ 1 ∧ s.ctxState b.1 ≠ 3) ∧
    (let j := { tJob with ctx := 1 }
     let s := { tState .s j with
       clock := 65536, blocks := [(0, [(0, 0x4000000100000000), (17, 0x100)]), (1, [(0, 0x2001000100000000)])]
       dies := [(0, { tDie tJob with cores := (List.range 16).map fun n => (n, { tCore tJob with reserved := if n = 0 then none else some 9 }) })] }
     s.ctxState 1 = 1 ∧ s.contractServed 1 = false ∧ s.beatsAtQuantum 1 0 = true ∧ s.groupsOn 1 [0] = some [0]) := by
  refine ⟨by decide, by decide, by decide, by decide, by decide⟩

/-! Pre-emption and gangs -/

def tWanted (j : Job) : State := { tBig .s j with extras := [(0, { CtxExtra.none with wanted := true })] }
def tHeld (p : Preempt) : Job := { tJob with page := 0x400000, preempt := some p }
def tRequest : Preempt := { tPlan with swap := false }

/-- A request that is due; every engine holding; a drain past its bound and one within it; a save with its three stores; the trap area. -/
theorem witness_Preemption :
    ((tWanted tJob).job? 0 = some tJob ∧ ((tWanted tJob).extra 0).wanted = true ∧ tJob.preempt = none) ∧
    (tRequest.swap = false ∧ tRequest.saving = false ∧ (∀ e ∈ allEngines, (tHeld tRequest).holdsAt tRequest e = true) ∧
      ((tWanted (tHeld tRequest)).unrun 0 fun _ => true) = false) ∧
    (let p : Preempt := { tRequest with plan := .all .epilogue, eplen := some 100 }
     p.cut = false ∧ (tHeld p).holdsAt p .v = false ∧ p.left .v = false) ∧
    (let p : Preempt := { tRequest with saving := true }
     let j := tHeld p
     let x : Job := { j with preempt := none, frozen := false, stalls := .all none }
     ∃ s1 s2 s3, (tWanted j).ctxStore 0 0x400000 x.contextImage = .ok s1 ∧ s1.ctxStore 0 (0x400000 + 0xE0000) x.extensionRecord = .ok s2 ∧
       s2.ctxStore 0 (0x400000 + 0x100000) (x.padRead 0 0x300000) = .ok s3) ∧
    (let j := { tJob with areaPending := true }
     j.stalls.s = none ∧ (tWanted j).blk 0 0x28 = 0x40000 ∧ ∃ t, (tWanted j).jobStore j 0x40000 (recordBytes false j.trap 0) = .ok t) := by
  refine ⟨⟨rfl, by decide, rfl⟩, by decide, by decide, ?_, ⟨rfl, by decide, _, rfl⟩⟩
  intro p j x
  have vault : ∀ (u : State) ps, u.dies = (tWanted j).dies → (∀ q ∈ ps, q.1 + q.2 ≤ 2 ^ 46) → u.throughPieces ps 0 true = u := by
    intro u ps hu hp
    have hd : ∀ d, u.die d = (tWanted j).die d := fun d => by rw [State.die, State.die, hu]
    have ho : ∀ d, d = 0 ∨ (tWanted j).die d = .reset := fun d => by
      rcases Nat.eq_zero_or_pos d with h | h
      · exact .inl h
      · exact .inr (Sparse.get_not_mem _ _ _ (by simp [tWanted, tBig]; omega))
    refine State.throughPieces_vault 0 true hp (by rw [hu]; decide) (fun d i => ?_) fun d => ?_
    · rw [State.slice, hd]; rcases ho d with rfl | h
      · rfl
      · rw [h]; rfl
    · rw [hd]; rcases ho d with rfl | h
      · rfl
      · rw [h]; rfl
  have stay : ∀ (u : State) va, u.dies = (tWanted j).dies → va ∈ [0x400000, 0x4E0000, 0x500000] → u.touch noCore 0 va = u := by
    intro u va hu hv
    have hm : ∀ va ∈ [0x400000, 0x4E0000, 0x500000], tlbTouch ((tWanted j).die 0).mtlb 0 va = ((tWanted j).die 0).mtlb ∧ bits va 51 49 = 0 := by decide
    have hd : u.die 0 = (tWanted j).die 0 := by rw [State.die, State.die, hu]
    rw [State.touch, (hm va hv).2]
    refine (if_neg (by simp [noCore])).trans (State.updDie_self (by rw [hu]; decide) ?_)
    rw [hd, (hm va hv).1]
  have wide : ∀ (u : State) va bs ps, u.dies = (tWanted j).dies → va ∈ [0x400000, 0x4E0000, 0x500000] → (∀ q ∈ ps, q.1 + q.2 ≤ 2 ^ 46) →
      u.span noCore 0 (u.ctxWid 0) (u.ctxConf 0) .write va bs.length = .at ps → u.ctxStore 0 va bs = .ok (u.writePieces ps bs) := by
    intro u va bs ps hu hv hp hs
    rw [State.ctxStore, State.store_at hs (State.heldLine_idle fun d i => by
      rw [State.slice, State.die, hu]; exact tBig_slice .s j d i), vault u ps hu hp]
    exact congrArg Access.ok (stay _ va (State.writePieces_dies.trans hu) hv)
  refine ⟨_, _, _, wide _ _ _ (tPieces 0x400000 (tFrames 6 51200)) rfl (by simp) (by decide) ?_, wide _ _ _ [(0x4E0000, 4096)] rfl (by simp) (by decide) ?_,
    wide _ _ _ (tPieces 0x500000 (tFrames 23 131072)) rfl (by simp) (by decide) ?_⟩
  · rw [Job.contextImage_length]; decide
  · rw [Job.extensionRecord_length]; decide
  · rw [Job.padRead_length]; decide

def tGangLevel : LoopLevel := { tLevel with lock := true }
def tGang (begun fin : Nat) : Job :=
  { tJob with loops := [tGangLevel], levels := [(0, { Level.idle with trip := 4, active := true, made := 1, gangGo := begun, fin := ⟨fin, 0, 0, 0⟩ })] }

/-- A gang of one job whose lockstep level is active: its pass finished, and not. A frozen member with no stall, and with one that remains. -/
theorem witness_Gangs :
    (let j := tGang 1 1
     (tState .s j).gangCores 0 0 = [0] ∧ (tState .s j).job? 0 = some j ∧ (j.loop 0).lock = true ∧ (j.level 0).active = true ∧
       j.finishedPass 0 (j.level 0).made (j.level 0).gangGo = true) ∧
    (let j := tGang 2 1
     (tState .s j).gangCores 0 0 = [0] ∧ (tState .s j).job? 0 = some j ∧ j.finishedPass 0 (j.level 0).made (j.level 0).gangGo = false) ∧
    (let j := { tGang 1 1 with frozen := true }
     (tState .s j).gangCores 0 0 = [0] ∧ ∀ e, j.stalls.get e = none) ∧
    (let j := { tGang 1 1 with frozen := true, stalls := ⟨some ⟨0x40000, .read, 0, none⟩, none, none, none⟩ }
     let s := { tState .s j with dies := [(0, { tDie j with tags := [] })] }
     s.gangCores 0 0 = [0] ∧ s.job? 0 = some j ∧ j.stalls.get .s = some ⟨0x40000, .read, 0, none⟩ ∧ s.stillStalls j ⟨0x40000, .read, 0, none⟩ = true) := by
  refine ⟨by decide, by decide, ⟨by decide, fun e => by cases e <;> rfl⟩, by decide⟩

/-! Firmware's commands on pages -/

/-- A machine without jobs: die 0 with these ownership entries, memory-side translations and page operations, and an event's input. -/
def tPages (owner : List (Nat × Word)) (mtlb : List TlbEntry) (work : List PageWork) (x : Input) : State :=
  { State.reset with
    input := x, blocks := [(0, [(0, 0x4000000100000000)])]
    dies := [(0, { Die.reset with owner := owner, mtlb := mtlb, work := work, lent := [(0, 1)] })] }

def tScrub : Word := 0x2000000010000000
def tScrubNext : Word := 0x202FFF0010000000
def tOwned : Word := 0x4000000010000000
def tOwnedCode : Word := 0x4200000010000000
def tOwned0 : Word := 0x4000000000000000
def tShared : Word := 0x6000000010000000
def tArriving : Word := 0x8000000010000003
def tMoving : Word := 0xC800000010000000

def tPage (pa : Nat) : TlbEntry := ⟨0, pa, 17, pa, 3, 3, 0, [], false⟩
def tHeldFrame (s : State) (pa : Nat) : State :=
  { s with dies := [(0, { (s.die 0) with slices := [(0, { Slice.idle with input := [{ tReq (.atadd aD) with pa := pa }] })] })] }

/-- The first frame of a vault, the last one a die lends (the boundary of its tier) and frames that are not FREE; a page freed, kept for a
saved job's sake or not owned; frames in scrub with and without a next owner, one that a slice still holds. -/
theorem witness_Frames :
    (let s := tPages [(0, 0)] [] [] { frame := 0, wid := 4095, kind := 2 }
     s.frameExists 0 0 = true ∧ s.input.wid < 4096 ∧ s.input.kind ≤ 2 ∧ ownState (s.ownerEntry 0 0) = ownFree) ∧
    (let s := tPages [(hostBase, 0)] [] [] { frame := hostBase, wid := 4095, kind := 0 }
     s.frameExists 0 hostBase = true ∧ ownState (s.ownerEntry 0 hostBase) = ownFree) ∧
    (let s := tPages [(0, tOwned)] [] [] { frame := 0, wid := 1 }
     ownState (s.ownerEntry 0 0) ≠ ownFree ∧ ownState (s.ownerEntry 0 0) ≠ ownScrub) ∧
    (let s := tPages [(0, tOwned)] [] [] { frame := 0, wid := 4095, flag := true }
     s.mayFree 0 0 = true ∧ s.input.wid < 4096 ∧ s.replicasOf (framePa 0 0) = []) ∧
    (let s := tPages [(0, tArriving)] [] [] { frame := 0 }
     s.mayFree 0 0 = false) ∧
    (let s := tPages [(0, tScrubNext)] [] [] { frame := 0 }
     s.frameExists 0 0 = true ∧ ownState (s.ownerEntry 0 0) = ownScrub ∧ s.roundsRun (framePa 0 0) 1 = false ∧
       (s.die 0).frameHeld (framePa 0 0) = false ∧ ownNv (s.ownerEntry 0 0) = true ∧ ownNwid (s.ownerEntry 0 0) = 4095) ∧
    (let s := tPages [(hostBase, tScrub)] [] [] { frame := hostBase }
     s.frameExists 0 hostBase = true ∧ ownState (s.ownerEntry 0 hostBase) = ownScrub ∧ ownNv (s.ownerEntry 0 hostBase) = false) ∧
    (let s := tHeldFrame (tPages [(0, tScrub)] [] [] { frame := 0 }) 131071
     (s.die 0).frameHeld (framePa 0 0) = true) := by decide

/-- Host-tier frames up to the 1,048,576 and one more; the arrival bound at 2^24 and above; a key of a world that owns nothing outside the
vaults, and of one that does; an entry of the memory-side TLB. -/
theorem witness_PageParameters :
    (let s := tPages [] [] [] { frame := 1, len := 1048575 }
     ((s.die 0).lent.map (·.2)).sum + s.input.len ≤ 1048576 ∧ s.input.frame + s.input.len ≤ 1048576) ∧
    (let s := tPages [] [] [] { frame := 0, len := 1048576 }
     1048576 < ((s.die 0).lent.map (·.2)).sum + s.input.len) ∧
    (tPages [] [] [] { value := 2 ^ 24 }).input.value ≤ 2 ^ 24 ∧ 2 ^ 24 < (tPages [] [] [] { value := 2 ^ 24 + 1 }).input.value ∧
    (let s := tPages [(0, tOwned)] [] [] { slot := 1 }
     s.input.slot < 4096 ∧ s.ownsOutside s.input.slot = false) ∧
    (let s := tPages [(0x4000, tOwned)] [] [] { slot := 1 }
     s.input.slot < 4096 ∧ s.ownsOutside s.input.slot = true) ∧
    (let s := tPages [] [tPage 0] [] { index := 0 }
     (s.die 0).mtlb[s.input.index]? = some (tPage 0)) := by decide

set_option maxRecDepth 20000 in
/-- Pages of one frame and of 32 moved from a vault to HBM; one refused that is no whole page, and where the destination is owned; a move at each of its parts, one of them held, and at its
end; a page duplicated into another vault, and refused in its own. -/
theorem witness_PageMoves :
    (let s := tPages [(0, tOwned), (0x4000, 0)] [] [] { frame := 0, dest := 0x4000, len := 1 }
     s.mayMove 0 0 0x4000 1 = true) ∧
    (let s := tPages ((List.range 32).map (fun k => (32 + k, tOwned)) ++ (List.range 32).map fun k => (0x4000 + k, 0)) [] []
      { frame := 32, dest := 0x4000, len := 32 }
     s.mayMove 0 32 0x4000 32 = true) ∧
    (let s := tPages [(0, tOwned), (1, tOwned), (0x4000, 0), (0x4001, 0)] [] [] { frame := 0, dest := 0x4000, len := 2 }
     s.mayMove 0 0 0x4000 2 = false) ∧
    (let s := tPages [(0, tOwned), (1, tOwned)] [] [] { frame := 0, dest := 1, len := 1 }
     s.mayMove 0 0 1 1 = false) ∧
    (let s := tPages [(0, tMoving), (1, tMoving), (2, tMoving), (3, tMoving)] [] [.move 0 2 2 1] { frame := 0, dest := 2, len := 2 }
     (s.die 0).work = [.move 0 2 2 1] ∧ (s.die 0).frameHeld (framePa 0 (0 + 1)) = false) ∧
    (let s := tHeldFrame (tPages [(0, tMoving), (1, tMoving)] [] [.move 0 1 1 0] { frame := 0, dest := 1, len := 1 }) 0
     (s.die 0).work = [.move 0 1 1 0] ∧ (s.die 0).frameHeld (framePa 0 (0 + 0)) = true) ∧
    (let s := tPages [(0, tMoving), (1, tMoving), (2, tMoving), (3, tMoving)] [] [.move 0 2 2 2] { frame := 0, dest := 2, len := 2 }
     (s.die 0).work = [.move 0 2 2 2] ∧ 0 + 2 ≤ 2 ∧ (∀ k < 2, s.frameExists 0 (0 + k) = true ∧ s.frameExists 0 (2 + k) = true)) ∧
    (let s := tPages [(0, tOwned), (1024, 0)] [tPage 0] [] { frame := 0, nats := [1024] }
     (s.die 0).mtlb.find? (fun t => t.pa = framePa 0 0) = some (tPage 0) ∧ s.mayDuplicate 0 0 (tPage 0) s.input.nats = true) ∧
    (let s := tPages [(0, tOwned), (1, 0)] [tPage 0] [] { frame := 0, nats := [1] }
     (s.die 0).mtlb.find? (fun t => t.pa = framePa 0 0) = some (tPage 0) ∧ s.mayDuplicate 0 0 (tPage 0) s.input.nats = false) := by
  refine ⟨by decide, by decide +kernel, by decide, by decide, by decide, by decide, by decide, by decide, by decide⟩

/-! Translations, seals and sharing -/

/-- A machine whose frame 2 holds tables of micro-context 0: the directory at 0x40000, a level 0 table at 0x41000 and a level 1 table at
0x42000, whose first entry is a leaf of a page at the bottom of HBM; with a job on core 0. -/
def tWalk (x : Input) : State :=
  { tState .s tJob with
    input := x, blocks := [(0, [(0, 0x4000000100000000), (1, 0x40000)])]
    dies := [(0, { tDie tJob with owner := [(0, tOwnedCode), (1, tOwned), (2, tOwned0), (0x4000, tOwned)] })]
    mem := [(0x40000, 1), (0x40001, 0x10), (0x40002, 4), (0x41000, 1), (0x41001, 0x20), (0x41002, 4), (0x42000, 0xF), (0x42005, 0x40)] }

def tArrives (since clock : Nat) : State :=
  let j := { tJob with stalls := ⟨some ⟨0x40000, .read, since, none⟩, none, none, none⟩ }
  { tState .s j with
    clock := clock, dies := [(0, { tDie j with cores := [(0, { tCore j with tlb := [tPage 0x40000] })], owner := [(2, tArriving)] })] }

def tRound (l : List PageWork) : State := { tState .s tJob with dies := [(0, { tDie tJob with work := l })] }

/-- A walk that ends in a leaf of the world's; an access past the arrival bound, one to a page that has arrived and one within the bound;
the last core of a round, and one of two. -/
theorem witness_Translations :
    (let s := tWalk {}
     s.job? 0 = some tJob ∧ s.walk 0 0 = some ⟨2 ^ 46, 32, 3⟩ ∧ ownState (s.ownerAt (2 ^ 46)) = ownOwned ∧ ownWid (s.ownerAt (2 ^ 46)) = 1 ∧
       ownReg (s.ownerAt (2 ^ 46)) = false ∧ ownCode (s.ownerAt (2 ^ 46)) = false ∧ (s.die 0).work = [] ∧ (s.die 0).mtlb = [] ∧ (s.die 0).alive = true ∧ s.flushing 0 = false ∧
       ∀ y ∈ (s.core 0).tlb, y.copies = []) ∧
    (let s := tArrives 0 (2 ^ 24)
     (∃ j, s.job? 0 = some j ∧ j.stalls.get Engine.s = some ⟨0x40000, .read, 0, none⟩ ∧ j.areaPending = false ∧ j.awaitsReply = false ∧
         j.atHcall .s = false ∧ (j.updStream .s fun t => { t with fetched := some 0xC70010000000000000000100 }).atHcall .s = true) ∧
       s.leafOf 0 0 0x40000 = some ⟨0x40000, 17, 3⟩ ∧ ownState (s.ownerAt 0x40000) = ownArriving ∧
       0 + s.hub.arrivalBound ≤ s.clock + Config.dieOffset s.resets 0) ∧
    (let s := tArrives (2 ^ 63) 0
     s.clock + Config.dieOffset s.resets 0 < 2 ^ 63 + s.hub.arrivalBound) ∧
    ((tRound [.round 0 0x20000 17 [0] .drop]).die 0).work = [.round 0 0x20000 17 [0] .drop] ∧
    ((tRound [.round 0 0 52 [0, 15] .keep]).die 0).work = [.round 0 0 52 [0, 15] .keep] := by
  have small : ∀ r, 0 + Config.dieOffset r 0 < 2 ^ 63 := fun r => by simpa [Config.dieOffset] using (Config.dieOffsetBits r 0).isLt
  refine ⟨by decide, ⟨⟨_, rfl, by decide, by decide, by decide, by decide, by decide⟩, by decide, by decide, ?_⟩, (small _).trans (by decide), rfl, rfl⟩
  exact Nat.le_add_right _ _

/-- That machine with these shadow commands and page operations on die 0. -/
def tShadow (x : Input) (l : List ShadowCommand) (work : List PageWork) : State :=
  { tWalk x with dies := [(0, { ((tWalk x).die 0) with shadow := l, work := work })] }

/-- A malformed entry of a level and of the directory; a valid entry already there; a leaf that maps a frame without CODE with X; one that may
be written; a page that is no table page; commands with nothing before them. -/
theorem witness_ShadowCommands :
    (let s := tWalk { va := 0x42010, value := 0x2F, index := 1 }
     (s.die 0).shadow = [] ∧ s.input.value.testBit 0 = true ∧ entryMalformed 1 0 0x2F = true ∧ s.tablePage 0 0x42010 = true) ∧
    (let s := tWalk { va := 0x40008, value := 0x3, index := 5 }
     (s.die 0).shadow = [] ∧ directoryMalformed s.input.value = true) ∧
    (let s := tWalk { va := 0x42000, value := 0x40000000000F, index := 1 }
     ¬ (s.input.value.testBit 0 = true ∧ entryMalformed 1 0 s.input.value = true) ∧ (s.byte 0x42000).getLsbD 0 = true) ∧
    (let s := tWalk { va := 0x43000, value := 0x2001F, index := 4 }
     entryMalformed 4 0 s.input.value = true) ∧
    (let s := tWalk { va := 0x43000, value := 0x20013, index := 3 }
     entryMalformed 3 0 s.input.value = true) ∧
    (let s := tWalk { va := 0x43000, value := 0x20013, index := 4 }
     entryMalformed 4 0 s.input.value = false ∧ (s.byte 0x43000).getLsbD 0 = false ∧ s.codeMismatch 4 s.input.value = true) ∧
    (let s := tWalk { va := 0x43000, value := 0x2000F, index := 4 }
     entryMalformed 4 0 s.input.value = false ∧ (s.byte 0x43000).getLsbD 0 = false ∧ s.codeMismatch 4 s.input.value = false) ∧
    (let s := tWalk { va := 0x40008, value := 0x44001, index := 5 }
     directoryMalformed s.input.value = false ∧ (s.byte 0x40008).getLsbD 0 = false) ∧
    (let s := tWalk { va := 0x20000 }
     s.tablePage 0 0x20000 = false ∧ (s.die 0).shadow = [] ∧ homeDie 0 = 0) ∧
    (let s := tWalk { va := 0x40000 }
     s.tablePage 0 0x40000 = true ∧ s.input.va < 2 ^ 64 ∧ (s.die 0).shadow = []) := by
  refine ⟨by decide, by decide, by decide, by decide, by decide, by decide, by decide, by decide, by decide, by decide⟩

/-- A command performed, its round under way and at its end; a command behind another, in the queue and not. -/
theorem witness_ShadowOrder :
    (let x : Input := { va := 0x42000 }
     ∀ i ∈ [Instr.shclr, .shroot], ((tShadow x [⟨0, i, x, true⟩] []).die 0).shadow = [⟨0, i, (tShadow x [] []).input, true⟩] ∧
       (∀ k < 8, (tShadow x [⟨0, i, x, true⟩] []).roundOf k 0 = false) ∧
       (tShadow x [⟨0, i, x, true⟩] [.round 0 0 52 [0] .keep]).roundOf 0 0 = true) ∧
    (let x : Input := { va := 0x42000 }
     let y : ShadowCommand := ⟨0, .shroot, {}, true⟩
     ∀ i ∈ [Instr.shset, .shclr, .shroot], ((tShadow x [y, ⟨0, i, x, false⟩] []).die 0).shadow = [y, ⟨0, i, (tShadow x [] []).input, false⟩] ∧
       ((tShadow x [y] []).die 0).shadow = [y] ∧ (y.row ≠ i ∨ y.input ≠ x)) := by
  refine ⟨?_, ?_⟩ <;> decide +kernel

/-- Frame 1, mapped at itself. -/
def tSeal (e : Word) (x : Input) : State := tPages [(1, e)] [tPage 0x20000] [] x
def tShare (data : List Byte) : State :=
  { tPages [(1, tOwned)] [tPage 0x20000] [] { va := 0x20000, len := 1, data := data } with blocks := [(0, [(0, 0x4000000100000000)])] }
def tShareBytes : List Byte := ([1].flatMap fun f => (tShare []).readPa (f * 131072) 131072).take 1
theorem tShare_data (d : List Byte) : (tShare d).input.data = d := rfl
theorem tShare_bytes (d : List Byte) :
    ([1].flatMap fun f => (tShare d).readPa (f * 131072) 131072).take (tShare d).input.len = tShareBytes := rfl
theorem ne_snoc {α : Type} (l : List α) (x : α) : l ≠ l ++ [x] := fun h => absurd (congrArg List.length h) (by simp)
def tSegment (pending : Bool) : SharedSegment := ⟨[1], [1], [], pending⟩
def tSharing (l : List SharedSegment) : State :=
  let s := tPages [(1, tMoving), (2, tShared)] [] [] { index := 0 }
  { s with hub := { s.hub with shared := l } }

/-- A page to seal, one of CODE, one of another world and a run of none; a segment whose hash holds, and whose hash does not; a sharing with no
segment of its hash, and with one on the same die. -/
theorem witness_Sharing :
    (let s := tSeal tOwned { va := 0x20000, len := 1 }
     s.input.va % 131072 = 0 ∧ s.input.len = 1 ∧ s.pageFrames 0 0x20000 1 = some [1] ∧ ownState (s.ownerAt (1 * 131072)) = ownOwned ∧
       ownWid (s.ownerAt (1 * 131072)) = s.ctxWid 0 ∧ ownCode (s.ownerAt (1 * 131072)) = false ∧ s.framesHeld [1] = false ∧
       (tHeldFrame s 0x20000).framesHeld [1] = true) ∧
    (let s := tSeal tOwnedCode { va := 0x20000, len := 1 }
     s.pageFrames 0 0x20000 1 = some [1] ∧ ownCode (s.ownerAt (1 * 131072)) = true) ∧
    (let s := tSeal tOwned0 { va := 0x20000, len := 1 }
     s.pageFrames 0 0x20000 1 = some [1] ∧ ownWid (s.ownerAt (1 * 131072)) ≠ s.ctxWid 0) ∧
    (let s := tSeal tOwned { va := 0x20000, len := 0 }
     s.input.len = 0) ∧
    (∀ data, let s := tShare data
     s.pageFrames 0 s.input.va ((s.input.len + 131071) / 131072) = some [1] ∧ s.input.va % 131072 = 0 ∧ s.input.len ≠ 0 ∧
       (s.blk 0 0).testBit 59 = false ∧ ∀ f ∈ [1], ownState (s.ownerAt (f * 131072)) = ownOwned ∧ ownWid (s.ownerAt (f * 131072)) = s.ctxWid 0 ∧
         ownReg (s.ownerAt (f * 131072)) = false ∧ s.parkInUse (f * 131072) = false ∧ s.framesHeld [1] = false ∧
           (tHeldFrame s 0x20000).framesHeld [1] = true) ∧
    (let s := tShare (sha384 tShareBytes)
     sha384 (([1].flatMap fun f => s.readPa (f * 131072) 131072).take s.input.len) = s.input.data) ∧
    (let s := tShare (sha384 tShareBytes ++ [0])
     sha384 (([1].flatMap fun f => s.readPa (f * 131072) 131072).take s.input.len) ≠ s.input.data) ∧
    (let s := tSharing [tSegment true]
     s.hub.shared[s.input.index]? = some (tSegment true) ∧ (∀ f ∈ (tSegment true).frames, ownState (s.ownerAt (f * 131072)) = ownMigrating) ∧
       ∀ h ∈ s.hub.shared, h.pending = false → h.hash ≠ (tSegment true).hash) ∧
    (let h : SharedSegment := ⟨[1], [2], [5], false⟩
     let s := tSharing [tSegment true, h]
     s.hub.shared[s.input.index]? = some (tSegment true) ∧
       s.hub.shared.find? (fun h => !h.pending && h.hash = [1] && h.frames.map (fun f => paDie (f * 131072)) = [1].map fun f => paDie (f * 131072)) =
         some h) := by
  refine ⟨by decide, by decide, by decide, by decide, fun data => ?_, ?_, ?_, by decide, by decide⟩
  · have h : let s := tShare []
        s.pageFrames 0 s.input.va ((s.input.len + 131071) / 131072) = some [1] ∧ s.input.va % 131072 = 0 ∧ s.input.len ≠ 0 ∧
          (s.blk 0 0).testBit 59 = false ∧ ∀ f ∈ [1], ownState (s.ownerAt (f * 131072)) = ownOwned ∧ ownWid (s.ownerAt (f * 131072)) = s.ctxWid 0 ∧
            ownReg (s.ownerAt (f * 131072)) = false ∧ s.parkInUse (f * 131072) = false ∧ s.framesHeld [1] = false ∧
              (tHeldFrame s 0x20000).framesHeld [1] = true := by decide
    exact h
  · intro s; rw [tShare_bytes, tShare_data]
  · intro s; rw [tShare_bytes, tShare_data]; exact ne_snoc _ _

def tColdSegment (hash : List Byte) : Segment :=
  { ctx := 0, wid := 1, index := 0, va := 0x20000, len := 1, hash := hash, share := false, frames := [1], gidx := 0, child := false, tok := 5
    before := 7, last := false }
def tCold (g : Segment) : State :=
  let s := tState .s tJob
  { s with
    input := { index := 0, data := [9] }, hub := { s.hub with segments := [g] }
    dies := [(0, { tDie tJob with owner := [(1, tArriving)] })] }

theorem tCold_data (g : Segment) : (tCold g).input.data = [9] := rfl
theorem tColdSegment_hash (h : List Byte) : (tColdSegment h).hash = h := rfl

/-- The first segment of a selection, its bytes as its hash says, and not. -/
theorem witness_ColdSegments :
    (∀ hash, let g := tColdSegment hash
     let s := tCold g
     s.hub.segments[s.input.index]? = some g ∧ s.input.data.length = g.len ∧ g.frames.Nodup ∧ g.share = false ∧
       (∀ y ∈ s.hub.segments.take s.input.index, ¬ (y.ctx = g.ctx ∧ y.gidx = g.gidx ∧ y.child = g.child)) ∧
       (∀ f ∈ g.frames, ownState (s.ownerAt (f * 131072)) = ownArriving) ∧ g.tok ≠ 0 ∧ s.job? 0 = some tJob ∧
       (s.coresOf g.ctx).find? (fun m => (s.job? m).any fun j => j.gidx = g.gidx && j.child = g.child) = some 0) ∧
    (let g := tColdSegment (sha384 [9])
     sha384 (tCold g).input.data = g.hash ∧ g.last = false) ∧
    (let g := tColdSegment (sha384 [9] ++ [0])
     sha384 (tCold g).input.data ≠ g.hash) := by
  refine ⟨fun hash => ?_, ⟨?_, rfl⟩, ?_⟩
  · have h : let s := tCold (tColdSegment [])
        ownState (s.ownerAt (1 * 131072)) = ownArriving ∧
          (s.coresOf 0).find? (fun m => (s.job? m).any fun j => j.gidx = 0 && j.child = false) = some 0 := by decide
    refine ⟨rfl, rfl, by simp [tColdSegment], rfl, ?_, ?_, by simp [tColdSegment], rfl, h.2⟩
    · intro y hy; cases hy
    · intro f hf; simp only [tColdSegment, List.mem_singleton] at hf; subst hf; exact h.1
  · rw [tCold_data, tColdSegment_hash]
  · intro g; rw [tCold_data, tColdSegment_hash]; exact ne_snoc _ _

/-! Firmware's commands on blocks -/

/-- Micro-contexts of die 0 with these blocks, no job, and an event's input. -/
def tFirm (blocks : List (Nat × List (Nat × Word))) (x : Input) : State := { State.reset with input := x, blocks := blocks }
def tWord (state : Nat) : Word := BitVec.ofNat 64 (state * 2 ^ 61 + 2 ^ 32)
def tIdle (ctx : Nat) : List (Nat × List (Nat × Word)) := [(ctx, [(0, tWord 0)])]

set_option maxRecDepth 20000 in
/-- The last micro-context's write of the largest address, and of one more; a locked field of a parked block; a queue of one chunk; a block that
does not exist, an offset that is none and a write past the block. -/
theorem witness_BlockWrites :
    (let s := tFirm (tIdle 8191) { ctx := 8191, index := 0x10, data := leBytes 8 (2 ^ 52 - 1) }
     s.input.ctx < 8192 ∧ s.input.data.length = 8 ∧ s.input.index ∈ [0x10, 0x28, 0x38] ∧ fieldNat s.input.data 0 8 < 2 ^ 52) ∧
    (let s := tFirm (tIdle 0) { ctx := 0, index := 0x38, data := leBytes 8 (2 ^ 52) }
     s.input.data.length = 8 ∧ 2 ^ 52 ≤ fieldNat s.input.data 0 8) ∧
    (let s := tFirm [(0, [(0, tWord 3)])] { ctx := 0, index := 0x48, data := leBytes 8 1 }
     s.ctxState 0 ≠ 0 ∧ s.ctxState 0 ≠ 5 ∧ fieldNat s.input.data 0 8 ≠ s.blk 0 s.input.index) ∧
    (let s := tFirm (tIdle 0) { ctx := 0, index := 0x18, data := leBytes 8 (2 ^ 52 * 1) }
     s.input.index = 0x18 ∧ s.ctxState 0 = 0 ∧ fieldNat s.input.data 0 8 / 2 ^ 52 % 256 < 2) ∧
    (let s := tFirm (tIdle 0) { ctx := 8192, index := 4, data := List.replicate 512 0 }
     8192 ≤ s.input.ctx ∧ s.input.index % 8 ≠ 0 ∧ 512 < s.input.index + s.input.data.length) ∧
    (tFirm (tIdle 0) { ctx := 0, data := List.replicate 7 0 }).input.data.length % 8 ≠ 0 := by decide

/-- Terms of a contract: PERIOD, BUDGET, DEADLINE and COST. -/
def tTerms (p b d cost : Nat) : List Byte := leBytes 8 (p + 2 ^ 32 * b) ++ leBytes 8 (d + 2 ^ 32 * cost)
def tContract (p b d cost : Nat) : State := tFirm (tIdle 0) { ctx := 0, data := tTerms p b d cost }

/-- A write whose fields are refused whole, and one of CONTRACT's block whose terms alone are. -/
theorem witness_BlockFields :
    (let s := tFirm (tIdle 0) { ctx := 0, index := 0x38, data := leBytes 8 (2 ^ 52) }
     s.input.index % 8 = 0 ∧ s.input.data.length % 8 = 0 ∧ s.input.index + s.input.data.length ≤ 512 ∧
       s.writeReason 0 (blockWords s.input.index s.input.data) = some 6) ∧
    (let s := tFirm [(0, [(0, tWord 0 + 2 ^ 57)])] { ctx := 0, index := 0x38, data := leBytes 8 5 ++ List.replicate 16 0 ++ leBytes 8 1 ++ tTerms 100 60 50 0 }
     let w := blockWords s.input.index s.input.data
     s.input.index % 8 = 0 ∧ s.input.data.length % 8 = 0 ∧ s.input.index + s.input.data.length ≤ 512 ∧ s.writeReason 0 w = some 1 ∧
       s.newState 0 (s.withoutTerms 0 w) = none ∧ w.covers 0x38 = true) := by
  refine ⟨by decide +kernel, by decide +kernel⟩

set_option maxRecDepth 20000 in
/-- A contract whose budget passes its deadline; one whose COST is above the bound and one at it; a full table; a rate above the bound, a
deadline too near, and one at its bound: 78,208 and 11,792 cycles of blocking in nine tenths of 100,000. -/
theorem witness_Contracts :
    (let s := tContract 100 60 50 0
     let P := fieldNat s.input.data 0 8 % 2 ^ 32
     let B := fieldNat s.input.data 0 8 / 2 ^ 32 % 2 ^ 32
     let D := fieldNat s.input.data 8 8 % 2 ^ 32
     s.input.ctx < 8192 ∧ placementLegal (s.blkBits 0 0 47 44) (s.blkBits 0 0x50 42 40) (s.blkBits 0 0x50 39 36) = true ∧ s.ctxWid 0 ≠ 0 ∧
       s.blkBits 0 0 54 52 = 0 ∧ s.blkBits 0 0 31 8 = 0 ∧ s.blkBits 0 0 47 44 ≤ 4 ∧ fieldNat s.input.data 8 8 < 2 ^ 46 ∧ ¬ (1 ≤ B ∧ B ≤ D ∧ D ≤ P)) ∧
    (let s := tContract 100 50 50 8193
     let cost := fieldNat s.input.data 8 8 / 2 ^ 32 % 2 ^ 14
     fieldNat s.input.data 8 8 < 2 ^ 46 ∧ (s.die (homeDie 0)).bcap < cost) ∧
    (let s := { tContract 100 50 50 8192 with blocks := (0, [(0, tWord 0)]) :: (List.range 256).map fun k => (k + 1, [(0, tWord 0 + 0x0100000000000000)]) }
     let cost := fieldNat s.input.data 8 8 / 2 ^ 32 % 2 ^ 14
     cost ≤ (s.die (homeDie 0)).bcap ∧ 256 ≤ s.tableCount 0) ∧
    (let s := tContract 1000 901 1000 0
     s.tableCount 0 < 256 ∧ (∀ b ∈ s.blocks, b.1 ≠ 0 → s.admitted b.1 = false) ∧ (s.die 0).ubound * 1000 < 901 * 1000) ∧
    (let s := tContract 100000 78209 100000 0
     78209 * 1000 ≤ (s.die 0).ubound * 100000 ∧
       (s.die 0).ubound * (100000 * 100000) < (78209 * 100000 + ((s.die 0).bcap + 3600) * 100000) * 1000) ∧
    (let s := tContract 100000 78208 100000 0
     78208 * 1000 ≤ (s.die 0).ubound * 100000 ∧
       (78208 * 100000 + ((s.die 0).bcap + 3600) * 100000) * 1000 ≤ (s.die 0).ubound * (100000 * 100000)) := by
  refine ⟨by decide, by decide, by decide +kernel, by decide, by decide, by decide⟩

/-- A parameter at each end of its range, and outside it. -/
theorem witness_DispatcherParameters :
    (900 : Nat) ≤ 900 ∧ (901 : Nat) > 900 ∧ (1 : Nat) ≤ 2 ^ 24 ∧ (0 : Nat) < 1 ∧ (4096 : Nat) ≤ 2 ^ 24 ∧ (4095 : Nat) < 4096 ∧
    (let s := tFirm [] { index := 1, value := 8192 }
     (s.input.index, 0, 8192, { s.die s.input.die with bcap := s.input.value }) ∈ [((0 : Nat), (0 : Nat), (900 : Nat), { s.die s.input.die with ubound := s.input.value }),
        (1, 0, 8192, { s.die s.input.die with bcap := s.input.value }), (2, 1, 2 ^ 24, { s.die s.input.die with starve := s.input.value }),
        (3, 4096, 2 ^ 24, { s.die s.input.die with quant := s.input.value })] ∧ s.input.value ≤ 8192) := by decide

/-- A block as firmware installs it: priority 0, one core, world 1. -/
def tInstalled : List Byte := 
  leBytes 8 (2 ^ 32) ++ List.replicate 16 0 ++ leBytes 8 (2 * 2 ^ 52) ++ List.replicate 48 0 ++ leBytes 8 1 ++ List.replicate 424 0

set_option maxRecDepth 20000 in
/-- Blocks that may be retired, whose world still has a page in a move, that are bound or retired already; a faulted block with no queue; a retired slot installed at once, and one
whose identifier's round still runs; a bound block. -/
theorem witness_BlockStates :
    (let s := tFirm [(0, [(0, tWord 3)])] { ctx := 0 }
     s.ctxState 0 ≠ 2 ∧ s.ctxState 0 ≠ 5 ∧ s.isBound 0 = false ∧ s.retireWaits 0 = false) ∧
    (let s := { tFirm [(0, [(0, tWord 3)])] { ctx := 0 } with dies := [(0, { Die.reset with owner := [(0, tMoving)] })] }
     s.ctxState 0 = 3 ∧ s.isBound 0 = false ∧ s.retireWaits 0 = true) ∧
    (tFirm [(0, [(0, tWord 2)])] { ctx := 0 }).ctxState 0 = 2 ∧
    (tFirm [] { ctx := 0 }).ctxState 0 = 5 ∧
    (let s := tFirm [(0, [(0, tWord 4)])] { ctx := 0 }
     s.ctxState 0 = 4 ∧ s.isBound 0 = false ∧ s.queueVa 0 = 0) ∧
    (let s := tFirm [] { ctx := 0, data := tInstalled }
     let words := (blockWords 0 s.input.data).map fun p => if p.1 = 0 then (0, putBits p.2 63 61 0) else p
     s.input.data.length = 512 ∧ s.ctxState 0 = 5 ∧ s.writeReason 0 words = none ∧ s.installWaits 0 = false ∧ fieldNat s.input.data 0x10 8 = 0) ∧
    (let s := { tFirm [] { ctx := 0, data := tInstalled } with dies := [(7, { Die.reset with work := [.round 0 0 52 [0] .drop] })] }
     let words := (blockWords 0 s.input.data).map fun p => if p.1 = 0 then (0, putBits p.2 63 61 0) else p
     s.ctxState 0 = 5 ∧ s.writeReason 0 words = none ∧ s.installWaits 0 = true) := by
  refine ⟨by decide, by decide, by decide, by decide, by decide, by decide +kernel, by decide +kernel⟩

/-! Firmware's commands on units -/

/-- A machine with this routine slot 0, whose request runs in a slice where `busy`, and an event's input. -/
def tRoutineSlot (r : RoutineSlot) (busy : Bool) (x : Input) : State :=
  { State.reset with
    input := x, routines := [(0, r)]
    dies := if busy then [(0, { Die.reset with slices := [(0, { Slice.idle with queues := [⟨0, true, [{ tReq (.lathe aD) with code := some [1] }]⟩] })] })] else [] }
def tDone : BitVec 32 := BitVec.ofNat 32 (Instr.sliceDone 0).bits

/-- No code and too much; a slot whose routine is under way, one at rest, and one that still runs; a map entry and one that does not exist. -/
theorem witness_Routines :
    (let s := tRoutineSlot .idle false { slot := 0, code := [] }
     (∀ p ∈ s.routines, p.2.next = none ∨ s.slotRuns p.1 = true) ∧ s.input.slot < 256 ∧ s.input.code.length = 0 ∧ routineReason s.input.code = some 1) ∧
    24 < (List.replicate 25 tDone).length ∧
    (let s := tRoutineSlot ⟨true, 1, [tDone], [], some [tDone]⟩ true { slot := 0, code := [tDone] }
     (∀ p ∈ s.routines, p.2.next = none ∨ s.slotRuns p.1 = true) ∧ (s.routine 0).next ≠ none ∧ routineReason s.input.code = none) ∧
    (let s := tRoutineSlot ⟨true, 65535, [tDone], [], none⟩ false { slot := 0, code := List.replicate 24 tDone }
     (∀ p ∈ s.routines, p.2.next = none ∨ s.slotRuns p.1 = true) ∧ (s.routine 0).next = none ∧ s.slotRuns 0 = false ∧ routineReason s.input.code = none) ∧
    (let s := tRoutineSlot ⟨true, 1, [tDone], [], none⟩ true { slot := 0, code := [tDone] }
     (∀ p ∈ s.routines, p.2.next = none ∨ s.slotRuns p.1 = true) ∧ (s.routine 0).next = none ∧ s.slotRuns 0 = true ∧ routineReason s.input.code = none) ∧
    (let s := tRoutineSlot .idle false { index := 15, slot := 255, value := 255 }
     s.input.index < 16 ∧ s.input.slot < 256 ∧ s.input.value < 256) ∧
    16 ≤ (tRoutineSlot .idle false { index := 16 }).input.index := by
  refine ⟨by decide +kernel, by decide, by decide +kernel, by decide +kernel, by decide +kernel, by decide, by decide⟩

/-- An image of 256 tokens, the bytes themselves, and no merge. -/
def tHead : List Byte :=
  leBytes 8 7 ++ leBytes 4 256 ++ leBytes 4 0 ++ leBytes 4 0 ++ leBytes 4 256 ++ leBytes 2 1 ++ leBytes 2 0 ++ List.replicate 996 0
def tEntry (b : Nat) : List Byte := leBytes 8 (2 ^ 24 + b)
def tString (b : Nat) : List Byte := [BitVec.ofNat 8 b]
def tImage : List Byte := tHead ++ ((List.range 256).flatMap tEntry ++ ((List.range 256).flatMap tString ++ []))
def tVocab (v : VocabSlot) (x : Input) : State := { State.reset with input := x, hub := { State.reset.hub with vocab := [(7, v)] } }
def tLoads : State := (tVocab ⟨1, 0x4000000, 3328, [], some ⟨.vocabularyLoad, { slot := 7 }⟩⟩ { slot := 7 }).writePa 0x4000000 tImage

theorem readPa_writePa (s : State) (pa : Nat) (bs : List Byte) : (s.writePa pa bs).readPa pa bs.length = bs := Sparse.read_blit ..

theorem flatMap_length {α : Type} (f : Nat → List α) (k : Nat) (hf : ∀ i, (f i).length = k) (n : Nat) : ((List.range n).flatMap f).length = k * n := by
  rw [List.length_flatMap]; simp [hf, Nat.mul_comm]

theorem flatMap_piece {α : Type} (f : Nat → List α) (k : Nat) (hf : ∀ i, (f i).length = k) (n i : Nat) (h : i < n) (c : List α) :
    (((List.range n).flatMap f ++ c).drop (k * i)).take k = f i := by
  obtain ⟨m, rfl⟩ : ∃ m, n = i + (m + 1) := ⟨n - i - 1, by omega⟩
  rw [List.range_add, List.flatMap_append, List.append_assoc, List.drop_left' (flatMap_length f k hf i), List.range_succ_eq_map]
  simp only [List.map_cons, List.flatMap_cons, List.append_assoc, Nat.add_zero]
  exact List.take_left' (hf i)

theorem tHead_length : tHead.length = 1024 := by
  simp only [tHead, List.length_append, leBytes_length, List.length_replicate]
theorem tEntry_length (i : Nat) : (tEntry i).length = 8 := leBytes_length ..
theorem tImage_length : tImage.length = 3328 := by
  rw [tImage, List.length_append, List.length_append, List.length_append, tHead_length, flatMap_length _ 8 tEntry_length,
    flatMap_length _ 1 fun _ => rfl, List.length_nil]

theorem tImage_entry (i : Nat) (h : i < 256) : tokEntry tImage i = leNat (tEntry i) := by
  rw [tokEntry, imgNat, ← List.drop_drop, tImage, List.drop_left' tHead_length, flatMap_piece _ 8 tEntry_length 256 i h]

theorem tImage_string (i : Nat) (h : i < 256) : (tImage.drop (0xC00 + i)).take 1 = tString i := by
  have e : 0xC00 + i = 1024 + (8 * 256 + 1 * i) := by omega
  rw [e, ← List.drop_drop, ← List.drop_drop, tImage, List.drop_left' tHead_length, List.drop_left' (flatMap_length _ 8 tEntry_length _)]
  exact flatMap_piece tString 1 (fun _ => rfl) 256 i h []

set_option maxRecDepth 20000 in
theorem tImage_good : vocCheck tImage 3328 = none := by
  have n : vocNtok tImage = 256 := by decide +kernel
  have p : vocPoolOff tImage = 0xC00 := by decide +kernel
  have b : vocBfbase tImage = 0 := by decide +kernel
  have l : vocPoolLen tImage = 256 := by decide +kernel
  have e : ∀ i < 256, bits (leNat (tEntry i)) 63 35 = 0 ∧ bits (leNat (tEntry i)) 31 24 = 1 ∧ bits (leNat (tEntry i)) 23 0 = i := by decide +kernel
  simp only [vocCheck, n]
  refine (if_neg (by decide +kernel)).trans ((if_neg ?_).trans ((if_neg (by decide +kernel)).trans ((if_neg (by decide +kernel)).trans
    (if_neg (by decide +kernel)))))
  have s : ∀ i < 256, tokString tImage i = [BitVec.ofNat 8 i] := fun i h => by
    rw [tokString, tokLen, tokOff, tImage_entry i h, p, (e i h).2.1, (e i h).2.2, tImage_string i h, tString]
  simp only [Bool.or_eq_true, List.any_eq_true, List.mem_range, decide_eq_true_eq, not_or, not_exists, not_and]
  refine ⟨fun i h => ?_, fun i h => ?_⟩
  · rw [tokLen, tokOff, tImage_entry i h, (e i h).1, (e i h).2.1, (e i h).2.2, l]
    simp; omega
  · rw [b, Nat.zero_add, s i h]; simp

/-- An empty slot, a full one, one that loads by this command and one that unloads by it; an image that passes the tests and one that fails them;
an image that a block uses, and one that none uses. -/
theorem witness_Vocabulary :
    (let s := tVocab .empty { slot := 7 }
     s.input.slot < 8 ∧ (Sparse.get .empty s.hub.vocab s.input.slot).state = 0 ∧ (Sparse.get .empty s.hub.vocab s.input.slot).loader = none) ∧
    (let s := tVocab ⟨2, 0, 0, [], none⟩ { slot := 7 }
     s.input.slot < 8 ∧ (Sparse.get .empty s.hub.vocab s.input.slot).state = 2 ∧ (Sparse.get .empty s.hub.vocab s.input.slot).loader = none ∧
       s.vocabUsers 7 = 0) ∧
    (let s := tVocab ⟨1, 0, 0, [], some ⟨.vocabularyLoad, { slot := 7 }⟩⟩ { slot := 7 }
     (Sparse.get .empty s.hub.vocab s.input.slot).loader = some ⟨.vocabularyLoad, s.input⟩) ∧
    (let s := tVocab ⟨3, 0, 0, [], some ⟨.vocabularyUnload, { slot := 7 }⟩⟩ { slot := 7 }
     (Sparse.get .empty s.hub.vocab s.input.slot).state = 3 ∧ (Sparse.get .empty s.hub.vocab s.input.slot).loader = some ⟨.vocabularyUnload, s.input⟩) ∧
    (let v := Sparse.get .empty tLoads.hub.vocab tLoads.input.slot
     v.state = 1 ∧ v.loader = some ⟨.vocabularyLoad, { slot := 7 }⟩ ∧ vocCheck (tLoads.readPa v.source (min v.length (2 ^ 24))) v.length = none) ∧
    (let s := tVocab ⟨1, 0, 0, [], some ⟨.vocabularyLoad, {}⟩⟩ { slot := 7 }
     let v := Sparse.get .empty s.hub.vocab s.input.slot
     v.state = 1 ∧ v.loader = some ⟨.vocabularyLoad, {}⟩ ∧ vocCheck (s.readPa v.source (min v.length (2 ^ 24))) v.length = some 2) ∧
    (let s := { tVocab ⟨2, 0, 0, [], none⟩ { slot := 7 } with blocks := [(0, [(10, 0x780000000000)])] }
     (Sparse.get .empty s.hub.vocab s.input.slot).state = 2 ∧ s.vocabUsers 7 ≠ 0) := by
  refine ⟨by decide, by decide, by decide, by decide, ⟨rfl, rfl, ?_⟩, by decide +kernel, by decide⟩
  have h : tLoads.readPa 0x4000000 tImage.length = tImage := readPa_writePa ..
  rw [tImage_length] at h
  show vocCheck (tLoads.readPa 0x4000000 3328) 3328 = none
  rw [h, tImage_good]

/-- Keys of their lengths, and one of another; a group and a run length at their bounds; the counters of a block with and without a contract; a
report of an idle and of a retired block; a boot step. -/
theorem witness_UnitParameters :
    (let s := tFirm (tIdle 8191) { ctx := 8191, data := List.replicate 16 1 }
     s.input.data.length = 16 ∧ s.input.ctx < 8192 ∧ s.hub.keys.length < 65536) ∧
    (tFirm [] { data := List.replicate 15 1 }).input.data.length ≠ 16 ∧ (tFirm [] { data := List.replicate 32 1 }).input.data.length = 32 ∧
    (let s := tFirm [] { index := 1023, nats := List.replicate 4 65535 }
     s.input.index < 1024 ∧ s.input.nats.length ≤ 1024 ∧ ∀ m ∈ s.input.nats, m < 65536) ∧
    (let s := tFirm [] { port := 31, value := 64 }
     s.input.port < 32 ∧ 1 ≤ s.input.value ∧ s.input.value ≤ 64) ∧
    64 < (tFirm [] { port := 31, value := 65 }).input.value ∧
    (let s := tFirm [(0, [(0, 0x4100000100000000)])] { index := 0 }
     (s.input.index, if (s.blk 0 0).testBit 56 then s.blk 0 0x68 % 2 ^ 32 else 0) ∈
       [(0, if (s.blk 0 0).testBit 56 then s.blk 0 0x68 % 2 ^ 32 else 0), (1, s.blk 0 0x68 / 2 ^ 32 % 2 ^ 16), (2, s.blk 0 0x140), (3, s.blk 0 0x70)]) ∧
    ((tFirm [] { ctx := 0 }).ctxState 0 = 5 ∧ (tFirm (tIdle 0) { ctx := 0 }).ctxState 0 ≠ 5 ∧ (tFirm (tIdle 0) { ctx := 0 }).input.kind = 0 ∧
      (tFirm (tIdle 0) { ctx := 0 }).cfghStalls 0 = false ∧ (tFirm [] { kind := 1 }).input.kind = 1) ∧
    (let s := tFirm [] { index := 9 }
     1 ≤ s.input.index ∧ s.input.index ≤ 9 ∧ recordSeq s.platform.current.1 < 2 ^ 32 - 1) ∧
    9 < (tFirm [] { index := 10 }).input.index := by
  refine ⟨by decide, by decide, by decide, by decide, by decide, by decide, by decide, by decide, by decide +kernel, by decide⟩

/-! Replays -/

/-- A machine whose world owns the first 8 MiB of its vault, micro-context 0 with a queue at 0x40000, a sampling policy and a replay area at
0x60000, whose record 0 is of a request of `kind` with this CFGH. -/
def tReplay (state : Nat) (meas : Word) (cfgh : List Byte) (kind : Nat) (vocab : Sparse VocabSlot) : State :=
  { tBig .s tJob with
    input := { ctx := 0, dest := 0, index := 0 }, hub := { State.reset.hub with vocab := vocab }
    dies := [(0, { ((tBig .s tJob).die 0) with cores := [] })]
    blocks := [(0, [(0, BitVec.ofNat 64 (state * 2 ^ 61 + 2 ^ 32)), (2, 0x40000), (7, 0x60000), (8, 0x70000), (18, meas)])]
    mem := Sparse.ofList 0 0x40000 tNone.bytes ++ Sparse.ofList 0 0x60040 (leBytes 4 0 ++ leBytes 4 kind ++ leBytes 8 0 ++ List.replicate 48 0 ++ cfgh) }
/-- The configuration hash of that block. -/
def tCfgh : List Byte :=
  [38, 174, 27, 58, 135, 43, 241, 150, 44, 73, 58, 172, 255, 133, 154, 201, 17, 68, 136, 218, 139, 15, 245, 42, 81, 97, 9, 94, 0, 149, 123, 207, 97, 221,
    209, 69, 72, 245, 160, 170, 191, 36, 181, 98, 153, 130, 221, 55]
def tSlots : Sparse VocabSlot := [(7, ⟨2, 0, 0, [], none⟩)]
theorem tReplay_slice (st : Nat) (m : Word) (h : List Byte) (k : Nat) (v : Sparse VocabSlot) (d i : Nat) : (tReplay st m h k v).slice d i = .idle := by
  rcases Nat.eq_zero_or_pos d with rfl | hd
  · rfl
  · rw [State.slice, show (tReplay st m h k v).die d = .reset from Sparse.get_not_mem _ _ _ (by simp [tReplay]; omega)]; rfl
/-- That machine, its sampling policy in a page that is still arriving. -/
def tStalling : State :=
  let s := tReplay 0 0 [] 0 []
  { s with
    dies := [(0, { (s.die 0) with owner := (s.die 0).owner.map fun e => if e.1 = 4 then (4, tArriving) else e })]
    blocks := [(0, [(0, 0x100000000), (2, 0x40000), (7, 0x60000), (8, 0x80000)])] }

theorem readPa_zero {s : State} {pa n : Nat} (h : ∀ p ∈ s.mem, p.1 < pa) : s.readPa pa n = List.replicate n 0 := by
  rw [State.readPa, Sparse.read]
  refine List.ext_getElem (by simp) fun i hi _ => ?_
  rw [List.getElem_map, List.getElem_replicate]
  refine Sparse.get_not_mem _ _ _ fun hm => ?_
  obtain ⟨p, hp, e⟩ := List.mem_map.mp hm
  have := h p hp
  omega

theorem worldBytes_zero {s : State} (n : Nat) (hs : s.span noCore 0 (s.ctxWid 0) (s.ctxConf 0) .read 0x70000 n = .at [(0x70000, n)])
    (hl : ∀ d i, s.slice d i = .idle)     (h : ∀ p ∈ s.mem, p.1 < 0x70000) : s.worldBytes 0 0x70000 n = List.replicate n 0 := by
  rw [State.worldBytes, State.ctxLoad, State.load_at hs (State.heldLine_idle hl)]
  show s.readPa 0x70000 n ++ [] = _
  rw [List.append_nil, readPa_zero h]

set_option maxRecDepth 100000 in
theorem tReplay_policy : ∀ h ∈ [[], tCfgh], ∀ v ∈ [[], tSlots], ∀ st ∈ [0, 3], ∀ k ∈ [0, 1],
    (tReplay st 0 h k v).worldBytes 0 0x70000 1024 = List.replicate 1024 0 := by
  intro h hh v hv st hs k hk
  have e : (tReplay st 0 h k v).span noCore 0 ((tReplay st 0 h k v).ctxWid 0) ((tReplay st 0 h k v).ctxConf 0) .read 0x70000 1024 =
      .at [(0x70000, 1024)] ∧ ∀ p ∈ (tReplay st 0 h k v).mem, p.1 < 0x70000 := by
    revert h v st k; decide +kernel
  exact worldBytes_zero 1024 e.1 (tReplay_slice st 0 h k v) e.2

set_option maxRecDepth 100000 in
theorem tCfgh_eq : (tReplay 0 0 [] 0 []).cfgh 0 = tCfgh := by
  have e : (tReplay 0 0 [] 0 []).blkBits 0 0x40 51 0 = 0x70000 := by decide
  unfold State.cfgh
  rw [e, tReplay_policy [] (by decide) [] (by decide) 0 (by decide) 0 (by decide)]
  decide +kernel

set_option maxRecDepth 100000 in
theorem tCfgh_all : ∀ st ∈ [0, 3], ∀ k ∈ [0, 1], (tReplay st 0 tCfgh k tSlots).cfgh 0 = tCfgh := by
  intro st hs k hk
  refine Eq.trans ?_ tCfgh_eq
  have e : (tReplay st 0 tCfgh k tSlots).blkBits 0 0x40 51 0 = 0x70000 ∧ (tReplay 0 0 [] 0 []).blkBits 0 0x40 51 0 = 0x70000 := by
    revert st k; decide
  unfold State.cfgh
  rw [e.1, e.2, tReplay_policy tCfgh (by decide) tSlots (by decide) st hs k hk, tReplay_policy [] (by decide) [] (by decide) 0 (by decide) 0 (by decide)]
  refine congrArg sha384 (congrArg (· ++ List.replicate 1024 0) ?_)
  revert st k
  decide +kernel

/-- What record 0 of that machine says. -/
def tReplays (s : State) (p : List Byte → Bool) : Bool :=
  match s.replayed s.input.ctx s.input.index with
  | .ok (bs, _) => p bs
  | _ => false

set_option maxRecDepth 100000 in
/-- A target of another measurement, of another configuration; no slot of the record's vocabulary, and one; a target that is not idle, and one
that is, for a message and for a dispatch; a policy whose page is still arriving. -/
theorem witness_Replays :
    (let s := tReplay 0 5 [] 0 []
     tReplays s (fun bs => s.meas s.input.dest ≠ (bs.drop 0x10).take 48) = true) ∧
    (let s := tReplay 0 0 [] 0 []
     tReplays s (fun bs => s.meas s.input.dest = (bs.drop 0x10).take 48 && (bs.drop 0x40).take 48 ≠ tCfgh) = true ∧ s.cfgh s.input.dest = tCfgh) ∧
    (∀ k ∈ [0, 1], ∀ st ∈ [0, 3], let s := tReplay st 0 tCfgh k tSlots
     tReplays s (fun bs => s.meas s.input.dest = (bs.drop 0x10).take 48 && (bs.drop 0x40).take 48 = tCfgh && fieldNat bs 4 4 = k &&
       (List.range 8).find? (fun i =>
         let v := Sparse.get .empty s.hub.vocab i
         v.state = 2 && vocVersion v.image = fieldNat bs 0x70 8) = some 7 &&
       (List.range 8).find? (fun i =>
         let v := Sparse.get .empty State.reset.hub.vocab i
         v.state = 2 && vocVersion v.image = fieldNat bs 0x70 8) = none) = true ∧
       s.cfgh s.input.dest = tCfgh ∧ s.cfghStalls s.input.dest = false ∧ s.ctxState s.input.dest = st) ∧
    (tReplays tStalling (fun bs => tStalling.meas 0 = (bs.drop 0x10).take 48) = true ∧ tStalling.cfghStalls tStalling.input.dest = true ∧
      tStalling.input.kind = 0 ∧ tStalling.ctxState tStalling.input.ctx = 0) ∧
    (match (tReplay 0 0 tCfgh 1 tSlots).appendDispatch 0 (List.replicate 6 0) 0 0 with
      | .ok _ => true
      | _ => false) = true := by
  refine ⟨by decide +kernel, ⟨by decide +kernel, tCfgh_eq⟩, fun k hk st hs => ⟨?_, tCfgh_all st hs k hk, ?_⟩, by decide +kernel, by decide +kernel⟩
  · revert k st; decide +kernel
  · revert k st; decide +kernel

/-! Rings -/

theorem ringTurn_empty {s : State} (h : s.hub.rings = []) (c : Command) : s.ringTurn c = true := by rw [State.ringTurn, State.ring, h]; rfl

/-- In the machines of the witnesses of firmware's commands every ring is empty: it is the turn of every command. -/
theorem witness_RingTurns (c : Command) :
    (∀ o m w x, (tPages o m w x).ringTurn c = true) ∧ (∀ s pa, s.hub.rings = [] → (tHeldFrame s pa).ringTurn c = true) ∧
    (∀ x l w, (tShadow x l w).ringTurn c = true) ∧ (∀ d, (tShare d).ringTurn c = true) ∧ (∀ b x, (tFirm b x).ringTurn c = true) ∧
    (∀ r b x, (tRoutineSlot r b x).ringTurn c = true) ∧ (∀ v x, (tVocab v x).ringTurn c = true) ∧ (∀ st m h k v, (tReplay st m h k v).ringTurn c = true) :=
  ⟨fun _ _ _ _ => ringTurn_empty rfl c, fun _ _ h => ringTurn_empty h c, fun _ _ _ => ringTurn_empty rfl c, fun _ => ringTurn_empty rfl c,
    fun _ _ => ringTurn_empty rfl c, fun _ _ _ => ringTurn_empty rfl c, fun _ _ => ringTurn_empty rfl c, fun _ _ _ _ _ => ringTurn_empty rfl c⟩

/-- A machine whose ring 0 holds these commands. -/
def tRing (l : List Command) : State := { State.reset with hub := { Hub.reset with rings := Sparse.set [] [] 0 l } }
def tCommandAt (k : Nat) : Command := ⟨.runLengthSet, { tag := k }⟩

/-- A command behind another, at the head, in its place, and before a full ring. -/
theorem witness_Rings :
    ((tRing [tCommandAt 1]).ringTurn (tCommandAt 0) = false ∧ ofFirmware .runLengthSet = true ∧ tCommandAt 0 ∉ (tRing [tCommandAt 1]).ring 0 ∧
      ((tRing [tCommandAt 1]).ring 0).length < 256) ∧
    ((tRing [tCommandAt 0, tCommandAt 1]).ring 0).head? = some (tCommandAt 0) ∧ tCommandAt 0 ∈ (tRing [tCommandAt 1, tCommandAt 0]).ring 0 ∧
    (tRing [tCommandAt 0, tCommandAt 1]).ring 0 = tCommandAt 0 :: [tCommandAt 1] ∧ tCommandAt 0 ∉ [tCommandAt 1] ∧
    256 ≤ ((tRing ((List.range 256).map fun k => tCommandAt (k + 1))).ring 0).length := by
  refine ⟨by decide, by decide, by decide, by decide, by decide, by decide +kernel⟩

/-! The hub and the ports -/

/-- A message's header: its length, its key, its stop strings. -/
def tMessage (hlen key stops : Nat) : List Byte :=
  leBytes 2 1 ++ leBytes 2 hlen ++ leBytes 4 0 ++ leBytes 16 key ++ leBytes 4 1048576 ++ List.replicate 28 0 ++ leBytes 1 stops ++ List.replicate 7 0
/-- A hub with key 1 of micro-context 0, which binds vocabulary slot 7 where `bound`. -/
def tHub (bound : Bool) (x : Input) : State :=
  { tFirm [(0, [(0, tWord 0), (10, if bound then 0x780000000000 else 0)])] x with
    hub := { State.reset.hub with keys := [(1, some 0)], vocab := [(7, ⟨2, 0, 0, [], none⟩)], devStatus := [(0, 4)] } }

def tMalformed (m : List Byte) : Bool :=
  fieldNat m 0 2 ≠ 1 || fieldNat m 2 2 < 64 || m.length < fieldNat m 2 2 || 1 < fieldNat m 4 4 || fieldNat m 0x39 7 ≠ 0 || fieldNat m 0x18 4 = 0 ||
    1048576 < fieldNat m 0x18 4

set_option maxRecDepth 20000 in
/-- A port at its last connection, and the network function while it is ready; a malformed header; a key that names nothing, a stop set of nine,
a micro-context without a vocabulary, and one with; a message that is dropped. -/
theorem witness_Messages :
    (let s := tHub true { port := 3, index := 65535, kind := 1, data := List.replicate 64 0 }
     s.input.flag = false ∧ s.input.kind ≤ 1 ∧ s.input.value = 0 ∧ s.input.nats = [] ∧ s.input.port ≤ 3 ∧ s.input.index < 65536 ∧ s.input.data.length ≤ 1048576 ∧
       (Sparse.get 0 s.hub.devStatus 0).testBit 2 = true ∧ 64 ≤ s.input.data.length ∧ tMalformed s.input.data = true) ∧
    (let s := tHub true { data := tMessage 64 2 0 }
     64 ≤ s.input.data.length ∧ tMalformed s.input.data = false ∧ s.keyed (fieldNat s.input.data 8 16) = none) ∧
    (let s := tHub true { data := tMessage 64 1 9 }
     tMalformed s.input.data = false ∧ s.keyed (fieldNat s.input.data 8 16) = some 0 ∧ stopsMalformed s.input.data = true) ∧
    (let s := tHub false { data := tMessage 64 1 0 }
     tMalformed s.input.data = false ∧ s.keyed (fieldNat s.input.data 8 16) = some 0 ∧ stopsMalformed s.input.data = false ∧ s.vocabSlot 0 = none) ∧
    (let s := tHub true { data := tMessage 64 1 0 }
     tMalformed s.input.data = false ∧ s.keyed (fieldNat s.input.data 8 16) = some 0 ∧ stopsMalformed s.input.data = false ∧ s.vocabSlot 0 = some 7) ∧
    (let s := tHub true { kind := 2, port := 4, value := 1 }
     s.input.flag = false ∧ 1 < s.input.kind ∧ s.input.value ≠ 0 ∧ 3 < s.input.port ∧ (Sparse.get 0 s.hub.devStatus 0).testBit 2 = true) ∧
    (9000 ∈ (tHub true { nats := [9000, 9001] }).input.nats ∧ ∃ k ∈ (tHub true { nats := [9000, 9001] }).input.nats, 9000 < k) ∧
    65536 ≤ (tHub true { index := 65536 }).input.index ∧
    (Sparse.get 0 State.reset.hub.devStatus 0).testBit 2 = false := by
  refine ⟨by decide, by decide, by decide, by decide, by decide, by decide, by decide, by decide, by decide⟩

/-! An image of no token cuts a text into its bytes -/

theorem cuts_empty (run : List Byte) (n : Nat) (us : List Nat) :
    (List.range (n + 1)).foldl (fun cs i => if i = 0 then cs else match cutAt [] run us (cs.headD 0) i with
      | some c => c :: cs
      | none => cs) [0] = (List.range (n + 1)).reverse := by
  have c : ∀ st i, cutAt [] run us st i = some i := fun st i => by
    simp [cutAt, vocUnit, imgNat, bit, vocPieceMax, leNat]
  induction n with
  | zero => rfl
  | succ n ih => rw [List.range_succ, List.foldl_append, ih]; simp [c]

theorem zip_pieces (run : List Byte) (k : Nat) (m : Nat) (hm : k + m + 1 = run.length) :
    (((List.range' k (m + 1)).zip (List.range' (k + 1) m ++ [run.length])).map fun p => (run.drop p.1).take (p.2 - p.1)) =
      (run.drop k).map fun b => [b] := by
  induction m generalizing k with
  | zero =>
    obtain ⟨b, h⟩ := List.length_eq_one_iff.mp (show (run.drop k).length = 1 by simp; omega)
    have e : run.length - k = 1 := by omega
    simp [List.range', h, e]
  | succ m ih =>
    obtain ⟨b, r, h⟩ : ∃ b r, run.drop k = b :: r := by
      cases h : run.drop k with
      | nil => have := congrArg List.length h; simp at this; omega
      | cons b r => exact ⟨b, r, rfl⟩
    have t : run.drop (k + 1) = r := by rw [← List.drop_drop, h]; rfl
    have e : List.range' (k + 1) (m + 1) ++ [run.length] = (k + 1) :: (List.range' (k + 1 + 1) m ++ [run.length]) := by rw [List.range'_succ]; rfl
    rw [e, List.range'_succ, List.zip_cons_cons, List.map_cons, ih (k + 1) (by omega), h, t]
    simp

theorem hackle_empty (x : List Byte) : (hackle [] x).length = x.length := by
  have special : ∀ y, specialAt [] y = none := fun _ => rfl
  have loop : ∀ n (run y : List Byte), y.length ≤ n → hackleLoop [] n run y = mergeRun [] (run ++ y) := by
    intro n
    induction n with
    | zero => intro run y h; have : y = [] := List.eq_nil_of_length_eq_zero (by omega); subst this; simp [hackleLoop]
    | succ n ih =>
      intro run y h
      cases y with
      | nil => simp [hackleLoop]
      | cons b y => rw [hackleLoop, special]; simp only; rw [ih _ _ (by simpa using h)]; simp
  rw [hackle, loop _ _ _ (Nat.le_refl _), List.nil_append]
  cases x with
  | nil => rfl
  | cons b r =>
    have l : (b :: r).length = r.length + 1 := rfl
    have p : presplit [] (b :: r) = (b :: r).map fun b => [b] := by
      have c : (cuts [] (b :: r)).reverse = List.range' 0 (r.length + 1) :=
        (congrArg List.reverse (cuts_empty (b :: r) r.length _)).trans (by rw [List.reverse_reverse, List.range_eq_range'])
      simp only [presplit, List.isEmpty_cons, Bool.false_eq_true, if_false, c]
      have d : (List.range' 0 (r.length + 1)).drop 1 = List.range' (0 + 1) r.length := by rw [List.range'_succ]; rfl
      rw [d]
      exact zip_pieces (b :: r) 0 r.length (by simp)
    have m : ∀ b, mergePiece [] [b] = [b.toNat] := fun b => by
      simp [mergePiece, vocUnit, imgNat, bit, leNat, unitSyms, vocBfbase, mergeLoop, bestPair]
    rw [mergeRun, p, List.flatMap_map, List.length_flatMap]
    simp [m, Nat.add_comm]

def tRequest1 (message : List Byte) (stage : RequestStage) (tokens : List Nat) : Request := ⟨0, some (.ethernet 3), message, 7, 0, stage, tokens⟩
def tRequests (s : State) (l : List Request) (x : Input) : State := { s with input := x, hub := { s.hub with requests := l } }
theorem tRequest1_text (x : List Byte) (stage : RequestStage) :
    (hackle [] ((tRequest1 (tMessage 64 1 0 ++ x) stage []).message.drop ((tRequest1 (tMessage 64 1 0 ++ x) stage []).field 2 2))).length = x.length := by
  have l : (tMessage 64 1 0).length = 64 := by simp only [tMessage, List.length_append, leBytes_length, List.length_replicate]
  have f : (tRequest1 (tMessage 64 1 0 ++ x) stage []).field 2 2 = 64 := rfl
  rw [f, show (tRequest1 (tMessage 64 1 0 ++ x) stage []).message.drop 64 = x from List.drop_left' l, hackle_empty]

/-- A request to tokenise, one of too many tokens, one tokenised already and one behind another of its queue; a full ring, no queue, a queue whose page is arriving, and room. -/
theorem witness_Requests :
    (let r := tRequest1 (tMessage 64 1 0) .classified []
     let s := tRequests (tHub true {}) [r] {}
     s.hub.requests[s.input.index]? = some r ∧ (hackle (Sparse.get .empty s.hub.vocab r.slot).image (r.message.drop (r.field 2 2))).length ≤ 1048576) ∧
    (let r := tRequest1 (tMessage 64 1 0 ++ List.replicate 1048577 0) .classified []
     let s := tRequests (tHub true {}) [r] {}
     s.hub.requests[s.input.index]? = some r ∧ r.stage = .classified ∧ r.conn = some (.ethernet 3) ∧
       1048576 < (hackle (Sparse.get .empty s.hub.vocab r.slot).image (r.message.drop (r.field 2 2))).length) ∧
    (let r := tRequest1 (tMessage 64 1 0) .tokenised [1]
     let s := tRequests (tHub true {}) [tRequest1 [] .classified [], r] { index := 1 }
     s.hub.requests[s.input.index]? = some r ∧ r.stage ≠ .classified ∧
       ∃ y ∈ s.hub.requests.take s.input.index, y.ctx = r.ctx ∧ ∀ k, y.stage ≠ .appended k) ∧
    (let r := tRequest1 (tMessage 64 1 0) .tokenised [1]
     let s := tRequests (tQueue ⟨0, 16, 0, 0, 4, 12, 0, 0⟩ tJob) [r] {}
     s.hub.requests[s.input.index]? = some r ∧ r.conn = some (.ethernet 3) ∧ s.appendArea r.ctx r.tokens.length = .full ∧
       ¬ ∃ y ∈ s.hub.requests.take s.input.index, y.ctx = r.ctx ∧ ∀ k, y.stage ≠ .appended k) ∧
    (let r := tRequest1 (tMessage 64 1 0) .tokenised [1]
     let s := tRequests (tHub true {}) [r] {}
     s.appendArea r.ctx r.tokens.length = .bad ∧ r.stage = .tokenised) ∧
    (let q := tQueue tWaiting tJob
     let s := { q with dies := [(0, { (q.die 0) with owner := [(0, tOwnedCode), (1, tArriving)] })] }
     s.appendArea 0 1 = .stall) ∧
    (let r := tRequest1 (tMessage 64 1 0) .tokenised [1]
     let s := tRequests (tQueue tWaiting tJob) [r] {}
     s.hub.requests[s.input.index]? = some r ∧ s.appendArea r.ctx r.tokens.length = .ok tWaiting ∧ (s.blk r.ctx 0).testBit 60 = false ∧
       (match s.writeAppend r.ctx tWaiting r.tokens { r.desc with tstart := tWaiting.ttail, tcount := r.tokens.length, reqid := (s.extra r.ctx).reqseq } with
         | .ok _ => true
         | _ => false) = true) := by
  refine ⟨by decide +kernel, ?_, ⟨rfl, by decide, tRequest1 [] .classified [], List.mem_singleton.mpr rfl, rfl, fun _ => by simp [tRequest1]⟩,
    ⟨rfl, rfl, by decide +kernel, ?_⟩, ⟨by decide +kernel, rfl⟩, by decide +kernel, ⟨rfl, by decide +kernel, by decide, by decide +kernel⟩⟩
  · intro r s
    refine ⟨rfl, rfl, rfl, ?_⟩
    rw [show Sparse.get .empty s.hub.vocab r.slot = ⟨2, 0, 0, [], none⟩ from rfl, tRequest1_text, List.length_replicate]
    omega
  · rintro ⟨y, hy, -⟩
    cases hy

def tChunkState (chunkAt : Nat) (chunk : List Byte) : State :=
  let s := tFirm (tIdle 0) { ctx := 0 }
  { s with
    clock := 2048
    hub := { s.hub with streams := [⟨0, some (.ethernet 3), 9, false, none, [], none, 1, 1, 5, [], chunk, chunkAt⟩] } }
/-- The header and the payload of a flit, all of it zero; a flit with them and with the tag `t`. -/
def tCover (h : Nat) : List Byte := leBytes 8 h ++ List.replicate 224 0
def tTagged (h t : Nat) : List Byte := tCover h ++ leBytes 16 t
def tFlit (h t : Nat) : List Byte := tTagged h t ++ Config.crc64 (tTagged h t)
/-- The tag of a run of that flit after a first one. -/
def tTag (h : Nat) : BitVec 128 := Config.linkTag 31 (runCovered [tFlit 0 0] ++ tCover h)
/-- Port 31, a run of one flit under way, at its last sequence number; channel 2 stopped after three flits more, channel 3 at once. -/
def tPort (failures : Nat) (up : Bool) (x : Input) : State :=
  let s := tFirm [] { x with port := 31 }
  { s with hub := { s.hub with ports := [(31, ⟨2, 2 ^ 24 - 1, [tFlit 0 0], failures, up, [], [], [(2, some 3), (3, some 0)], 2 ^ 24 - 1, []⟩)] } }

theorem tCover_length (h : Nat) : (tCover h).length = 232 := by simp only [tCover, List.length_append, leBytes_length, List.length_replicate]
theorem tTagged_length (h t : Nat) : (tTagged h t).length = 248 := by rw [tTagged, List.length_append, tCover_length, leBytes_length]
theorem tFlit_length (h t : Nat) : (tFlit h t).length = 256 := by rw [tFlit, List.length_append, tTagged_length, Config.crc64, leBytes_length]
theorem tFlit_crc (h t : Nat) : Config.crc64 ((tFlit h t).take 248) = (tFlit h t).drop 248 := by
  rw [tFlit, List.take_left' (tTagged_length h t), List.drop_left' (tTagged_length h t)]
theorem tFlit_cover (h t : Nat) : (tFlit h t).take 232 = tCover h := by
  rw [tFlit, tTagged, List.append_assoc, List.take_left' (tCover_length h)]
theorem tFlit_tag (h t : Nat) : ((tFlit h t).drop 232).take 16 = leBytes 16 t := by
  rw [tFlit, tTagged, List.append_assoc, List.drop_left' (tCover_length h), List.take_left' (leBytes_length ..)]
theorem tFlit_header (h t : Nat) : fieldNat (tFlit h t) 0 8 = h % 2 ^ 64 := by
  rw [fieldNat, tFlit, tTagged, tCover, List.drop_zero]
  simp only [List.append_assoc]
  rw [List.take_left' (leBytes_length ..), leNat_leBytes]
  norm_num

/-- The last flit of a run verifies by its tag alone. -/
theorem tFlit_holds (h t : Nat) : runHolds 31 [tFlit 0 0] (tFlit h t) = decide (leBytes 16 (tTag h).toNat = leBytes 16 t) := by
  have c : runCovered ([tFlit 0 0] ++ [tFlit h t]) = runCovered [tFlit 0 0] ++ tCover h := by
    rw [runCovered, List.flatMap_append]; simp only [runCovered, List.flatMap_singleton, tFlit_cover]
  rw [runHolds, c, tFlit_tag]; rfl

/-- A flit of the run's second place, and one that ends the run there. -/
def tSecond : Nat := 2 ^ 24 + (2 ^ 24 - 1)
def tLast : Nat := 2 ^ 30 + tSecond

/-- A flit of the next number, within a run and at its end, with a tag that verifies and with one that fails, after any number of failures; a flit
of another number, and one laid out as none is. -/
theorem witness_Flits :
    (∀ failures up t, ∀ h ∈ [tSecond, tLast], let s := tPort failures up { data := tFlit h t }
     s.input.port < 32 ∧ s.input.kind = 0 ∧ (s.linkPort s.input.port).up = up ∧ (s.linkPort s.input.port).failures = failures ∧
       (s.linkPort s.input.port).run = [tFlit 0 0] ∧ s.input.data.length = 256 ∧ Config.crc64 (s.input.data.take 248) = s.input.data.drop 248 ∧
       fieldNat s.input.data 0 8 % 2 ^ 24 = (s.linkPort s.input.port).expected ∧ (fieldNat s.input.data 0 8).testBit 30 = decide (h = tLast) ∧
       ∀ n ∈ allCores, ∀ j, s.job? n = some j → j.waitsOnPort s.input.port = false) ∧
    flitLegal 1 (tFlit tSecond 0) = true ∧ (∀ t, flitLegal 1 (tFlit tLast t) = true) ∧ flitLegal 1 (tFlit (2 ^ 24 - 1) 0) = false ∧
    runHolds 31 [tFlit 0 0] (tFlit tLast (tTag tLast).toNat) = true ∧ runHolds 31 [tFlit 0 0] (tFlit tLast ((tTag tLast).toNat + 1)) = false ∧
    (let s := tPort 0 true { data := tFlit 5 0 }
     fieldNat s.input.data 0 8 % 2 ^ 24 ≠ (s.linkPort s.input.port).expected) := by
  refine ⟨fun failures up t h hh => ?_, ?_, fun t => ?_, ?_, ?_, ?_, ?_⟩
  · have q : ∀ h ∈ [tSecond, tLast], h % 2 ^ 64 % 2 ^ 24 = 2 ^ 24 - 1 ∧ (h % 2 ^ 64).testBit 30 = decide (h = tLast) := by decide
    refine ⟨(by decide : 31 < 32), rfl, rfl, rfl, rfl, tFlit_length h t, tFlit_crc h t, ?_, ?_, ?_⟩
    · show fieldNat (tFlit h t) 0 8 % 2 ^ 24 = 2 ^ 24 - 1
      rw [tFlit_header, (q h hh).1]
    · show (fieldNat (tFlit h t) 0 8).testBit 30 = _
      rw [tFlit_header, (q h hh).2]
    · intro n _ j hj; cases hj
  · rw [flitLegal, tFlit_header, tFlit_tag]; decide
  · rw [flitLegal, tFlit_header]; rfl
  · rw [flitLegal, tFlit_header]; rfl
  · rw [tFlit_holds]; exact decide_eq_true rfl
  · rw [tFlit_holds]
    refine decide_eq_false fun e => ?_
    have := congrArg leNat e
    rw [leNat_leBytes, leNat_leBytes] at this
    have := (tTag tLast).isLt
    omega
  · show fieldNat (tFlit 5 0) 0 8 % 2 ^ 24 ≠ 2 ^ 24 - 1
    rw [tFlit_header]; decide

/-- A chunk that has waited 2,048 cycles, and one that has not; a payload for a channel that may send, that is being stopped and that has stopped;
payloads taken, pauses that begin and end; a status of the network function's last bit. -/
theorem witness_Ports :
    (let s := tChunkState 0 [7]
     ∃ r, s.stream? 0 = some r ∧ r.chunk ≠ [] ∧ r.chunkAt + 2048 ≤ s.clock + Config.dieOffset s.resets (homeDie 0) ∧ r.oneChunk = false ∧
       r.conn = some (.ethernet 3)) ∧
    (let s := tChunkState (2 ^ 64) [7]
     ∃ r, s.stream? 0 = some r ∧ s.clock + Config.dieOffset s.resets (homeDie 0) < r.chunkAt + 2048) ∧
    (∀ k ∈ [1, 2, 3], ∀ vc ∈ [0, 2, 3], let s := tPort 0 true { kind := k, slot := vc }
     s.input.kind = k ∧ s.input.port < 32 ∧ (s.linkPort s.input.port).up = true ∧
       Sparse.get none (s.linkPort s.input.port).stopping (s.input.slot % 4) = if vc = 0 then none else if vc = 2 then some 3 else some 0) ∧
    ((tPort 0 true { kind := 3, flag := true }).input.flag = true ∧ (tPort 0 true { kind := 3 }).input.flag = false) ∧
    (tFirm [] { index := 2, value := 255 }).input.index ≤ 2 := by
  have small : ∀ r, Config.dieOffset r 0 < 2 ^ 63 := fun r => by simpa [Config.dieOffset] using (Config.dieOffsetBits r 0).isLt
  refine ⟨⟨_, rfl, by simp, Nat.le_add_right 2048 _, rfl, rfl⟩, ⟨_, rfl, ?_⟩, fun k hk vc hv => ?_, by decide, by decide⟩
  · have := small (tChunkState (2 ^ 64) [7]).resets
    show 2048 + Config.dieOffset _ 0 < 2 ^ 64 + 2048
    omega
  · refine ⟨rfl, (by decide : 31 < 32), rfl, ?_⟩
    show Sparse.get none [(2, some 3), (3, some 0)] (vc % 4) = _
    revert vc; decide

/-! The platform -/

/-- An image of a step, its body empty and its signature the vendor's. -/
def tBootHead (n : Nat) : List Byte := leBytes 4 n ++ leBytes 4 (Config.svnMinimum n) ++ leBytes 8 0
def tBootImage (n : Nat) : List Byte :=
  tBootHead n ++ (leBytes 96 (Config.vendorSignature (sha384 (tBootHead n ++ []))).toNat ++ List.replicate 16 0)

theorem tBootHead_length (n : Nat) : (tBootHead n).length = 16 := by simp only [tBootHead, List.length_append, leBytes_length]
theorem tBootImage_length (n : Nat) : (tBootImage n).length = 128 := by
  simp only [tBootImage, List.length_append, tBootHead_length, leBytes_length, List.length_replicate]

theorem imageHolds_tBootImage (n : Nat) (h : n < 2 ^ 32) : imageHolds n (tBootImage n) = true := by
  have hd : (tBootImage n).drop 16 = leBytes 96 (Config.vendorSignature (sha384 (tBootHead n ++ []))).toNat ++ List.replicate 16 0 :=
    List.drop_left' (tBootHead_length n)
  have tk : (tBootImage n).take 16 = tBootHead n := List.take_left' (tBootHead_length n)
  have f0 : fieldNat (tBootImage n) 0 4 = n := by
    rw [fieldNat, tBootImage, tBootHead, List.drop_zero]
    simp only [List.append_assoc]
    rw [List.take_left' (leBytes_length ..), leNat_leBytes, Nat.mod_eq_of_lt (by simpa using h)]
  have f4 : fieldNat (tBootImage n) 4 4 = Config.svnMinimum n := by
    rw [fieldNat, tBootImage, tBootHead]
    simp only [List.append_assoc]
    rw [List.drop_left' (leBytes_length ..), List.take_left' (leBytes_length ..), leNat_leBytes, Nat.mod_eq_of_lt]
    exact (Config.svnBits n).isLt
  have f8 : fieldNat (tBootImage n) 8 8 = 0 := by
    rw [fieldNat, tBootImage, tBootHead]
    simp only [List.append_assoc]
    have e : ∀ l : List Byte, l.drop 8 = (l.drop 4).drop 4 := fun l => by rw [List.drop_drop]
    rw [e, List.drop_left' (leBytes_length ..), List.drop_left' (leBytes_length ..),
      List.take_left' (leBytes_length ..)]
    decide
  have f70 : fieldNat (tBootImage n) 0x70 16 = 0 := by
    rw [fieldNat, show (0x70 : Nat) = 16 + 96 from rfl, ← List.drop_drop, hd, List.drop_left' (leBytes_length ..)]
    decide
  have body : imageBody (tBootImage n) = [] := by rw [imageBody, f8, List.take_zero]
  rw [imageHolds, f0, f4, f8, f70, tBootImage_length, body, hd, tk, List.take_left' (leBytes_length ..), Config.signatureHolds]
  simp

theorem imageHolds_nil : imageHolds 2 [] = false := by simp [imageHolds, fieldNat, leNat]

/-- A module whose boot has come to step `n`, with this record of it. -/
def tBoot (n st : Nat) (alt running : Bool) (x : Input) : State :=
  { State.reset with input := x, platform := { (Platform.reset.recordStep n st alt) with step := n, running := running, flash := [(2 * n, tBootImage n)] } }
def tFound (n st : Nat) (alt : Bool) (found : Nat) : Bool :=
  let p := (tBoot n st alt false {}).platform
  !p.held && !p.recovery && !p.running && decide (n ≤ 9) && decide (recordSeq p.current.1 < 2 ^ 32 - 1) &&
    decide ((if p.stepStatus n = 1 then (if p.stepAlt n then 6 else 3) else p.stepStatus n) = found)

/-- The start; an optional step that failed, from its first image and from its second, the last step among them; one skipped before, one whose
images both failed, one not tried and one whose first image failed; a step that runs from an image that holds, and from none. -/
theorem witness_BootSteps :
    tFound 0 0 false 0 = true ∧ tFound 4 3 false 3 = true ∧ tFound 9 1 true 6 = true ∧ tFound 4 4 false 4 = true ∧ tFound 1 6 true 6 = true ∧
    tFound 1 0 false 0 = true ∧ tFound 5 1 false 3 = true ∧
    (let s := tBoot 3 1 false true { flag := true }
     let p := s.platform
     p.step ≠ 0 ∧ p.running = true ∧ imageHolds p.step (p.image p.step (p.stepAlt p.step)) = true ∧ s.input.flag = true ∧ p.held = false ∧
       p.recovery = false ∧ p.step ≤ 9 ∧ recordSeq p.current.1 < 2 ^ 32 - 1) ∧
    (let s := { tBoot 2 1 true true { flag := false } with platform := { (tBoot 2 1 true true {}).platform with recovery := true } }
     s.input.flag = false ∧ s.platform.recovery = true ∧ s.platform.running = true) ∧
    (let s := { tBoot 2 6 true false { data := tBootImage 2 } with platform := { (tBoot 2 6 true false {}).platform with recovery := true } }
     s.platform.recovery = true ∧ imageHolds s.platform.step s.input.data = true) ∧
    imageHolds 2 (tBoot 2 6 true false {}).input.data = false ∧ (Config.hosted = true ∨ Config.hosted = false) := by
  refine ⟨by decide +kernel, by decide +kernel, by decide +kernel, by decide +kernel, by decide +kernel, by decide +kernel, by decide +kernel, ?_, by decide, ?_,
    imageHolds_nil, by cases Config.hosted <;> simp⟩
  · have r : (tBoot 3 1 false true { flag := true }).platform.stepAlt 3 = false ∧
        recordSeq (tBoot 3 1 false true { flag := true }).platform.current.1 < 2 ^ 32 - 1 := by decide +kernel
    have i : (tBoot 3 1 false true { flag := true }).platform.image 3 false = tBootImage 3 := by
      show (match tBootImage 3 with
        | [] => Config.bootImage 3 false
        | bs => bs) = _
      cases h : tBootImage 3 with
      | nil => have := tBootImage_length 3; rw [h] at this; cases this
      | cons b l => rfl
    refine ⟨by decide, rfl, ?_, rfl, rfl, rfl, by decide, r.2⟩
    show imageHolds 3 ((tBoot 3 1 false true { flag := true }).platform.image 3 ((tBoot 3 1 false true { flag := true }).platform.stepAlt 3)) = true
    rw [r.1, i]
    exact imageHolds_tBootImage 3 (by decide)
  · exact ⟨rfl, imageHolds_tBootImage 2 (by decide)⟩

/-- A core at 112 degrees, at 105 and back at 100. -/
theorem witness_Throttling :
    (let s := tFirm [] { core := 127, value := 112 }
     112 ≤ s.input.value) ∧
    (let s := tFirm [] { core := 0, value := 105 }
     105 ≤ s.input.value ∧ s.input.value < 112) ∧
    (let s := tFirm [] { core := 0, index := 3, value := 100 }
     s.input.value ≤ 100 ∧ ∀ b ∈ (s.core s.input.core).hot, b = s.input.index) := by decide

def tError (s : State) (x : Input) : State := { s with input := x }
def tDirty : CacheLine := ⟨0x20000 / 64, true, none, List.replicate 64 7⟩

set_option maxRecDepth 20000 in
/-- An error of the S engine, in job mode and in its handler, while its record waits and at an `hcall`; one of a move's frames; one that stops a core; one in no world's line; one of each kind that no world owns; one of a channel that a bound
world's pages lie in; a partition that is down, and one that is not. -/
theorem witness_Errors :
    (let s := tError (tState .s tJob) { kind := 0, engine := .s }
     s.job? s.input.core = some tJob ∧ s.input.engine = .s ∧ tJob.hmode = false ∧ tJob.areaPending = false ∧ tJob.atHcall .s = false) ∧
    (tHandler.hmode = true ∧ tHandler.areaPending = false ∧ tHandler.atHcall .hs = false ∧ ({ tHandler with areaPending := true } : Job).areaPending = true ∧
      (tJob.updStream .s fun t => { t with fetched := some 0xC70010000000000000000100 }).atHcall .s = true) ∧
    (let s := tPages [(1, tMoving), (9, tMoving)] [] [.move 1 9 1 0] { kind := 0x03, unit := 0 }
     (s.die 0).work = [.move 1 9 1 0] ∧ s.frameExists 0 1 = true ∧ s.frameExists 0 9 = true ∧ s.input.unit / 2048 = 0 ∧ 1 / 8 = s.input.unit % 2048 ∧
       ∀ b ∈ ({ s with blocks := [] } : State).blocks, s.ctxWid b.1 ∉ s.blastSet 0x03 0) ∧
    (let s := tPages [(0x4001, tMoving), (0, tMoving)] [] [.move 0x4001 0 1 0] { kind := 0x04, unit := 1, va := 2 ^ 46 + 131072 + 64, len := 8 }
     s.frameExists 0 0x4001 = true ∧ s.input.unit / 64 = 0 ∧ inChannel s.input.unit (framePa 0 0x4001) = true ∧
       s.input.va < framePa 0 0x4001 + 131072 ∧ framePa 0 0x4001 < s.input.va + s.input.len ∧ inChannel s.input.unit (framePa 0 0x4002) = false) ∧
    (let s := tError (tState .s tJob) { kind := 1, unit := 0 }
     s.job? s.input.unit = some tJob ∧ s.ctxState 0 ≠ 4 ∧ ∀ d < 8, (s.die d).objects = []) ∧
    (let s := tError { tState .s tJob with dies := [(0, { tDie tJob with slices := [(0, { Slice.idle with lines := [tDirty] })], owner := [] })] }
       { kind := 2, unit := 0, line := 0x20000 / 64, flag := true }
     (∀ b ∈ s.blocks, s.ctxWid b.1 ∉ s.blastSet 0x02 0) ∧ (s.slice 0 0).queues = [] ∧
       (s.slice 0 0).lines.filter (fun l => l.line = s.input.line && l.dirty) = [tDirty]) ∧
    (∀ k ∈ [0x03, 0x04, 0x05, 0x06, 0x20], let s := tError { tState .s tJob with dies := [(0, { tDie tJob with owner := [] })] } { kind := k, unit := 0 }
     ∀ b ∈ s.blocks, s.ctxWid b.1 ∉ s.blastSet k 0) ∧
    (let s := tError (tState .s tJob) { kind := 0x07, unit := 7 }
     ∀ b ∈ s.blocks, s.ctxWid b.1 ∉ s.blastSet 0x07 7) ∧
    (let s := tError { tState .s tJob with dies := [(0, { tDie tJob with owner := [(0x4000, tOwned)] })] } { kind := 0x06, unit := 0 }
     s.blocks = [(0, [(0, 0x4000000100000000)])] ∧ s.ctxState 0 ≠ 5 ∧ s.ctxWid 0 ∈ s.blastSet 0x06 0 ∧ s.coresOf 0 = [0]) ∧
    (let s := { tFirm [] { kind := 0x20, unit := 31 } with platform := { Platform.reset with resets := [⟨0x20, 31⟩] } }
     s.down s.input.kind s.input.unit = true) ∧
    (tFirm [] { kind := 0x20, unit := 31 }).down 0x20 31 = false := by
  refine ⟨by decide, by decide, by decide, by decide, by decide, by decide, by decide, by decide, by decide, by decide, by decide⟩

/-! The machine as a whole -/

/-- A well-formed instruction of each encoding, and a word of each that decodes. -/
theorem witness_DecodeEncode :
    (Instr.add rD).wellFormed = true ∧ (Instr.add rD).source ≠ .event ∧
    (Instr.sliceSkip 4 0 2 1 1).wellFormed = true ∧ (Instr.gjDispatch 31 31 31).wellFormed = true ∧
    decodeSource (.stream .s) 0x01000C28A000C00000000000 = .ok (.add ⟨⟨0, 0⟩, 6, 5, 5, 0, 0, 3⟩) ∧ decodeSource .slice 0x18828001 = .ok (.sliceSkip 4 0 2 1 1) := by
  decide

/-- The small machine with the bytes of a word at the S stream's place. -/
def tFetch (w : Nat) (tlb : List TlbEntry) (owner : List (Nat × Word)) : State :=
  { tState .s tJob with
    mem := Sparse.ofList 0 8 (leBytes 12 w), dies := [(0, { tDie tJob with cores := [(0, { tCore tJob with tlb := tlb })], owner := owner })] }
def tAdd : Nat := 0x01000C28A000C00000000000
def tCodePage : TlbEntry := ⟨0, 0x20000, 17, 0, 4, 4, 0, [], false⟩

/-- A job whose stream is at a header; at a fetched word, that decodes, that does not, a `rep` that no word follows and one before a page that stalls,
and that is repeated; at a word that its memory gives, that
stalls, and that cannot be reached; a stream that may not issue; a slice, a service core and an event; a module that is held. -/
theorem witness_StepRunsTheInstruction :
    (let j := { tJob with streams := .all { tStream with header := none } }
     (tState .s j).platform.held = false ∧ (tState .s j).platform.lets (tState .s j).turn = true ∧ (tState .s j).turn = .stream 0 .s ∧ (tState .s j).job? 0 = some j ∧ j.mayIssue .s = true ∧
       (j.stream .s).header = none) ∧
    (let j := { tJob with streams := .all { tStream with fetched := some (BitVec.ofNat 96 tAdd) } }
     j.mayIssue .s = true ∧ (j.stream .s).header ≠ none ∧ (j.stream .s).fetched = some (BitVec.ofNat 96 tAdd) ∧
       decode Sel.s.engine (BitVec.ofNat 96 tAdd).toNat = .ok (.add ⟨⟨0, 0⟩, 6, 5, 5, 0, 0, 3⟩)) ∧
    (let j := { tJob with streams := .all { tStream with fetched := some (BitVec.ofNat 96 (tAdd + 1)) } }
     j.mayIssue .s = true ∧ (j.stream .s).fetched = some (BitVec.ofNat 96 (tAdd + 1)) ∧ j.trapHeld .s = false ∧
       (match decode Sel.s.engine (BitVec.ofNat 96 (tAdd + 1)).toNat with
       | .error _ => true
       | .ok _ => false) = true ∧ (tState .s j).afterRep .s j (BitVec.ofNat 96 (tAdd + 1)) = .word 0) ∧
    (let w : IWord := BitVec.ofNat 96 (0xF00000000822000000000000 + 1)
     let j := { tJob with streams := .all { tStream with fetched := some w } }
     let two := { tJob with streams := .all { tTwo with fetched := some w } }
     (match decode .v w.toNat with
       | .error _ => true
       | .ok _ => false) = true ∧ j.repValid = false ∧ (tState .v j).afterRep .v j w = .bad ∧
       ({ tState .v two with dies := [(0, { tDie two with owner := [(0, 0x8200000010000003)] })] } : State).afterRep .v two w = .stall 0x20014) ∧
    (let j := { tJob with repValid := true, streams := .all { tStream with fetched := some 0 } }
     j.mayIssue .v = true ∧ (j.stream .v).fetched = some 0 ∧ j.repValid = true) ∧
    (let s := tFetch tAdd [tCodePage] [(0, tOwnedCode)]
     s.job? 0 = some tJob ∧ (tJob.stream .s).fetched = none ∧ s.fetch tJob 0x20008 12 = .ok (leBytes 12 tAdd)) ∧
    (let s := tFetch tAdd [tCodePage] [(0, 0x8200000010000003)]
     s.fetch tJob 0x20008 12 = .stall 0x20008) ∧
    (let s := tFetch tAdd [] []
     (match s.fetch tJob 0x20008 12 with
       | .trap _ _ _ => true
       | _ => false) = true) ∧
    ({ tJob with frozen := true } : Job).mayIssue .s = false ∧
    (let y : Slice := { Slice.idle with rm := { tMachine 0 with word := some 0x08000000 } }
     let s := { State.reset with platform := { Platform.reset with step := 4 }, turn := .slice 7 31, dies := [(7, { Die.reset with slices := [(31, y)] })] }
     s.turn = .slice 7 31 ∧ s.platform.lets s.turn = true ∧ (s.slice 7 31).rm.active = some 0 ∧ (s.slice 7 31).rm.word = some 0x08000000 ∧ decodeSlice 0x08000000 = .ok (.sliceDone 0)) ∧
    (let s := { State.reset with platform := { Platform.reset with step := 6 }, turn := .service 15, hub := { State.reset.hub with services := [(15, { ServiceCore.reset with words := [(0, 0x0073028B)] })] } }
     s.turn = .service 15 ∧ s.platform.lets s.turn = true ∧ decodeService (Sparse.get 0 (s.service 15).words (s.service 15).pc).toNat = .ok (.gjDispatch 5 6 7)) ∧
    ({ State.reset with turn := .service 0 } : State).platform.lets (.service 0) = false ∧
    (let s := { State.reset with platform := { Platform.reset with held := true }, schedule := [.service 0] }
     s.platform.held = true ∧ s.turn = .event .bootStep {} ∧ s.schedule = .service 0 :: [] ∧ ∀ d k, s.turn ≠ .slice d k) := by
  refine ⟨by decide, by decide, by decide, by decide, by decide, by decide, by decide, by decide, by decide, by decide, by decide, by decide,
    ⟨rfl, rfl, rfl, fun _ _ h => ?_⟩⟩
  cases h

/-- The small machine's memory is canonical, and its step answers a next state; it may run safely. -/
theorem witness_MemoryStaysCanonical :
    Memory.wf (tState .s tJob).mem = true ∧ (∃ t, step (tState .s tJob) = .next t) ∧ (tState .s tJob).safe = true := by
  refine ⟨by decide, ⟨_, rfl⟩, by decide⟩

/-- A service core at a word the spec does not describe, and a turn of a core the module does not have. -/
theorem witness_EveryInstructionAnswers :
    let up : State := { State.reset with platform := { Platform.reset with step := 10 } }
    (∃ r, step { up with turn := .service 0 } = .refused r) ∧ ∃ f, step { up with turn := .stream 128 .s } = .fault f :=
  ⟨⟨_, rfl⟩, ⟨_, rfl⟩⟩

/-! Well-formedness: for every check, a term that it refuses and that no other check does -/

/-- The fields have no fate of R52, and the check of the form refuses them. -/
def refusedForm (i : Instr) : Bool := i.fates.isEmpty && !i.wellFormed

theorem test_ill_formed_forms :
    refusedForm (.lpentReg { zSI with a := 0 }) = true ∧ refusedForm (.lpentImm { zSI with a := 1 }) = true ∧
    refusedForm (.lpentImm { zSI with imm := 0x800000000000 }) = true ∧ refusedForm (.lpentTable { zSI with imm := 0 }) = true ∧
    refusedForm (.semwReg { zSX with a := 1, ord := 1 }) = true ∧
    refusedForm (.semwImm { zSX with a := 1, b := 1, ord := 1 }) = true ∧ refusedForm (.semsReg { zSX with a := 1, ord := 2 }) = true ∧
    refusedForm (.semsImm { zSX with a := 1, b := 1, ord := 2 }) = true ∧ refusedForm (.qwait { zSX with imm := 1 }) = true ∧
    refusedForm (.qwaitTimeout zSX) = true ∧ refusedForm (.mtsr { zSX with idx := 7 }) = true ∧ refusedForm (.trapctlWrite { zSX with idx := 8 }) = true ∧
    refusedForm (.engineSharedRegisterWrite { zSX with idx := 7 }) = true ∧ refusedForm (.calcfgWrite { zSX with idx := 0x105 }) = true ∧
    refusedForm (.calcmdClr { zSX with idx := 0x100 }) = true ∧ refusedForm (.perfselWrite { zSX with idx := 7 }) = true := by decide

theorem test_ill_formed_moves :
    refusedForm (.kmovFromScalar { zVR with va := 1 }) = true ∧
    refusedForm (.kmovToScalar { zVR with va := 1 }) = true ∧ refusedForm (.mstTile { zMA with acc2 := 1, ty := 0x10 }) = true ∧
    refusedForm (.mstScratchpad { zMA with acc2 := 0, ty := 0x10 }) = true ∧ refusedForm (.mldTile { zMA with acc2 := 1, ty := 0x10 }) = true ∧
    refusedForm (.mldScratchpad { zMA with acc2 := 0, ty := 0x10 }) = true ∧
    refusedForm (.unassignedOpcode .s (BitVec.ofNat 96 tAdd)) = true ∧ refusedForm (.sliceSkip 4 0 2 1 0) = true ∧
    refusedForm (.sliceLld 1 3 0 4) = true ∧ refusedForm (.sliceLst 1 2 2) = true := by decide

/-- Fields with a fate: a register in a field the word does not use, a source no predicate move has, an address and a table, an order a wait does
not take. -/
theorem test_ill_formed_fates : (Instr.add { rD with c := 3 }).wellFormed = false ∧ (Instr.kmov { zVR with va := 48 }).wellFormed = false ∧
    (Instr.lpentTable { zSI with a := 1, imm := 0x800000000000 }).wellFormed = false ∧ (Instr.semwReg { zSX with a := 1, b := 1 }).wellFormed = false := by decide

/-! One step of a few instructions, their results by hand from the spec's rules -/

/-- Scalar `n` of core 0's job after an instruction. -/
def tScalar (i : Instr) (j : Job) (n : Nat) : Option Nat :=
  match exec i (tState .s j) with
  | .next t => (t.job? 0).map fun j => (j.rs n).toNat
  | _ => none

-- 04_scalar_registers.md, ADD: the sum of 2^64 - 1 and 5 wraps to 4
theorem test_add_wraps : tScalar (.add rD) { tJob with s := [(1, 0xFFFFFFFFFFFFFFFF), (2, 5)] } 4 = some 4 := by decide
-- 04_scalar_registers.md, CLZ and CTZ: 0x40000 has one bit set, bit 18
theorem test_clz : tScalar (.clz rA) tJob 4 = some 45 := by decide
theorem test_ctz : tScalar (.ctz rA) tJob 4 = some 18 := by decide
-- 08_memories.md, LD: the data page's first byte is 0x5A
theorem test_ld_byte : tScalar (.ld { zSM with d := 4, a := 1, ty := 0, ord := 1, scope := 1 }) tJob 4 = some 0x5A := by decide

end Sys2Proof.Tests
end

/-! # The scalar registers (04_scalar_registers.md): bit counts and fields (R99, R100), branches (R103 to R105) -/

namespace Sys2Proof.Proofs
open Sys2Proof.Machine

/-! ## Bit counts and bit fields -/

/-- What an SR word of one operand and the width writes at issue: its operation on the low bits of `s[A]`. -/
theorem runArith_nat1_atIssue {s : State} {n : Nat} {sel : Sel} {j : Job} {i : Instr} {f : SR} (op : Nat → Nat → Nat)
    (h : AtIssue s n sel j i f.g [f.d.toNat, f.a.toNat, f.b.toNat, f.c.toNat] [f.pd.toNat]) :
    runArith i f s (nat1 op) = .next (s.issued n sel (j.ws f.d.toNat (typedWrite f.ty
      (op (typeWidth f.ty) ((j.rs f.a.toNat).setWidth (typeWidth f.ty)).toNat : Nat)))) :=
  runArith_atIssue (nat1 op) h (by rw [nat1, intWidth_typeWidth, srcNat_setWidth])

/-- `bext` at issue writes the field of `s[A]`, extended as the type says. -/
theorem exec_bext_atIssue {s : State} {n : Nat} {sel : Sel} {j : Job} {f : SR}
    (h : AtIssue s n sel j (.bext f) f.g [f.d.toNat, f.a.toNat, f.b.toNat, f.c.toNat] [f.pd.toNat]) :
    exec (.bext f) s = .next (s.issued n sel (j.ws f.d.toNat (typedWrite f.ty
      (bextInt f.ty.toNat (j.rs f.a.toNat) (j.rs f.b.toNat).toNat (j.rs f.c.toNat).toNat)))) :=
  runArith_atIssue (fun t a b c => bextInt t a b.toNat c.toNat) h rfl

/-- `bins` at issue writes the old `s[D]` with the field put in. -/
theorem exec_bins_atIssue {s : State} {n : Nat} {sel : Sel} {j : Job} {f : SR}
    (h : AtIssue s n sel j (.bins f) f.g [f.d.toNat, f.a.toNat, f.b.toNat, f.c.toNat] []) :
    exec (.bins f) s = .next (s.issued n sel (j.ws f.d.toNat (typedWrite f.ty
      (binsNat f.ty.toNat (j.rs f.d.toNat) (j.rs f.a.toNat) (j.rs f.b.toNat).toNat (j.rs f.c.toNat).toNat : Nat)))) := by
  rw [← destWord_typedWrite]
  exact runJob_atIssue h _

/-- Settles O2: the four shared runs above, with what each count and each field holds from the laws of the S engine's integers. -/
theorem scalarBits : Obligations.ScalarBits := by
  unfold Obligations.ScalarBits
  refine ⟨fun s n sel j f => ⟨fun h => ?clz, fun h => ?ctz, fun h => ?popc⟩, fun s n sel j f => ⟨fun h => ?bext, fun h => ?bins⟩⟩
  case clz =>
    obtain ⟨hle, hzero, hone⟩ := clzNat_spec _ ((j.rs f.a.toNat).setWidth (typeWidth f.ty))
    exact ⟨_, hle, runArith_nat1_atIssue clzNat h, hzero, hone⟩
  case ctz =>
    obtain ⟨hle, hzero, hone⟩ := ctzNat_spec _ ((j.rs f.a.toNat).setWidth (typeWidth f.ty))
    exact ⟨_, hle, runArith_nat1_atIssue ctzNat h, hzero, hone⟩
  case popc =>
    rw [← popcNat_countP]
    exact runArith_nat1_atIssue popcNat h
  case bext =>
    rw [← bextInt_spec]
    exact exec_bext_atIssue h
  case bins =>
    have hlt := binsNat_lt f.ty.toNat (j.rs f.d.toNat) (j.rs f.a.toNat) (j.rs f.b.toNat).toNat (j.rs f.c.toNat).toNat
    rw [intWidth_typeWidth] at hlt
    refine ⟨BitVec.ofNat _ (binsNat f.ty.toNat (j.rs f.d.toNat) (j.rs f.a.toNat) (j.rs f.b.toNat).toNat (j.rs f.c.toNat).toNat),
      ?_, fun k hk => binsNat_spec f.ty _ _ _ _ k hk⟩
    rw [BitVec.toNat_ofNat, Nat.mod_eq_of_lt hlt]
    exact exec_bins_atIssue h

/-! ## Section headers by their bits (R42, R44) -/

theorem headerIllegal_iff (h : Nat) : headerIllegal h = true ↔
    h / 2 ^ 60 % 16 ≠ 15 ∨ (h.testBit 1 ∧ ¬ h.testBit 2) ∨ (h.testBit 2 ∧ h.testBit 0) := by
  simp [headerIllegal, hMarker, hK, hL, hE, bits, bit, Nat.shiftRight_eq_div_pow, or_assoc]

theorem hLength_eq (h : Nat) : hLength h = if h / 2 ^ 52 % 256 = 0 then 256 else h / 2 ^ 52 % 256 := by
  simp [hLength, bits, Nat.shiftRight_eq_div_pow]

/-! ## Branches -/

section
variable {i : Instr} {s : State} {n : Nat} {sel : Sel} {j : Job} {t link : Nat}

theorem branchTo_misaligned (ht : t % 4 ≠ 0) : branchTo i s n sel j t link = .trap (trap 0x06 t 0) s := by
  simp [branchTo, ht]

theorem branchTo_fetchTrap (ht : t % 4 = 0) {c a x : Nat} (hf : s.fetch j t 8 = .trap c a x) :
    branchTo i s n sel j t link = .trap (trap c t x) s := by
  simp [branchTo, ht, hf]

theorem branchTo_fetchStall (ht : t % 4 = 0) {a : Nat} (hf : s.fetch j t 8 = .stall a) :
    branchTo i s n sel j t link = .stall a .fetch := by
  simp [branchTo, ht, hf]

/-- Once the header at its target is fetched, a branch goes by that header and by the one it stands in (R103, R104). -/
theorem branchTo_fetched (ht : t % 4 = 0) {bs : List Byte} (hf : s.fetch j t 8 = .ok bs) :
    branchTo i s n sel j t link =
      if headerIllegal (leNat bs) then .trap (wordTrap 0x01 t i) (s.fetchLines j t 8)
      else if hL (leNat bs) || hL ((j.stream sel).header.getD 0).toNat then .trap (wordTrap 0x03 t i) (s.fetchLines j t 8)
      else .jump ((s.fetchLines j t 8).setJob n (j.ws link
        (BitVec.ofNat 64 (nextHeader (j.stream sel).hdr ((j.stream sel).header.getD 0).toNat)))) t := by
  unfold branchTo
  rw [if_neg (not_not.2 ht), hf]

/-- A word at issue that jumps leaves the state its body made, branched to its target. -/
theorem runWord_jumpFrom {g : Guard} {regs preds : List Nat} {body : Nat → Sel → Job → Act} (h : AtIssue s n sel j i g regs preds)
    {s1 : State} {k : Job} (hb : body n sel j = .jump (s1.setJob n k) t) :
    runWord i g regs preds s body = .next (s1.branched n sel k t) := by
  rw [runWord_atIssue h, hb]
  simp [State.branched]

end

/-- The four branch words run alike: the word, the scalars it names, its target and the register of its link (R103). -/
theorem exec_branch {s : State} {n : Nat} {sel : Sel} {j : Job} {f : SI} {i : Instr} {regs : List Nat} {target : Word} {link : Nat}
    (h : (i, regs, target, link) ∈
      [(Instr.br f, [], BitVec.ofNat 64 (j.stream sel).hdr + f.imm.signExtend 64, 0),
        (.brx f, [f.a.toNat], j.rs f.a.toNat + f.imm.signExtend 64, 0),
        (.call f, [f.d.toNat], BitVec.ofNat 64 (j.stream sel).hdr + f.imm.signExtend 64, f.d.toNat),
        (.ret f, [f.a.toNat], j.rs f.a.toNat, 0)]) :
    ∃ body, exec i s = runWord i f.g regs [] s body ∧ body n sel j = branchTo i s n sel j target.toNat link := by
  simp only [List.mem_cons, Prod.mk.injEq, List.not_mem_nil, or_false] at h
  rcases h with ⟨rfl, rfl, rfl, rfl⟩ | ⟨rfl, rfl, rfl, rfl⟩ | ⟨rfl, rfl, rfl, rfl⟩ | ⟨rfl, rfl, rfl, rfl⟩
  all_goals exact ⟨_, rfl, rfl⟩

/-- Settles O5: `branchTo` by its cases, each taken through the run of a word at issue. -/
theorem branches : Obligations.Branches := by
  unfold Obligations.Branches
  intro s n sel j f i regs target link st here imm t length illegal traps hword hat hheld
  obtain ⟨body, hexec, hbody⟩ := exec_branch (s := s) hword
  rw [hexec]
  refine ⟨fun hmis => runWord_trap hat hheld (hbody.trans (branchTo_misaligned hmis)), fun hal => ⟨?_, ?_, ?_⟩⟩
  · exact fun c a x hf => runWord_trap hat hheld (hbody.trans (branchTo_fetchTrap hal hf))
  · exact fun a hf => runWord_stall hat (hbody.trans (branchTo_fetchStall hal hf))
  intro bs hf s1 fails
  refine ⟨fun hi => ?illegal, fun hi hl => ?loop, fun hi hl hc => ?taken⟩
  case illegal =>
    exact runWord_trap hat hheld (by rw [hbody, branchTo_fetched hal hf, if_pos ((headerIllegal_iff _).2 hi)])
  case loop =>
    have hloop : (hL (leNat bs) || hL here) = true := Bool.or_eq_true_iff.2 hl
    exact runWord_trap hat hheld (by
      rw [hbody, branchTo_fetched hal hf, if_neg (mt (headerIllegal_iff _).1 hi), if_pos hloop])
  case taken =>
    have hplain : ¬ (hL (leNat bs) || hL here) = true := fun h => (Bool.or_eq_true_iff.1 h).elim hl hc
    exact runWord_jumpFrom hat (by
      rw [hbody, branchTo_fetched hal hf, if_neg (mt (headerIllegal_iff _).1 hi), if_neg hplain, nextHeader, hLength_eq])

end Sys2Proof.Proofs

/-! # The vector registers (05_vector_registers.md): scratchpad and tile moves (R141 to R144) -/

namespace Sys2Proof.Proofs
open Sys2Proof.Machine

/-! ## Fields of a number: what writing one leaves of the others -/

/-- The `w` bits of `t` from bit `b` up: what `lane` and `gridElem` read. -/
def fieldAt (w t b : Nat) : Nat := (t >>> b) % 2 ^ w

/-- `t` with the `w` bits from bit `b` up replaced by `x`: the step of `putLanes` and of `tileStore`. -/
def putField (w t b x : Nat) : Nat := t - fieldAt w t b * 2 ^ b + x * 2 ^ b

/-- The fields at `pos e` written with `val e`, for every `e` of a list in its order. -/
def putFields (w t : Nat) (pos val : Nat → Nat) (es : List Nat) : Nat :=
  es.foldl (fun t e => putField w t (pos e) (val e)) t

/-- Two runs of `w` units from `a` and from `b` up have none in common. -/
def Apart (w a b : Nat) : Prop := a + w ≤ b ∨ b + w ≤ a

theorem putField_eq (w t b x : Nat) : putField w t b x = 2 ^ b * (2 ^ w * (t / 2 ^ (b + w)) + x) + t % 2 ^ b := by
  have hq : 2 ^ w * (t / 2 ^ (b + w)) + t / 2 ^ b % 2 ^ w = t / 2 ^ b := by
    rw [pow_add, ← Nat.div_div_eq_div_mul]; exact Nat.div_add_mod ..
  have ht : 2 ^ b * (2 ^ w * (t / 2 ^ (b + w))) + 2 ^ b * (t / 2 ^ b % 2 ^ w) + t % 2 ^ b = t := by
    rw [← Nat.mul_add, hq, Nat.div_add_mod]
  rw [putField, fieldAt, Nat.shiftRight_eq_div_pow, Nat.mul_add, Nat.mul_comm _ (2 ^ b), Nat.mul_comm x]
  omega

theorem fieldAt_putField_same {w t b x : Nat} (hx : x < 2 ^ w) : fieldAt w (putField w t b x) b = x := by
  rw [putField_eq, fieldAt, Nat.shiftRight_eq_div_pow, Nat.mul_add_div (Nat.two_pow_pos b),
    Nat.div_eq_of_lt (Nat.mod_lt t (Nat.two_pow_pos b)), Nat.add_zero, Nat.mul_add_mod, Nat.mod_eq_of_lt hx]

/-- A field reads the same from the low bits that hold it. -/
theorem fieldAt_mod {w t b N : Nat} (h : b + w ≤ N) : fieldAt w (t % 2 ^ N) b = fieldAt w t b := by
  apply Nat.eq_of_testBit_eq
  intro k
  by_cases hk : k < w
  · simp [fieldAt, hk, show b + k < N by omega]
  · simp [fieldAt, hk]

/-- A field reads the same from the bits above any that lie below it. -/
theorem fieldAt_div {w t b N : Nat} (h : N ≤ b) : fieldAt w (t / 2 ^ N) (b - N) = fieldAt w t b := by
  rw [fieldAt, fieldAt, ← Nat.shiftRight_eq_div_pow, ← Nat.shiftRight_add, Nat.add_sub_cancel' h]

theorem fieldAt_putField_apart {w t b c x : Nat} (hx : x < 2 ^ w) (h : Apart w b c) :
    fieldAt w (putField w t b x) c = fieldAt w t c := by
  rcases h with h | h
  case inl =>
    have hhigh : putField w t b x / 2 ^ (b + w) = t / 2 ^ (b + w) := by
      rw [putField_eq, pow_add, ← Nat.div_div_eq_div_mul, Nat.mul_add_div (Nat.two_pow_pos b),
        Nat.div_eq_of_lt (Nat.mod_lt t (Nat.two_pow_pos b)), Nat.add_zero, Nat.mul_add_div (Nat.two_pow_pos w),
        Nat.div_eq_of_lt hx, Nat.add_zero]
    rw [← fieldAt_div h, hhigh, fieldAt_div h]
  case inr =>
    have hlow : putField w t b x % 2 ^ b = t % 2 ^ b := by rw [putField_eq, Nat.mul_add_mod, Nat.mod_mod]
    rw [← fieldAt_mod h, hlow, fieldAt_mod h]

/-- After several fields have been written, one that is apart from the others holds its own value if it was among them. -/
theorem fieldAt_putFields {w : Nat} {pos val : Nat → Nat} {es : List Nat} {e : Nat} (hval : ∀ a, val a < 2 ^ w)
    (hapart : ∀ a ∈ es, a ≠ e → Apart w (pos a) (pos e)) (t : Nat) :
    fieldAt w (putFields w t pos val es) (pos e) = if e ∈ es then val e else fieldAt w t (pos e) := by
  induction es generalizing t with
  | nil => rfl
  | cons a es ih =>
    have hrest := ih (fun x hx => hapart x (List.mem_cons_of_mem a hx)) (putField w t (pos a) (val a))
    rw [putFields, List.foldl_cons, ← putFields, hrest]
    by_cases ha : a = e
    · subst ha
      simp [fieldAt_putField_same (hval a)]
    · rw [fieldAt_putField_apart (hval a) (hapart a List.mem_cons_self ha)]
      simp [Ne.symm ha]

/-- A field that lies within the width of a register is the same once the number stands in it. -/
theorem fieldAt_ofNat {w t b N : Nat} (h : b + w ≤ N) : fieldAt w (BitVec.ofNat N t).toNat b = fieldAt w t b := by
  rw [BitVec.toNat_ofNat, fieldAt_mod h]

theorem lane_lt (w v e : Nat) : lane w v e < 2 ^ w := Nat.mod_lt _ (Nat.two_pow_pos w)

/-- Lanes laid out one after another read back, each modulo its width. -/
theorem lane_packLanes {w : Nat} {xs : List Nat} {e : Nat} (he : e < xs.length) : lane w (packLanes w xs) e = xs[e] % 2 ^ w := by
  induction xs generalizing e with
  | nil => simp at he
  | cons x xs ih =>
    have hx : x % 2 ^ w < 2 ^ w := Nat.mod_lt _ (Nat.two_pow_pos w)
    rw [packLanes, List.map_cons, packBits, ← packLanes]
    cases e with
    | zero => simp [lane]
    | succ e =>
      have hdrop : (x % 2 ^ w + 2 ^ w * packLanes w xs) / 2 ^ w = packLanes w xs := by
        rw [Nat.add_mul_div_left _ _ (Nat.two_pow_pos w), Nat.div_eq_of_lt hx, Nat.zero_add]
      have hlane : lane w (x % 2 ^ w + 2 ^ w * packLanes w xs) (e + 1) = lane w (packLanes w xs) e := by
        rw [lane, Nat.mul_succ, Nat.add_comm (w * e), Nat.shiftRight_add, Nat.shiftRight_eq_div_pow _ w, hdrop, lane]
      rw [hlane, ih (Nat.lt_of_succ_lt_succ he), List.getElem_cons_succ]

/-- Pairs put in lanes: a listed lane holds its value modulo the width, another what it held. -/
theorem lane_putLanes (w v : Nat) (val : Nat → Nat) (es : List Nat) (e : Nat) :
    lane w (putLanes w v (es.map fun e => (e, val e))) e = if e ∈ es then val e % 2 ^ w else lane w v e := by
  have hfold : putLanes w v (es.map fun e => (e, val e)) = putFields w v (w * ·) (val · % 2 ^ w) es := List.foldl_map
  rw [hfold]
  refine fieldAt_putFields (pos := (w * ·)) (val := (val · % 2 ^ w)) (fun a => Nat.mod_lt _ (Nat.two_pow_pos w)) (fun a _ ha => ?_) v
  rcases Nat.lt_or_gt_of_ne ha with h | h
  · exact .inl (Nat.mul_succ w a ▸ Nat.mul_le_mul_left w h)
  · exact .inr (Nat.mul_succ w e ▸ Nat.mul_le_mul_left w h)

/-! ## Bytes of the scratchpad: a run read after a run has been written -/

/-- The bytes of a list, laid out from key `k` up, put together again. -/
theorem foldl_or_ofList (bs : List Byte) (k acc : Nat) :
    (Sparse.ofList 0#8 k bs).foldl (fun acc p => acc ||| (p.2.toNat <<< (8 * p.1))) acc = acc ||| (leNat bs <<< (8 * k)) := by
  induction bs generalizing k acc with
  | nil => simp [Sparse.ofList, leNat]
  | cons b bs ih =>
    have hjoin : leNat (b :: bs) <<< (8 * k) = b.toNat <<< (8 * k) ||| leNat bs <<< (8 * (k + 1)) := by
      rw [show 8 * (k + 1) = 8 + 8 * k by ring, Nat.shiftLeft_add, ← Nat.shiftLeft_or_distrib, Nat.or_comm,
        ← Nat.shiftLeft_add_eq_or_of_lt b.isLt, Nat.shiftLeft_eq (leNat bs), leNat]
      congr 1
      omega
    rw [hjoin, Sparse.ofList]
    split
    · simp_all
    · rw [List.foldl_cons, ih, Nat.or_assoc]

/-- The key lies in the `n` from `a` up. -/
def keyIn {α : Type} (a n : Nat) (p : Nat × α) : Bool := decide (a ≤ p.1) && decide (p.1 < a + n)

theorem keyIn_iff {α : Type} {a n : Nat} {p : Nat × α} : keyIn a n p = true ↔ a ≤ p.1 ∧ p.1 < a + n := by simp [keyIn]

theorem window_eq {α : Type} (m : Sparse α) (a n : Nat) :
    Sparse.window m a n = (m.filter (keyIn a n)).map fun p => (p.1 - a, p.2) := rfl

/-- What replaces a range has its keys there. -/
theorem keyIn_of_mem_shifted {α : Type} {c : Sparse α} {a n : Nat} {p : Nat × α}
    (h : p ∈ (c.filter fun p => decide (p.1 < n)).map fun p => (p.1 + a, p.2)) : keyIn a n p = true := by
  obtain ⟨q, hq, rfl⟩ := List.mem_map.1 h
  have hkey : q.1 < n := by simpa using (List.mem_filter.1 hq).2
  exact keyIn_iff.2 ⟨Nat.le_add_left .., by simp only; omega⟩

/-- Two tests that no entry passes both leave none. -/
theorem filter_filter_nil {β : Type} {P Q : β → Bool} (h : ∀ p, P p = true → ¬ Q p = true) (m : List β) : (m.filter P).filter Q = [] :=
  List.filter_eq_nil_iff.2 fun p hp => h p (List.mem_filter.1 hp).2

/-- A test that implies another picks the same entries after it. -/
theorem filter_filter_of_imp {β : Type} {P Q : β → Bool} (h : ∀ p, Q p = true → P p = true) (m : List β) :
    (m.filter P).filter Q = m.filter Q := by
  rw [List.filter_filter]
  exact List.filter_congr fun p _ => by rw [Bool.and_eq_left_iff_imp]; exact h p

/-- A range that has been replaced holds what replaced it. -/
theorem window_overlay_same {α : Type} (m c : Sparse α) (a n : Nat) :
    Sparse.window (Sparse.overlay m a n c) a n = c.filter (fun p => p.1 < n) := by
  rw [window_eq, Sparse.overlay, List.filter_append, List.filter_append, List.filter_eq_self.2 fun p => keyIn_of_mem_shifted,
    filter_filter_nil (by simp only [keyIn_iff, decide_eq_true_eq]; omega),
    filter_filter_nil (by simp only [keyIn_iff, decide_eq_true_eq]; omega)]
  simp [Function.comp_def]

/-- A range apart from one that has been replaced holds what it held. -/
theorem window_overlay_apart {α : Type} (m c : Sparse α) {a n b k : Nat} (h : b + k ≤ a ∨ a + n ≤ b) :
    Sparse.window (Sparse.overlay m a n c) b k = Sparse.window m b k := by
  have hmid : ((c.filter fun p => decide (p.1 < n)).map fun p => (p.1 + a, p.2)).filter (keyIn b k) = [] :=
    List.filter_eq_nil_iff.2 fun p hp hkey => by
      have := keyIn_iff.1 (keyIn_of_mem_shifted hp)
      have := keyIn_iff.1 hkey
      omega
  rw [window_eq, window_eq, Sparse.overlay, List.filter_append, List.filter_append, hmid, List.append_nil]
  rcases h with h | h
  case inl =>
    rw [filter_filter_nil (Q := keyIn b k) (P := fun p => decide (a + n ≤ p.1)) (by simp only [keyIn_iff, decide_eq_true_eq]; omega),
      filter_filter_of_imp (by simp only [keyIn_iff, decide_eq_true_eq]; omega), List.append_nil]
  case inr =>
    rw [filter_filter_nil (Q := keyIn b k) (P := fun p => decide (p.1 < a)) (by simp only [keyIn_iff, decide_eq_true_eq]; omega),
      filter_filter_of_imp (by simp only [keyIn_iff, decide_eq_true_eq]; omega), List.nil_append]

theorem key_lt_of_mem_ofList {α : Type} [DecidableEq α] {d : α} {xs : List α} {a : Nat} {p : Nat × α}
    (hp : p ∈ Sparse.ofList d a xs) : p.1 < a + xs.length := by
  induction xs generalizing a with
  | nil => simp [Sparse.ofList] at hp
  | cons x xs ih =>
    have hstep : p ∈ Sparse.ofList d (a + 1) xs → p.1 < a + (xs.length + 1) := fun h => by have := ih h; omega
    rw [Sparse.ofList] at hp
    split at hp
    · exact hstep hp
    · rcases List.mem_cons.1 hp with rfl | hp
      · simp
      · exact hstep hp

/-- The bytes just written, read as a number. -/
theorem regionNat_blit_same (m : Sparse Byte) (a : Nat) (bs : List Byte) : regionNat (Sparse.blit 0#8 m a bs) a bs.length = leNat bs := by
  have hall : (Sparse.ofList 0#8 0 bs).filter (fun p => decide (p.1 < bs.length)) = Sparse.ofList 0#8 0 bs :=
    List.filter_eq_self.2 fun p hp => by simpa using key_lt_of_mem_ofList hp
  rw [regionNat, Sparse.blit, window_overlay_same, hall, foldl_or_ofList]
  simp

@[simp] theorem padNat_padWrite_same (j : Job) (o size x : Nat) : (j.padWrite o (leBytes size x)).padNat o size = x % 256 ^ size := by
  have h := regionNat_blit_same j.pad o (leBytes size x)
  rwa [leNat_leBytes, leBytes_length] at h

theorem padNat_padWrite_apart (j : Job) {o b k : Nat} {bs : List Byte} (h : b + k ≤ o ∨ o + bs.length ≤ b) :
    (j.padWrite o bs).padNat b k = j.padNat b k := by
  rw [Job.padNat, Job.padNat, regionNat, regionNat, Job.padWrite, Sparse.blit, window_overlay_apart _ _ h]

/-! ## Elements stored one after another -/

/-- The job once the elements `val e` of `size` bytes have been stored at `off e`, for every `e` of a list in its order. -/
def storeElems (j : Job) (size : Nat) (off val : Nat → Nat) (es : List Nat) : Job :=
  es.foldl (fun j e => j.padWrite (off e) (leBytes size (val e))) j

section
variable {size : Nat} {off val : Nat → Nat} {es : List Nat}

theorem storeElems_cons (j : Job) (e : Nat) :
    storeElems j size off val (e :: es) = storeElems (j.padWrite (off e) (leBytes size (val e))) size off val es := rfl

/-- Storing changes the scratchpad alone. -/
theorem storeElems_frame (j : Job) : storeElems j size off val es = { j with pad := (storeElems j size off val es).pad } := by
  induction es generalizing j with
  | nil => rfl
  | cons e es ih => rw [storeElems_cons, ih]; rfl

theorem padNat_storeElems_apart (j : Job) {b k : Nat} (h : ∀ e ∈ es, b + k ≤ off e ∨ off e + size ≤ b) :
    (storeElems j size off val es).padNat b k = j.padNat b k := by
  induction es generalizing j with
  | nil => rfl
  | cons e es ih =>
    rw [storeElems_cons, ih _ fun a ha => h a (List.mem_cons_of_mem e ha)]
    exact padNat_padWrite_apart j (by rw [leBytes_length]; exact h e List.mem_cons_self)

/-- Two aligned offsets are one, or their elements have no byte in common. -/
theorem apart_of_aligned {a b : Nat} (ha : a % size = 0) (hb : b % size = 0) (hne : a ≠ b) : Apart size a b := by
  obtain ⟨p, rfl⟩ := Nat.dvd_of_mod_eq_zero ha
  obtain ⟨q, rfl⟩ := Nat.dvd_of_mod_eq_zero hb
  rcases Nat.lt_or_gt_of_ne fun h => hne (congrArg _ h) with h | h
  · exact .inl (Nat.mul_succ size p ▸ Nat.mul_le_mul_left size h)
  · exact .inr (Nat.mul_succ size q ▸ Nat.mul_le_mul_left size h)

/-- An offset holds the element of the highest lane that stored there (R142). -/
theorem padNat_storeElems_last (j : Job) {e : Nat} (hsorted : es.Pairwise (· < ·)) (haligned : ∀ a ∈ es, off a % size = 0) (he : e ∈ es)
    (hlast : ∀ a ∈ es, e < a → off a ≠ off e) : (storeElems j size off val es).padNat (off e) size = val e % 256 ^ size := by
  induction es generalizing j with
  | nil => simp at he
  | cons a es ih =>
    obtain ⟨hfirst, hrest⟩ := List.pairwise_cons.1 hsorted
    rw [storeElems_cons]
    rcases List.mem_cons.1 he with rfl | hmem
    case inl =>
      rw [padNat_storeElems_apart, padNat_padWrite_same]
      intro b hb
      have hb' := List.mem_cons_of_mem e hb
      exact (apart_of_aligned (haligned b hb') (haligned e List.mem_cons_self) (hlast b hb' (hfirst b hb))).symm
    case inr =>
      exact ih _ hrest (fun b hb => haligned b (List.mem_cons_of_mem a hb)) hmem fun b hb => hlast b (List.mem_cons_of_mem a hb)

end

/-! ## The register files of a job, and its bobbins -/

/-- Two jobs hold the same vector registers, masks, tiles, accumulators and scratchpad. -/
structure SameFiles (j k : Job) : Prop where
  vregs : k.v = j.v
  masks : k.k = j.k
  tiles : k.tiles = j.tiles
  accs : k.accs = j.accs
  pad : k.pad = j.pad

theorem SameFiles.refl (j : Job) : SameFiles j j := ⟨rfl, rfl, rfl, rfl, rfl⟩

theorem SameFiles.trans {j k l : Job} (h : SameFiles j k) (h' : SameFiles k l) : SameFiles j l :=
  ⟨h'.vregs.trans h.vregs, h'.masks.trans h.masks, h'.tiles.trans h.tiles, h'.accs.trans h.accs, h'.pad.trans h.pad⟩

theorem sameFiles_of_kept {j x : Job} (h : x.kept = j.kept) : SameFiles j x where
  vregs := show x.kept.v = j.kept.v by rw [h]
  masks := show x.kept.k = j.kept.k by rw [h]
  tiles := show x.kept.tiles = j.kept.tiles by rw [h]
  accs := show x.kept.accs = j.kept.accs by rw [h]
  pad := show x.kept.pad = j.kept.pad by rw [h]

theorem bobbin_of_kept {j x : Job} (h : x.kept = j.kept) (b : Nat) : x.bobbin b = j.bobbin b :=
  show x.kept.bobbin b = j.kept.bobbin b by rw [h]

theorem SameFiles.rv {j k : Job} (h : SameFiles j k) (r : Nat) : k.rv r = j.rv r := by rw [Job.rv, Job.rv, h.vregs]

theorem SameFiles.padNat {j k : Job} (h : SameFiles j k) (o n : Nat) : k.padNat o n = j.padNat o n := by
  rw [Job.padNat, Job.padNat, h.pad]

theorem SameFiles.tile {j k : Job} (h : SameFiles j k) (t : Nat) : k.tile t = j.tile t := by rw [Job.tile, Job.tile, h.tiles]

theorem rv_wv (j : Job) (r x k : Nat) : (j.wv r x).rv k = if r = k then (BitVec.ofNat 4096 x).toNat else j.rv k := by
  rw [Job.rv, Job.wv, Sparse.get_set]
  split <;> rfl

theorem tile_setTile (j : Job) (t x k : Nat) : (j.setTile t x).tile k = if t = k then (BitVec.ofNat 131072 x).toNat else j.tile k := by
  rw [Job.tile, Job.setTile, Sparse.get_set]
  split <;> rfl

theorem bobbin_setBobbin (j : Job) (b c : Nat) (x : Bobbin) : (j.setBobbin b x).bobbin c = if b = c then x else j.bobbin c := by
  rw [Job.bobbin, Job.setBobbin, Sparse.get_set]
  rfl

theorem sameFiles_token (j : Job) (tok : Nat) (x : Word) : SameFiles j (j.token tok x) := by
  unfold Job.token
  split
  · exact .refl j
  · exact ⟨by simp, by simp, by simp, by simp, by simp⟩

theorem bobbin_token (j : Job) (tok : Nat) (x : Word) (c : Nat) : (j.token tok x).bobbin c = j.bobbin c := by
  unfold Job.token
  split
  · rfl
  · simp [Job.bobbin]

/-- A binding of a bobbin that ends changes no register file. -/
theorem sameFiles_endBinding (j : Job) (b : Nat) : SameFiles j (j.endBinding (8 + b)) := by
  have hclear : SameFiles j (j.clearBound (8 + b)) := by
    rw [Job.clearBound, if_neg (by omega)]
    exact ⟨rfl, rfl, rfl, rfl, rfl⟩
  have hbind : SameFiles j ((j.clearBound (8 + b)).setBinding (8 + b) .none) := hclear.trans ⟨rfl, rfl, rfl, rfl, rfl⟩
  unfold Job.endBinding
  simp only
  split
  · exact hbind.trans (sameFiles_token ..)
  · exact .refl j

theorem bobbin_endBinding_other (j : Job) {b c : Nat} (h : b ≠ c) : (j.endBinding (8 + b)).bobbin c = j.bobbin c := by
  have hclear : (j.clearBound (8 + b)).bobbin c = j.bobbin c := by
    rw [Job.clearBound, if_neg (by omega), bobbin_setBobbin, if_neg (by omega)]
  unfold Job.endBinding
  simp only
  split
  · exact (bobbin_token ..).trans hclear
  · rfl

theorem sameFiles_popBobbin (j : Job) (b : Nat) : SameFiles j (j.popBobbin b) :=
  SameFiles.trans (k := j.setBobbin b { j.bobbin b with entries := (j.bobbin b).entries.drop 1 }) ⟨rfl, rfl, rfl, rfl, rfl⟩
    (sameFiles_endBinding _ b)

theorem bobbin_popBobbin_other (j : Job) {b c : Nat} (h : b ≠ c) : (j.popBobbin b).bobbin c = j.bobbin c := by
  unfold Job.popBobbin
  simp only
  rw [bobbin_endBinding_other _ h, bobbin_setBobbin, if_neg h]

/-- Popping the sources of a word changes no register file. -/
theorem sameFiles_pops (srcs : List Nat) (j : Job) : SameFiles j (srcs.foldl (·.popBobbin) j) := by
  induction srcs generalizing j with
  | nil => exact .refl j
  | cons b srcs ih => exact (sameFiles_popBobbin j b).trans (ih _)

/-- Popping the sources of a word leaves every other bobbin. -/
theorem bobbin_pops_other {srcs : List Nat} {c : Nat} (h : c ∉ srcs) (j : Job) : (srcs.foldl (·.popBobbin) j).bobbin c = j.bobbin c := by
  induction srcs generalizing j with
  | nil => rfl
  | cons b srcs ih =>
    obtain ⟨hb, hsrcs⟩ := List.ne_and_not_mem_of_not_mem_cons h
    rw [List.foldl_cons, ih hsrcs, bobbin_popBobbin_other j hb.symm]

theorem mem_bobbinsOf {codes : List Nat} {b : Nat} : b ∈ bobbinsOf codes ↔ b < 8 ∧ 32 + b ∈ codes := by
  simp [bobbinsOf]

/-- A bobbin is no source and destination at once: one is filled, the other drained (R117). -/
theorem not_mem_srcs_of_ready {j : Job} {srcs dsts : List Nat} (h : j.bobbinGate srcs dsts = .ready) {b : Nat} (hb : b ∈ dsts) :
    b ∉ srcs := by
  intro hsrc
  unfold Job.bobbinGate at h
  simp only at h
  split at h
  · cases h
  · cases h
  · rename_i hsrcs hdsts
    have hs := List.find?_eq_none.1 hsrcs b hsrc
    have hd := List.find?_eq_none.1 hdsts b hb
    simp_all

/-- The pattern a word writes to VD: the old one of a register, zero where VD is a bobbin, with its lanes put in (R120). -/
theorem lanesWritten_vdest {j k x : Job} {vd w mask y : Nat} {val : Nat → Nat} (hfiles : SameFiles j k)
    (hbobbin : 32 ≤ vd → k.bobbin (vd - 32) = j.bobbin (vd - 32)) (hkept : x.kept = (k.vdest vd y).kept)
    (hy : ∀ e < 4096 / w, lane w y e = if mask.testBit e then val e % 2 ^ w else if vd < 32 then lane w (j.rv vd) e else 0) :
    LanesWritten j x vd w (4096 / w) mask val := by
  have hlane : ∀ e < 4096 / w, lane w (BitVec.ofNat 4096 y).toNat e =
      if mask.testBit e then val e % 2 ^ w else if vd < 32 then lane w (j.rv vd) e else 0 := fun e he => by
    have hfit : w * e + w ≤ 4096 := by
      calc w * (e + 1) ≤ w * (4096 / w) := Nat.mul_le_mul_left w he
        _ ≤ 4096 := Nat.mul_div_le 4096 w
    rw [← hy e he]
    exact fieldAt_ofNat hfit
  have hx := sameFiles_of_kept hkept
  by_cases hvd : vd < 32
  case pos =>
    rw [Job.vdest, if_pos hvd] at hx
    refine ⟨fun _ e he => ?_, fun h => absurd hvd (by omega), fun r hr => ?_, hx.masks.trans hfiles.masks, hx.tiles.trans hfiles.tiles,
      hx.accs.trans hfiles.accs⟩
    · rw [hx.rv, rv_wv, if_pos rfl, hlane e he, if_pos hvd]
    · rw [hx.rv, rv_wv, if_neg hr.symm, hfiles.rv]
  case neg =>
    have hb := bobbin_of_kept hkept (vd - 32)
    rw [Job.vdest, if_neg hvd] at hx hb
    refine ⟨fun h => absurd h hvd, fun h => ⟨BitVec.ofNat 4096 y, ?_, fun e he => ?_⟩, fun r _ => (hx.rv r).trans (hfiles.rv r),
      hx.masks.trans hfiles.masks, hx.tiles.trans hfiles.tiles, hx.accs.trans hfiles.accs⟩
    · rw [hb, Job.pushBobbin, bobbin_setBobbin, if_pos rfl, hbobbin h]
    · rw [hlane e he, if_neg hvd]

/-! ## What a legal VS word names -/

theorem fate_nil {c : Nat} {bad : Bool} : fate c bad = [] ↔ bad = false := by cases bad <;> simp [fate]

/-- Element widths of the move types (R142). -/
theorem tyWidth_grpMove {t : Nat} (h : grpMove.contains t = true) : tyWidth t = 8 ∨ tyWidth t = 16 ∨ tyWidth t = 32 :=
  (by decide : ∀ t ∈ grpMove, tyWidth t = 8 ∨ tyWidth t = 16 ∨ tyWidth t = 32) t (List.contains_iff_mem.1 h)

/-- A legal move names a register or a bobbin, and a type of whole bytes (R142, R143). -/
theorem legal_vs {f : VS} {sidx top disp mem mask : Bool} (h : vsFate f sidx top disp mem mask grpMove = []) :
    f.v.toNat < 40 ∧ (tyWidth f.ty.toNat = 8 ∨ tyWidth f.ty.toNat = 16 ∨ tyWidth f.ty.toNat = 32) := by
  simp only [vsFate, List.append_eq_nil_iff] at h
  obtain ⟨⟨⟨⟨⟨⟨⟨⟨hv, -⟩, -⟩, -⟩, -⟩, -⟩, -⟩, hty⟩, -⟩ := h
  have hmem : fate 1 (!grpMove.contains f.ty.toNat) = [] := hty
  exact ⟨by simpa [fate_nil] using hv, tyWidth_grpMove (by simpa only [fate_nil, Bool.not_eq_false'] using hmem)⟩

/-- A test of a one-bit field by its value is the test of the field: how `maskOf` and the statements read M (R120). -/
theorem ite_bit (m : BitVec 1) (x y : Nat) : (if m.toNat = 1 then x else y) = if m = 1 then x else y := by
  have hm : m.toNat = 1 ↔ m = 1 := by rw [← BitVec.toNat_inj]; rfl
  simp only [hm]

/-! ## The two checks of R141 -/

/-- The least element of a list, as the checks find it. -/
theorem foldl_min_of_least {xs : List Nat} {o : Nat} (ho : o ∈ xs) (hleast : ∀ x ∈ xs, o ≤ x) : xs.foldl min (xs.headD 0) = o := by
  cases xs with
  | nil => simp at ho
  | cons x xs =>
    have h := List.min?_eq_some_iff.2 ⟨ho, hleast⟩
    rw [List.min?_cons', Option.some.injEq] at h
    rw [List.headD_cons, List.foldl_cons, Nat.min_self, h]

theorem padFits_filter (size : Nat) (offs : List Nat) :
    offs.filter (fun o => !padFits o size) = offs.filter fun o => 3145728 < o + size :=
  List.filter_congr fun o _ => by rw [padFits, padBytes, ← decide_not]; exact decide_eq_decide.2 (by omega)

section
variable {i : Instr} {size : Nat} {offs : List Nat}

/-- Aligned and in range: neither check traps. -/
theorem padCheck_none (hbad : offs.filter (fun o => o % size ≠ 0) = []) (hout : offs.filter (fun o => 3145728 < o + size) = []) :
    padCheck i size offs = none := by
  simp only [padCheck, padFits_filter, hbad, hout]

theorem padCheck_misaligned {o : Nat} (ho : o ∈ offs.filter fun o => o % size ≠ 0)
    (hleast : ∀ x ∈ offs.filter (fun o => o % size ≠ 0), o ≤ x) : padCheck i size offs = some (trap 0x06 o 0) := by
  unfold padCheck
  simp only
  split
  · next hbad => rw [hbad] at ho; simp at ho
  · rw [foldl_min_of_least ho hleast]

theorem padCheck_outside {o : Nat} (hbad : offs.filter (fun o => o % size ≠ 0) = []) (ho : o ∈ offs.filter fun o => 3145728 < o + size)
    (hleast : ∀ x ∈ offs.filter (fun o => 3145728 < o + size), o ≤ x) : padCheck i size offs = some (wordTrap 0x03 o i) := by
  simp only [padCheck, padFits_filter, hbad]
  split
  · next hout => rw [hout] at ho; simp at ho
  · rw [foldl_min_of_least ho hleast]

end

/-! ## The run of a scratchpad move -/

section
variable {s : State} {n : Nat} {j : Job} {f : VS} {i : Instr} {codes : List Nat}
  (hat : AtIssue s n .v j i f.g [f.sbase.toNat, f.sidx.toNat] [])
include hat

theorem runPadMove_trap {load : Bool} {t : Trap}
    (hready : j.bobbinGate (bobbinsOf codes) (if load then bobbinsOf [f.v.toNat] else []) = .ready)
    (hcheck : padCheck i (vsSize f) ((vsLanes f j).map (vsOffset i f j)) = some t) (hheld : j.trapHeld .v = false) :
    runPadMove i f load codes s = .next ((s.takeTrap n .v { t with estat := bobbinEstat (bobbinsOf codes) }).unstalled n .v) :=
  runWord_trap hat hheld (by simp only [hready, hcheck])

variable (hcheck : padCheck i (vsSize f) ((vsLanes f j).map (vsOffset i f j)) = none)
  (hstall : ∀ e ∈ vsLanes f j, s.padStalls n (vsOffset i f j e) (vsSize f) = false)
include hcheck hstall

/-- A load that issues: the sources are popped, then the elements read are merged into the destination. -/
theorem runPadMove_load (hready : j.bobbinGate (bobbinsOf codes) (bobbinsOf [f.v.toNat]) = .ready) :
    runPadMove i f true codes s = .next (s.issued n .v (((bobbinsOf codes).foldl (·.popBobbin) j).vdest f.v.toNat
      (vsMerge f j ((vsLanes f j).map fun e => (e, j.padNat (vsOffset i f j e) (vsSize f)))))) := by
  have hfree : ((vsLanes f j).map (vsOffset i f j)).any (fun o => s.padStalls n o (vsSize f)) = false := by simpa using hstall
  refine runWord_done hat ?_
  simp only [if_true, hready, hcheck, hfree, Bool.false_eq_true, if_false, ← List.map_prod_left_eq_zip, List.map_map, Function.comp_def]

/-- A store that issues: its elements are stored, then the sources are popped. -/
theorem runPadMove_store (hready : j.bobbinGate (bobbinsOf codes) [] = .ready) :
    runPadMove i f false codes s = .next (s.issued n .v ((bobbinsOf codes).foldl (·.popBobbin)
      (storeElems j (vsSize f) (vsOffset i f j) (lane (tyWidth f.ty.toNat) (j.vsource f.ty.toNat 0 0 f.v.toNat)) (vsLanes f j)))) := by
  have hfree : ((vsLanes f j).map (vsOffset i f j)).any (fun o => s.padStalls n o (vsSize f)) = false := by simpa using hstall
  refine runWord_done hat ?_
  simp only [Bool.false_eq_true, if_false, hready, hcheck, hfree, ← List.map_prod_left_eq_zip, List.foldl_map, storeElems]

end

theorem mem_vsLanes {f : VS} {j : Job} {e : Nat} :
    e ∈ vsLanes f j ↔ e < 4096 / tyWidth f.ty.toNat ∧ (j.maskOf f.m.toNat f.k.toNat).testBit e = true := by
  simp [vsLanes, laneCount]

theorem pairwise_vsLanes (f : VS) (j : Job) : (vsLanes f j).Pairwise (· < ·) := List.pairwise_lt_range.filter _

theorem lane_zero (w e : Nat) : lane w 0 e = 0 := by simp [lane]

/-- The pattern a move writes: the enabled lanes hold what was read, the others the old pattern of V (R120). -/
theorem lane_vsMerge (f : VS) (j : Job) (val : Nat → Nat) {e : Nat} (he : e < 4096 / tyWidth f.ty.toNat) :
    lane (tyWidth f.ty.toNat) (vsMerge f j ((vsLanes f j).map fun e => (e, val e))) e =
      if (j.maskOf f.m.toNat f.k.toNat).testBit e then val e % 2 ^ tyWidth f.ty.toNat
      else if f.v.toNat < 32 then lane (tyWidth f.ty.toNat) (j.rv f.v.toNat) e else 0 := by
  rw [vsMerge, lane_putLanes]
  simp only [mem_vsLanes, he, true_and]
  congr 1
  split
  · rfl
  · exact lane_zero _ _

/-- A word that loads V from `val` and pops its sources, once it has issued. -/
theorem lanesWritten_load {s : State} {n : Nat} {j : Job} {f : VS} {srcs : List Nat} (val : Nat → Nat)
    (hv : f.v.toNat < 40) (hready : j.bobbinGate srcs (bobbinsOf [f.v.toNat]) = .ready) :
    ∃ x, (s.issued n .v ((srcs.foldl (·.popBobbin) j).vdest f.v.toNat (vsMerge f j ((vsLanes f j).map fun e => (e, val e))))).job? n = some x ∧
      LanesWritten j x f.v.toNat (tyWidth f.ty.toNat) (4096 / tyWidth f.ty.toNat) (j.maskOf f.m.toNat f.k.toNat) val ∧ x.pad = j.pad := by
  obtain ⟨x, hx, hkept, -⟩ := job_issued s n .v
    ((srcs.foldl (·.popBobbin) j).vdest f.v.toNat (vsMerge f j ((vsLanes f j).map fun e => (e, val e))))
  have hpops := sameFiles_pops srcs j
  refine ⟨x, hx, lanesWritten_vdest hpops (fun hb => ?_) hkept fun e he => lane_vsMerge f j val he, ?_⟩
  · exact bobbin_pops_other (not_mem_srcs_of_ready hready (mem_bobbinsOf.2 ⟨by omega, by simp; omega⟩)) j
  · rw [(sameFiles_of_kept hkept).pad, ← hpops.pad, Job.vdest]
    split <;> rfl

/-! ## The six scratchpad moves as one -/

/-- `i` is a scratchpad move of fields `f` in job `j`: `load` says which way it goes, `codes` are its vector sources and `off` gives the
offset of each element. -/
structure PadMove (j : Job) (i : Instr) (f : VS) (load : Bool) (codes : List Nat) (off : Nat → Nat) : Prop where
  runs : ∀ s, exec i s = runPadMove i f load codes s
  legal : i.fates = [] → f.v.toNat < 40 ∧ (tyWidth f.ty.toNat = 8 ∨ tyWidth f.ty.toNat = 16 ∨ tyWidth f.ty.toNat = 32)
  offset : vsOffset i f j = off

section
variable {s : State} {n : Nat} {j : Job} {f : VS} {i : Instr} {load : Bool} {codes : List Nat} {off : Nat → Nat}

section
variable (hmove : PadMove j i f load codes off) (hat : AtIssue s n .v j i f.g [f.sbase.toNat, f.sidx.toNat] [])
  (hready : j.bobbinGate (bobbinsOf codes) (if load then bobbinsOf [f.v.toNat] else []) = .ready) {o : Nat}
include hmove hat hready

/-- A misaligned enabled offset traps with cause 0x06 and the lowest of them. -/
theorem PadMove.misaligned (ho : o ∈ ((vsLanes f j).map off).filter fun o => o % vsSize f ≠ 0)
    (hleast : ∀ x ∈ ((vsLanes f j).map off).filter (fun o => o % vsSize f ≠ 0), o ≤ x) (hheld : j.trapHeld .v = false) :
    exec i s = .next ((s.takeTrap n .v { trap 0x06 o 0 with estat := bobbinEstat (bobbinsOf codes) }).unstalled n .v) := by
  rw [hmove.runs]
  exact runPadMove_trap hat hready (by rw [hmove.offset]; exact padCheck_misaligned ho hleast) hheld

/-- Every enabled offset aligned and an element out of range: cause 0x03 and the lowest such offset. -/
theorem PadMove.outside (hbad : ((vsLanes f j).map off).filter (fun o => o % vsSize f ≠ 0) = [])
    (ho : o ∈ ((vsLanes f j).map off).filter fun o => 3145728 < o + vsSize f)
    (hleast : ∀ x ∈ ((vsLanes f j).map off).filter (fun o => 3145728 < o + vsSize f), o ≤ x) (hheld : j.trapHeld .v = false) :
    exec i s = .next ((s.takeTrap n .v { wordTrap 0x03 o i with estat := bobbinEstat (bobbinsOf codes) }).unstalled n .v) := by
  rw [hmove.runs]
  exact runPadMove_trap hat hready (by rw [hmove.offset]; exact padCheck_outside hbad ho hleast) hheld

end

section
variable (hat : AtIssue s n .v j i f.g [f.sbase.toNat, f.sidx.toNat] [])
  (hbad : ((vsLanes f j).map off).filter (fun o => o % vsSize f ≠ 0) = [])
  (hout : ((vsLanes f j).map off).filter (fun o => 3145728 < o + vsSize f) = [])
  (hstall : ∀ e ∈ vsLanes f j, s.padStalls n (off e) (vsSize f) = false)
include hat hbad hout hstall

/-- A load whose enabled elements pass both checks and are all exchanged. -/
theorem PadMove.loads (hmove : PadMove j i f true codes off) (hready : j.bobbinGate (bobbinsOf codes) (bobbinsOf [f.v.toNat]) = .ready) :
    ∃ u x, exec i s = .next u ∧ u.job? n = some x ∧
      LanesWritten j x f.v.toNat (tyWidth f.ty.toNat) (4096 / tyWidth f.ty.toNat) (j.maskOf f.m.toNat f.k.toNat)
        (fun e => j.padNat (off e) (vsSize f)) ∧ x.pad = j.pad ∧ ∀ a, u.byte a = s.byte a := by
  obtain ⟨hruns, hlegal, rfl⟩ := hmove
  have hrun := runPadMove_load hat (padCheck_none hbad hout) hstall hready
  obtain ⟨x, hx, hlanes, hpad⟩ := lanesWritten_load (s := s) (n := n) (fun e => j.padNat (vsOffset i f j e) (vsSize f))
    (hlegal hat.legal).1 hready
  exact ⟨_, x, (hruns s).trans hrun, hx, hlanes, hpad, (onlyJob_issued ..).bytes⟩

/-- A store whose enabled elements pass both checks and are all exchanged. -/
theorem PadMove.stores (hmove : PadMove j i f false codes off) (hready : j.bobbinGate (bobbinsOf codes) [] = .ready) :
    ∃ u x, exec i s = .next u ∧ u.job? n = some x ∧ x.v = j.v ∧ (∀ a, u.byte a = s.byte a) ∧
      (∀ e ∈ vsLanes f j, (∀ e' ∈ vsLanes f j, e < e' → off e' ≠ off e) →
        x.padNat (off e) (vsSize f) = lane (tyWidth f.ty.toNat) (j.vsource f.ty.toNat 0 0 f.v.toNat) e) ∧
      ∀ o, (∀ e ∈ vsLanes f j, o < off e ∨ off e + vsSize f ≤ o) → x.padNat o 1 = j.padNat o 1 := by
  obtain ⟨hruns, hlegal, rfl⟩ := hmove
  have hrun := runPadMove_store hat (padCheck_none hbad hout) hstall hready
  have haligned : ∀ e ∈ vsLanes f j, vsOffset i f j e % vsSize f = 0 := by simpa using hbad
  have hbytes : 256 ^ vsSize f = 2 ^ tyWidth f.ty.toNat := by
    rcases (hlegal hat.legal).2 with h | h | h <;> rw [vsSize, h] <;> rfl
  obtain ⟨x, hx, hkept, -⟩ := job_issued s n .v ((bobbinsOf codes).foldl (·.popBobbin)
    (storeElems j (vsSize f) (vsOffset i f j) (lane (tyWidth f.ty.toNat) (j.vsource f.ty.toNat 0 0 f.v.toNat)) (vsLanes f j)))
  have hfiles := (sameFiles_pops _ _).trans (sameFiles_of_kept hkept)
  refine ⟨_, x, (hruns s).trans hrun, hx, ?_, (onlyJob_issued ..).bytes, fun e he hlast => ?_, fun o ho => ?_⟩
  · rw [hfiles.vregs, storeElems_frame]
  · rw [hfiles.padNat, padNat_storeElems_last j (pairwise_vsLanes f j) haligned he hlast, hbytes]
    exact Nat.mod_eq_of_lt (lane_lt ..)
  · rw [hfiles.padNat]
    exact padNat_storeElems_apart j ho

end

end

/-- The index operand of `vgld` and `vgst` is a vector code of six bits (R142). -/
theorem gatherCode_eq (f : VS) : (BitVec.ofNat 6 (f.top.toNat / 512)).toNat = gatherCode f := by
  have := f.top.isLt
  rw [BitVec.toNat_ofNat, gatherCode]
  omega

/-- The three ways elements lie (R142): what is added to the base for element `e`. -/
def linearStep (j : Job) (f : VS) (e : Nat) : Nat := (j.rs f.sidx.toNat).toNat + e * vsSize f
def stridedStep (j : Job) (f : VS) (e : Nat) : Nat := e * (j.rs f.sidx.toNat).toNat
def gatheredStep (j : Job) (f : VS) (e : Nat) : Nat :=
  lane (tyWidth f.ty.toNat) (j.vsource f.ty.toNat 0 0 (BitVec.ofNat 6 (f.top.toNat / 512)).toNat) e * vsSize f

/-- The offset of element `e`, modulo 2^64 (R141). -/
def stepOffset (j : Job) (f : VS) (step : Nat → Nat) (e : Nat) : Nat :=
  ((j.rs f.sbase.toNat + f.disp.signExtend 64).toNat + step e) % 2 ^ 64

section
variable {j : Job} {f : VS} {i : Instr} {codes : List (BitVec 6)} {step : Nat → Nat}

/-- The three loads of R142. -/
theorem padMove_of_load (h : (i, codes, step) ∈ [(.vld f, [], linearStep j f), (.vldx f, [], stridedStep j f),
      (.vgld f, [BitVec.ofNat 6 (f.top.toNat / 512)], gatheredStep j f)]) :
    PadMove j i f true (codes.map BitVec.toNat) (stepOffset j f step) := by
  simp only [List.mem_cons, Prod.mk.injEq, List.not_mem_nil, or_false] at h
  rcases h with ⟨rfl, rfl, rfl⟩ | ⟨rfl, rfl, rfl⟩ | ⟨rfl, rfl, rfl⟩
  case inl => exact ⟨fun _ => rfl, legal_vs, rfl⟩
  case inr.inl => exact ⟨fun _ => rfl, legal_vs, rfl⟩
  case inr.inr =>
    rw [List.map_singleton, gatherCode_eq]
    exact ⟨fun _ => rfl, fun h => legal_vs (List.append_eq_nil_iff.1 h).1, by
      funext e; rw [stepOffset, gatheredStep, gatherCode_eq]; rfl⟩

/-- The three stores of R142. -/
theorem padMove_of_store (h : (i, codes, step) ∈ [(.vst f, [f.v], linearStep j f), (.vstx f, [f.v], stridedStep j f),
      (.vgst f, [BitVec.ofNat 6 (f.top.toNat / 512), f.v], gatheredStep j f)]) :
    PadMove j i f false (codes.map BitVec.toNat) (stepOffset j f step) := by
  simp only [List.mem_cons, Prod.mk.injEq, List.not_mem_nil, or_false] at h
  rcases h with ⟨rfl, rfl, rfl⟩ | ⟨rfl, rfl, rfl⟩ | ⟨rfl, rfl, rfl⟩
  case inl => exact ⟨fun _ => rfl, legal_vs, rfl⟩
  case inr.inl => exact ⟨fun _ => rfl, legal_vs, rfl⟩
  case inr.inr =>
    rw [List.map_cons, gatherCode_eq]
    exact ⟨fun _ => rfl, fun h => legal_vs (List.append_eq_nil_iff.1 h).1, by
      funext e; rw [stepOffset, gatheredStep, gatherCode_eq]; rfl⟩

end

/-! ## Tile moves (R143) -/

theorem gridRowBits_holds {w : Nat} (hw : w = 8 ∨ w = 16 ∨ w = 32) : w * gridCols w ≤ gridRowBits w := by
  rcases hw with rfl | rfl | rfl <;> decide

/-- The rows of a grid fill a tile (R148). -/
theorem gridRows_fill {w : Nat} (hw : w = 8 ∨ w = 16 ∨ w = 32) : gridRowBits w * gridRows w = 131072 := by
  rcases hw with rfl | rfl | rfl <;> rfl

theorem gridCols_pos (w : Nat) : 0 < gridCols w := by unfold gridCols; split <;> decide

/-- Elements of the grid lie within its tile. -/
theorem gridBit_fits {w y x : Nat} (hw : w = 8 ∨ w = 16 ∨ w = 32) (hy : y < gridRows w) (hx : x < gridCols w) :
    gridBit w y x + w ≤ 131072 := by
  calc gridBit w y x + w = gridRowBits w * y + w * (x + 1) := by rw [gridBit]; ring
    _ ≤ gridRowBits w * y + gridRowBits w := Nat.add_le_add_left ((Nat.mul_le_mul_left w hx).trans (gridRowBits_holds hw)) _
    _ = gridRowBits w * (y + 1) := by ring
    _ ≤ gridRowBits w * gridRows w := Nat.mul_le_mul_left _ hy
    _ = 131072 := gridRows_fill hw

/-- Two elements of a grid have no bit in common. -/
theorem gridBit_apart {w y x y' x' : Nat} (hw : w = 8 ∨ w = 16 ∨ w = 32) (hx : x < gridCols w) (hx' : x' < gridCols w)
    (hne : (y, x) ≠ (y', x')) : Apart w (gridBit w y x) (gridBit w y' x') := by
  have hrow : ∀ {a b p q : Nat}, p < gridCols w → a < b → gridBit w a p + w ≤ gridBit w b q := fun {a b p q} hp hab => by
    calc gridBit w a p + w = gridRowBits w * a + w * (p + 1) := by rw [gridBit]; ring
      _ ≤ gridRowBits w * a + gridRowBits w := Nat.add_le_add_left ((Nat.mul_le_mul_left w hp).trans (gridRowBits_holds hw)) _
      _ = gridRowBits w * (a + 1) := by ring
      _ ≤ gridRowBits w * b := Nat.mul_le_mul_left _ hab
      _ ≤ gridBit w b q := Nat.le_add_right ..
  have hcol : ∀ {p q : Nat}, p < q → gridBit w y p + w ≤ gridBit w y q := fun {p q} hpq => by
    have := Nat.mul_le_mul_left w (Nat.succ_le_of_lt hpq)
    rw [gridBit, gridBit]
    rw [Nat.mul_succ] at this
    omega
  rcases Nat.lt_trichotomy y y' with h | rfl | h
  · exact .inl (hrow hx h)
  · rcases Nat.lt_or_gt_of_ne fun h : x = x' => hne (by rw [h]) with h | h
    · exact .inl (hcol h)
    · exact .inr (hcol h)
  · exact .inr (hrow hx' h)

section
variable {w : Nat} {d : Dir} {i e i' e' : Nat}

theorem linePos_bounds (hi : i < lineCount w d) (he : e < lineLength w d) :
    (linePos w d i e).1 < gridRows w ∧ (linePos w d i e).2 < gridCols w := by
  cases d with
  | row => exact ⟨hi, he⟩
  | col => exact ⟨he, hi⟩
  | dia => exact ⟨he, Nat.mod_lt _ (gridCols_pos w)⟩
  | adi => exact ⟨he, Nat.mod_lt _ (gridCols_pos w)⟩

/-- Two lines of a direction have no element in common, and a line none twice (R149). -/
theorem linePos_injective (hi : i < lineCount w d) (hi' : i' < lineCount w d) (h : linePos w d i e = linePos w d i' e') :
    i = i' ∧ e = e' := by
  cases d with
  | row => exact Prod.mk.inj h
  | col => exact (Prod.mk.inj h).symm
  | dia =>
    obtain ⟨rfl, hcol⟩ := Prod.mk.inj h
    exact ⟨Nat.ModEq.eq_of_lt_of_lt (Nat.ModEq.add_left_cancel' e hcol) hi hi', rfl⟩
  | adi =>
    obtain ⟨rfl, hcol⟩ := Prod.mk.inj h
    have hle : e % gridCols w ≤ gridCols w := (Nat.mod_lt e (gridCols_pos w)).le
    rw [Nat.add_sub_assoc hle, Nat.add_sub_assoc hle] at hcol
    exact ⟨Nat.ModEq.eq_of_lt_of_lt (Nat.ModEq.add_right_cancel' _ hcol) hi hi', rfl⟩

/-- The lines of a register fill it: L of R143 and the length of a line. -/
theorem linesPerVector_fill (hw : w = 8 ∨ w = 16 ∨ w = 32) : lineLength w d * linesPerVector w d = 4096 / w ∧ 0 < lineLength w d := by
  rcases hw with rfl | rfl | rfl <;> cases d <;> decide

end

/-- Element `e` of the register that a tile's lines from `x0` on fill (R143). -/
def tileLane (w tile : Nat) (d : Dir) (x0 e : Nat) : Nat := lineElem w tile d (x0 + e / lineLength w d) (e % lineLength w d)

/-- First bit, in its tile, of element `e` of the register whose first line is `x0`. -/
def laneBit (w : Nat) (d : Dir) (x0 e : Nat) : Nat :=
  gridBit w (linePos w d (x0 + e / lineLength w d) (e % lineLength w d)).1 (linePos w d (x0 + e / lineLength w d) (e % lineLength w d)).2

section
variable {w x0 : Nat} {d : Dir} (hw : w = 8 ∨ w = 16 ∨ w = 32) (hrange : x0 + linesPerVector w d ≤ lineCount w d)
include hw hrange

/-- The line and the place in it of a lane. -/
theorem line_of_lane {e : Nat} (he : e < 4096 / w) : x0 + e / lineLength w d < lineCount w d ∧ e % lineLength w d < lineLength w d := by
  obtain ⟨hfill, hpos⟩ := linesPerVector_fill (d := d) hw
  have hline : e / lineLength w d < linesPerVector w d := Nat.div_lt_of_lt_mul (by rwa [hfill])
  exact ⟨by omega, Nat.mod_lt _ hpos⟩

theorem laneBit_fits {e : Nat} (he : e < 4096 / w) : laneBit w d x0 e + w ≤ 131072 := by
  obtain ⟨hline, hplace⟩ := line_of_lane hw hrange he
  obtain ⟨hy, hx⟩ := linePos_bounds hline hplace
  exact gridBit_fits hw hy hx

/-- Two lanes of a register stand in different bits of the tile. -/
theorem laneBit_apart {e e' : Nat} (he : e < 4096 / w) (he' : e' < 4096 / w) (hne : e ≠ e') :
    Apart w (laneBit w d x0 e) (laneBit w d x0 e') := by
  obtain ⟨hline, hplace⟩ := line_of_lane hw hrange he
  obtain ⟨hline', hplace'⟩ := line_of_lane hw hrange he'
  refine gridBit_apart hw (linePos_bounds hline hplace).2 (linePos_bounds hline' hplace').2 fun h => hne ?_
  obtain ⟨hdiv, hmod⟩ := linePos_injective hline hline' (Prod.ext (Prod.mk.inj h).1 (Prod.mk.inj h).2)
  rw [← Nat.div_add_mod e (lineLength w d), ← Nat.div_add_mod e' (lineLength w d), hmod, Nat.add_left_cancel hdiv]

/-- The tile a `tst` leaves, along the lines it names: an enabled lane's element, and a masked-off lane's place as it was. -/
theorem tileLane_tileStore (tile mask v : Nat) {e : Nat} (he : e < 4096 / w) :
    tileLane w (BitVec.ofNat 131072 (tileStore w tile d x0 mask v)).toNat d x0 e =
      if mask.testBit e then lane w v e else tileLane w tile d x0 e := by
  have hfold : tileStore w tile d x0 mask v = putFields w tile (laneBit w d x0) (lane w v) ((List.range (4096 / w)).filter mask.testBit) := rfl
  have hfields := fieldAt_putFields (w := w) (pos := laneBit w d x0) (val := lane w v) (es := (List.range (4096 / w)).filter mask.testBit)
    (e := e) (lane_lt w v) (fun a ha hne => laneBit_apart hw hrange (by simpa using (List.mem_filter.1 ha).1) he hne) tile
  rw [← hfold, ← fieldAt_ofNat (laneBit_fits hw hrange he)] at hfields
  refine hfields.trans ?_
  simp only [List.mem_filter, List.mem_range, he, true_and]
  rfl

end

theorem lane_tileLoad (w tile : Nat) (d : Dir) (x0 : Nat) {e : Nat} (he : e < 4096 / w) :
    lane w (tileLoad w tile d x0) e = tileLane w tile d x0 e := by
  rw [tileLoad, lane_packLanes (by simpa using he), List.getElem_map, List.getElem_range]
  exact Nat.mod_mod ..

/-! ## The run of a tile move -/

/-- The lines a tile move names are lines of its direction (R143). -/
def TileRange (j : Job) (f : VS) : Prop :=
  j.topIndex f.top + linesPerVector (tyWidth f.ty.toNat) (topDir f.top) ≤ lineCount (tyWidth f.ty.toNat) (topDir f.top)

section
variable {s : State} {n : Nat} {j : Job} {f : VS} {i : Instr} {load : Bool}
  (hat : AtIssue s n .v j i f.g (topRegs f.top) [])
include hat

theorem runTileMove_leased (hlease : j.tileLeased (topTile f.top) = true) (hheld : j.trapHeld .v = false) :
    runTileMove i f load s = .next ((s.takeTrap n .v (trap 0x04 0 (topTile f.top))).unstalled n .v) :=
  runWord_trap hat hheld (by simp only [hlease, if_true])

variable (hlease : j.tileLeased (topTile f.top) = false)
include hlease

theorem runTileMove_outside (hout : ¬ TileRange j f) (hheld : j.trapHeld .v = false) :
    runTileMove i f load s = .next ((s.takeTrap n .v (wordTrap 0x03 0 i)).unstalled n .v) :=
  runWord_trap hat hheld (by simp only [hlease, Bool.false_eq_true, if_false, gt_iff_lt, Nat.lt_of_not_le hout, if_true])

variable (hrange : TileRange j f)
include hrange

theorem runTileMove_load (hready : j.bobbinGate [] (bobbinsOf [f.v.toNat]) = .ready) :
    runTileMove i f true s = .next (s.issued n .v (j.vdest f.v.toNat (vsMerge f j ((vsLanes f j).map fun e =>
      (e, lane (tyWidth f.ty.toNat) (tileLoad (tyWidth f.ty.toNat) (j.tile (topTile f.top)) (topDir f.top) (j.topIndex f.top)) e))))) :=
  runWord_done hat (by simp only [hlease, Bool.false_eq_true, if_false, gt_iff_lt, Nat.not_lt.2 hrange, if_true, hready])

theorem runTileMove_store (hready : j.bobbinGate (bobbinsOf [f.v.toNat]) [] = .ready) :
    runTileMove i f false s = .next (s.issued n .v ((bobbinsOf [f.v.toNat]).foldl (·.popBobbin) (j.setTile (topTile f.top)
      (tileStore (tyWidth f.ty.toNat) (j.tile (topTile f.top)) (topDir f.top) (j.topIndex f.top) (j.maskOf f.m.toNat f.k.toNat)
        (j.vsource f.ty.toNat 0 0 f.v.toNat))))) :=
  runWord_done hat (by simp only [hlease, Bool.false_eq_true, if_false, gt_iff_lt, Nat.not_lt.2 hrange, hready])

end

theorem lanesWritten_congr {j x : Job} {vd w n mask : Nat} {val val' : Nat → Nat} (h : LanesWritten j x vd w n mask val)
    (hval : ∀ e < n, val e = val' e) : LanesWritten j x vd w n mask val' where
  lanes := fun hvd e he => by rw [h.lanes hvd e he, hval e he]
  pushed := fun hvd => by
    obtain ⟨y, hpush, hy⟩ := h.pushed hvd
    exact ⟨y, hpush, fun e he => by rw [hy e he, hval e he]⟩
  others := h.others
  masks := h.masks
  tiles := h.tiles
  accs := h.accs

section
variable {s : State} {n : Nat} {j : Job} {f : VS}

/-- `tld`: the enabled lanes hold the elements of the lines from INDEX on (R143). -/
theorem exec_tld (hat : AtIssue s n .v j (.tld f) f.g (topRegs f.top) []) (hlease : j.tileLeased (topTile f.top) = false)
    (hrange : TileRange j f) (hready : j.bobbinGate [] (bobbinsOf [f.v.toNat]) = .ready) :
    ∃ u x, exec (.tld f) s = .next u ∧ u.job? n = some x ∧
      LanesWritten j x f.v.toNat (tyWidth f.ty.toNat) (4096 / tyWidth f.ty.toNat) (j.maskOf f.m.toNat f.k.toNat) fun e =>
        tileLane (tyWidth f.ty.toNat) (j.tile (topTile f.top)) (topDir f.top) (j.topIndex f.top) e := by
  obtain ⟨hv, -⟩ := legal_vs (List.append_eq_nil_iff.1 hat.legal).1
  obtain ⟨x, hx, hlanes, -⟩ := lanesWritten_load (s := s) (n := n) (fun e => lane (tyWidth f.ty.toNat)
    (tileLoad (tyWidth f.ty.toNat) (j.tile (topTile f.top)) (topDir f.top) (j.topIndex f.top)) e) hv hready
  exact ⟨_, x, runTileMove_load hat hlease hrange hready, hx, lanesWritten_congr hlanes fun e he => lane_tileLoad _ _ _ _ he⟩

/-- `tst`: the places of the enabled lanes hold the elements of V, and those of the others what they held (R143). -/
theorem exec_tst (hat : AtIssue s n .v j (.tst f) f.g (topRegs f.top) []) (hlease : j.tileLeased (topTile f.top) = false)
    (hrange : TileRange j f) (hready : j.bobbinGate (bobbinsOf [f.v.toNat]) [] = .ready) :
    ∃ u x, exec (.tst f) s = .next u ∧ u.job? n = some x ∧ x.v = j.v ∧ x.accs = j.accs ∧
      (∀ t, t ≠ topTile f.top → x.tile t = j.tile t) ∧
      ∀ e < 4096 / tyWidth f.ty.toNat, tileLane (tyWidth f.ty.toNat) (x.tile (topTile f.top)) (topDir f.top) (j.topIndex f.top) e =
        if (j.maskOf f.m.toNat f.k.toNat).testBit e then lane (tyWidth f.ty.toNat) (j.vsource f.ty.toNat 0 0 f.v.toNat) e
        else tileLane (tyWidth f.ty.toNat) (j.tile (topTile f.top)) (topDir f.top) (j.topIndex f.top) e := by
  obtain ⟨-, hw⟩ := legal_vs (List.append_eq_nil_iff.1 hat.legal).1
  obtain ⟨x, hx, hkept, -⟩ := job_issued s n .v ((bobbinsOf [f.v.toNat]).foldl (·.popBobbin) (j.setTile (topTile f.top)
    (tileStore (tyWidth f.ty.toNat) (j.tile (topTile f.top)) (topDir f.top) (j.topIndex f.top) (j.maskOf f.m.toNat f.k.toNat)
      (j.vsource f.ty.toNat 0 0 f.v.toNat))))
  have hfiles := (sameFiles_pops _ _).trans (sameFiles_of_kept hkept)
  refine ⟨_, x, runTileMove_store hat hlease hrange hready, hx, hfiles.vregs, hfiles.accs, fun t ht => ?_, fun e he => ?_⟩
  · rw [hfiles.tile, tile_setTile, if_neg ht.symm]
  · rw [hfiles.tile, tile_setTile, if_pos rfl, tileLane_tileStore hw hrange _ _ _ he]

/-- `tzero` clears its tile, or traps where the tile is leased. -/
theorem exec_tzero (hat : AtIssue s n .v j (.tzero f) f.g [] []) :
    (j.tileLeased (topTile f.top) = false → exec (.tzero f) s = .next (s.issued n .v (j.setTile (topTile f.top) 0))) ∧
    (j.tileLeased (topTile f.top) = true → j.trapHeld .v = false →
      exec (.tzero f) s = .next ((s.takeTrap n .v (trap 0x04 0 (topTile f.top))).unstalled n .v)) :=
  ⟨fun hlease => runWord_done hat (by simp only [hlease, Bool.false_eq_true, if_false]),
    fun hlease hheld => runWord_trap hat hheld (by simp only [hlease, if_true])⟩

end

/-! ## The moves together -/

/-- Settles O37: the six scratchpad moves through `PadMove`, the tile moves through the fields of a tile that a register's lanes stand in. -/
theorem vectorMoves : Obligations.VectorMoves := by
  unfold Obligations.VectorMoves
  refine ⟨?pad, ?tile⟩
  case pad =>
    intro s n j f i codes step t w size mask
    have hmask : mask = j.maskOf f.m.toNat f.k.toNat := (ite_bit ..).symm
    clear_value mask
    subst hmask
    intro es base idx index read off linear strided gathered load store srcs bad out traps hform hat hloadReady hstoreReady
    have hway : ∃ load, PadMove j i f load (codes.map BitVec.toNat) off ∧
        j.bobbinGate srcs (if load then bobbinsOf [f.v.toNat] else []) = .ready := by
      rcases hform with hload | hstore
      · exact ⟨true, padMove_of_load hload, hloadReady hload⟩
      · exact ⟨false, padMove_of_store hstore, hstoreReady hstore⟩
    obtain ⟨way, hmove, hready⟩ := hway
    refine ⟨fun hbad hout hstall => ⟨fun hload => ?_, fun hstore => ?_⟩, fun o ho hleast hheld => ?_, fun o ho hbad hleast hheld => ?_⟩
    · exact (padMove_of_load hload).loads hat hbad hout hstall (hloadReady hload)
    · exact (padMove_of_store hstore).stores hat hbad hout hstall (hstoreReady hstore)
    · exact hmove.misaligned hat hready ho hleast hheld
    · exact hmove.outside hat hready hbad ho hleast hheld
  case tile =>
    intro s n j f w mask
    have hmask : mask = j.maskOf f.m.toNat f.k.toNat := (ite_bit ..).symm
    clear_value mask
    subst hmask
    intro t d x0 inRange traps
    refine ⟨fun i hi hat => ?traps, exec_tld, exec_tst, exec_tzero⟩
    have hruns : ∃ load, exec i s = runTileMove i f load s := by
      simp only [List.mem_cons, List.not_mem_nil, or_false] at hi
      rcases hi with rfl | rfl
      · exact ⟨true, rfl⟩
      · exact ⟨false, rfl⟩
    obtain ⟨load, hrun⟩ := hruns
    exact ⟨fun hlease hheld => hrun.trans (runTileMove_leased hat hlease hheld),
      fun hlease hout hheld => hrun.trans (runTileMove_outside hat hlease hout hheld)⟩

end Sys2Proof.Proofs

/-! # Control blocks (13_context_tables.md): firmware's writes, contracts, retirement, installation (R23, R24, R36, R328 to R332, R336, R340, R341) -/

namespace Sys2Proof.Proofs
open Sys2Proof.Machine

/-! ## Fields of a word, bit by bit -/

theorem testBit_bits (x hi lo i : Nat) : (bits x hi lo).testBit i = (decide (i < hi + 1 - lo) && x.testBit (lo + i)) := by
  simp [bits]

/-- What a word holds once one of its fields has been replaced: the field's bits there, its own elsewhere. -/
theorem testBit_putBits (x hi lo v i : Nat) :
    (putBits x hi lo v).testBit i = if lo ≤ i ∧ i ≤ hi then v.testBit (i - lo) else x.testBit i := by
  have hfield : putBits x hi lo v = 2 ^ lo * (2 ^ (hi + 1 - lo) * (x / 2 ^ (lo + (hi + 1 - lo))) + v % 2 ^ (hi + 1 - lo)) + x % 2 ^ lo :=
    putField_eq (hi + 1 - lo) x lo _
  rw [hfield, Nat.testBit_two_pow_mul_add _ (Nat.mod_lt _ (Nat.two_pow_pos lo))]
  by_cases hlow : i < lo
  · simp [hlow, show ¬ lo ≤ i by omega]
  · rw [if_neg hlow, Nat.testBit_two_pow_mul_add _ (Nat.mod_lt _ (Nat.two_pow_pos _))]
    by_cases hin : i ≤ hi
    · simp [hin, show i - lo < hi + 1 - lo by omega, show lo ≤ i by omega]
    · rw [if_neg (by omega), if_neg (by omega), Nat.testBit_div_two_pow, show i - lo - (hi + 1 - lo) + (lo + (hi + 1 - lo)) = i by omega]

/-- Two words that agree in the bits of a field hold the same there. -/
theorem bits_congr {x y hi lo : Nat} (h : ∀ i, lo ≤ i → i ≤ hi → x.testBit i = y.testBit i) : bits x hi lo = bits y hi lo := by
  apply Nat.eq_of_testBit_eq
  intro i
  by_cases hi' : i < hi + 1 - lo
  · simp [testBit_bits, hi', h (lo + i) (by omega) (by omega)]
  · simp [testBit_bits, hi']

theorem bits_putBits_same (x hi lo v : Nat) : bits (putBits x hi lo v) hi lo = v % 2 ^ (hi + 1 - lo) := by
  apply Nat.eq_of_testBit_eq
  intro i
  rw [testBit_bits, testBit_putBits, Nat.testBit_mod_two_pow]
  by_cases h : i < hi + 1 - lo
  · simp [h, show lo + i ≤ hi by omega]
  · simp [h]

theorem bits_putBits_apart {x hi lo v hi' lo' : Nat} (h : hi' < lo ∨ hi < lo') : bits (putBits x hi lo v) hi' lo' = bits x hi' lo' :=
  bits_congr fun i h1 h2 => by rw [testBit_putBits, if_neg (by omega)]

theorem putBits_lt {x hi lo v n : Nat} (hx : x < 2 ^ n) (hhi : hi < n) : putBits x hi lo v < 2 ^ n := by
  apply Nat.lt_pow_two_of_testBit
  intro i hi
  rw [testBit_putBits, if_neg (by omega), Nat.testBit_lt_two_pow (hx.trans_le (Nat.pow_le_pow_right Nat.two_pos hi))]

theorem bits_eq_div_mod (x hi lo : Nat) : bits x hi lo = x / 2 ^ lo % 2 ^ (hi + 1 - lo) := by
  rw [bits, Nat.shiftRight_eq_div_pow]

/-- The top field of a word is not zero where the word reaches it. -/
theorem bits_top_ne_zero {v lo : Nat} (hlo : lo < 64) (h : 2 ^ lo ≤ v) (hv : v < 2 ^ 64) : bits v 63 lo ≠ 0 := by
  have hdiv : v / 2 ^ lo < 2 ^ (64 - lo) := Nat.div_lt_of_lt_mul (by rwa [← pow_add, Nat.add_sub_cancel' hlo.le])
  rw [bits_eq_div_mod, Nat.mod_eq_of_lt hdiv]
  exact (Nat.div_pos h (Nat.two_pow_pos lo)).ne'

theorem bits_whole {v : Nat} (h : v < 2 ^ 64) : bits v 63 0 = v := by
  rw [bits_eq_div_mod, pow_zero, Nat.div_one, Nat.mod_eq_of_lt h]

theorem bits_top_zero {v hi lo : Nat} (h : v < 2 ^ lo) : bits v hi lo = 0 := by
  rw [bits_eq_div_mod, Nat.div_eq_of_lt h, Nat.zero_mod]

theorem fieldNat_lt (bs : List Byte) (off n : Nat) : fieldNat bs off n < 256 ^ n :=
  (leNat_lt _).trans_le (Nat.pow_le_pow_right (by decide) (by simp))

/-! ## Words of a control block -/

theorem blk_lt (s : State) (b o : Nat) : s.blk b o < 2 ^ 64 := BitVec.isLt _

theorem blk_congr {s t : State} (h : t.blocks = s.blocks) (b o : Nat) : t.blk b o = s.blk b o := by
  simp only [State.blk, State.block, h]

theorem ctxState_congr {s t : State} (h : t.blocks = s.blocks) (c : Nat) : t.ctxState c = s.ctxState c := by
  rw [State.ctxState, State.ctxState, State.blkBits, State.blkBits, blk_congr h]

/-- A field of a block lies in one word. -/
theorem blk_word (s : State) (b o : Nat) : s.blk b (8 * (o / 8)) = s.blk b o := by
  rw [State.blk, State.blk, Nat.mul_div_cancel_left _ (by decide)]

theorem blk_setBlkBits (s : State) {hi : Nat} (hhi : hi < 64) (c off lo v b o : Nat) :
    (s.setBlkBits c off hi lo v).blk b o = if c = b ∧ off / 8 = o / 8 then putBits (s.blk c off) hi lo v else s.blk b o := by
  rw [State.setBlkBits, State.blk_setBlk, Nat.mod_eq_of_lt (putBits_lt (blk_lt s c off) hhi)]

theorem ctxState_setCtxState (s : State) (c st : Nat) : (s.setCtxState c st).ctxState c = st % 2 ^ 3 := by
  rw [State.ctxState, State.blkBits, State.setCtxState, blk_setBlkBits s (by decide), if_pos ⟨rfl, rfl⟩, bits_putBits_same]

/-- A field a fold leaves at every step is as it was. -/
theorem foldl_keeps {σ α β : Type} (g : σ → β) (f : σ → α → σ) (l : List α) (s : σ) (h : ∀ a ∈ l, ∀ t, g (f t a) = g t) :
    g (l.foldl f s) = g s := by
  induction l generalizing s with
  | nil => rfl
  | cons a l ih => rw [List.foldl_cons, ih _ fun b hb => h b (List.mem_cons_of_mem a hb), h a List.mem_cons_self]

/-! ## What a write covers -/

/-- Every word of a write lies at a word's offset. -/
def Aligned (w : BlockWrite) : Prop := ∀ p ∈ w, p.1 % 8 = 0

/-- A write with word 0, CTL, changed: what `withoutTerms` and an installation make of one. -/
def changeCtl (f : Nat → Nat) (w : BlockWrite) : BlockWrite := w.map fun p => if p.1 = 0 then (0, f p.2) else p

theorem covers_iff {w : BlockWrite} {o : Nat} : w.covers o = true ↔ ∃ v, (o, v) ∈ w := by
  simp only [BlockWrite.covers, List.any_eq_true, decide_eq_true_eq, Prod.exists]
  exact ⟨fun ⟨_, v, hm, he⟩ => ⟨v, he ▸ hm⟩, fun ⟨v, hm⟩ => ⟨o, v, hm, rfl⟩⟩

theorem covers_cons (p : Nat × Nat) (w : BlockWrite) (o : Nat) : BlockWrite.covers (p :: w) o = (decide (p.1 = o) || w.covers o) := rfl

theorem raw_cons (p : Nat × Nat) (w : BlockWrite) (o : Nat) : BlockWrite.raw (p :: w) o = if p.1 = o then p.2 else w.raw o := by
  by_cases h : p.1 = o <;> simp [BlockWrite.raw, h]

theorem raw_mem {w : BlockWrite} {o : Nat} (h : w.covers o = true) : (o, w.raw o) ∈ w := by
  induction w with
  | nil => simp [BlockWrite.covers] at h
  | cons p w ih =>
    rw [raw_cons]
    by_cases hp : p.1 = o
    · simp [← hp]
    · simp only [hp, if_false]
      exact List.mem_cons_of_mem p (ih (by simpa [covers_cons, hp] using h))

theorem covers_changeCtl (f : Nat → Nat) (w : BlockWrite) (o : Nat) : (changeCtl f w).covers o = w.covers o := by
  induction w with
  | nil => rfl
  | cons p w ih =>
    rw [changeCtl, List.map_cons, ← changeCtl, covers_cons, covers_cons, ih]
    split <;> simp [*]

theorem raw_changeCtl_other (f : Nat → Nat) (w : BlockWrite) {o : Nat} (ho : o ≠ 0) : (changeCtl f w).raw o = w.raw o := by
  induction w with
  | nil => rfl
  | cons p w ih =>
    rw [changeCtl, List.map_cons, ← changeCtl, raw_cons, raw_cons, ih]
    split <;> simp [*, Ne.symm ho]

theorem raw_changeCtl_zero (f : Nat → Nat) (w : BlockWrite) (h : w.covers 0 = true) : (changeCtl f w).raw 0 = f (w.raw 0) := by
  induction w with
  | nil => simp [BlockWrite.covers] at h
  | cons p w ih =>
    rw [changeCtl, List.map_cons, ← changeCtl, raw_cons, raw_cons]
    by_cases hp : p.1 = 0
    · simp [hp]
    · simp only [hp, if_false]
      exact ih (by simpa [covers_cons, hp] using h)

theorem aligned_changeCtl {f : Nat → Nat} {w : BlockWrite} (h : Aligned w) : Aligned (changeCtl f w) := by
  intro p hp
  obtain ⟨q, hq, rfl⟩ := List.mem_map.1 hp
  split
  · rfl
  · exact h q hq

/-- A list of words filtered by offset covers, and holds, what it did at an offset that passes. -/
theorem covers_filter {w : BlockWrite} {f : Nat → Bool} {o : Nat} : BlockWrite.covers (w.filter fun p => f p.1) o = (f o && w.covers o) := by
  rw [Bool.eq_iff_iff, covers_iff]
  simp [covers_iff, and_comm]

theorem raw_filter {w : BlockWrite} {f : Nat → Bool} {o : Nat} (ho : f o = true) : BlockWrite.raw (w.filter fun p => f p.1) o = w.raw o := by
  induction w with
  | nil => rfl
  | cons p w ih =>
    rw [List.filter_cons, raw_cons]
    by_cases hp : p.1 = o
    · simp [hp, ho, raw_cons]
    · by_cases hf : f p.1 = true
      · rw [if_pos hf, raw_cons, ih]
      · rw [if_neg hf, ih, if_neg hp]

/-- The words of a run of bytes. -/
theorem covers_blockWords {off : Nat} {bs : List Byte} {k : Nat} (hk : k < bs.length / 8) : (blockWords off bs).covers (off + 8 * k) = true :=
  covers_iff.2 ⟨_, List.mem_map.2 ⟨k, List.mem_range.2 hk, rfl⟩⟩

theorem raw_blockWords {off : Nat} {bs : List Byte} {k : Nat} (hk : k < bs.length / 8) :
    (blockWords off bs).raw (off + 8 * k) = fieldNat bs (8 * k) 8 := by
  obtain ⟨m, _, hm⟩ := List.mem_map.1 (raw_mem (covers_blockWords (off := off) hk))
  obtain ⟨hoff, hraw⟩ := Prod.mk.inj hm
  obtain rfl : m = k := by omega
  exact hraw.symm

theorem aligned_blockWords {off : Nat} (h : off % 8 = 0) (bs : List Byte) : Aligned (blockWords off bs) := by
  intro p hp
  obtain ⟨k, _, rfl⟩ := List.mem_map.1 hp
  simp only
  omega

/-! ## What a word is after a write -/

section
variable {s : State} {c : Nat} {w : BlockWrite}

theorem merged_of_not_covers {o : Nat} (h : w.covers o = false) : s.merged c w o = s.blk c o := by
  simp [State.merged, h]

/-- A bit of a written word is the write's where firmware sets it, else what it was. -/
theorem testBit_merged {o : Nat} (h : w.covers o = true) (i : Nat) :
    (s.merged c w o).testBit i = if (blockWritable o).testBit i then (w.raw o).testBit i else (s.blk c o).testBit i := by
  simp only [State.merged, h, if_true, Nat.testBit_xor, Nat.testBit_and]
  cases (blockWritable o).testBit i <;> cases (w.raw o).testBit i <;> cases (s.blk c o).testBit i <;> rfl

/-- Firmware sets the whole of the words from QUEUE to CTERMS1. -/
theorem merged_whole {o : Nat} (h : w.covers o = true) (ho : 0x10 ≤ o ∧ o ≤ 0x60) : s.merged c w o = w.raw o % 2 ^ 64 := by
  apply Nat.eq_of_testBit_eq
  intro i
  have hall : blockWritable o = 2 ^ 64 - 1 := by simp [blockWritable, ho, show o ≠ 0 by omega]
  rw [testBit_merged h, hall, Nat.testBit_two_pow_sub_one, Nat.testBit_mod_two_pow]
  by_cases hi : i < 64
  · simp [hi]
  · simp [hi, Nat.testBit_lt_two_pow ((blk_lt s c o).trans_le (Nat.pow_le_pow_right Nat.two_pos (Nat.not_lt.1 hi)))]

/-- Firmware sets no bit of the words the dispatchers own. -/
theorem merged_of_not_writable {o : Nat} (h : blockWritable o = 0) : s.merged c w o = s.blk c o := by
  unfold State.merged
  split <;> simp [h]

theorem merged_lt (o : Nat) : s.merged c w o < 2 ^ 64 := by
  have hbound : blockWritable o < 2 ^ 64 := by
    unfold blockWritable
    split_ifs <;> decide
  unfold State.merged
  split
  · exact Nat.xor_lt_two_pow (blk_lt s c o) (Nat.and_lt_two_pow _ hbound)
  · exact blk_lt s c o

/-! ## The words of a write in their block -/

/-- The words of a write laid into the block: the first part of `putBlock`. -/
def putWords (s : State) (c : Nat) (w : BlockWrite) : State := w.foldl (fun (t : State) p => t.setBlk c p.1 (s.merged c w p.1)) s

/-- A fold of aligned words leaves each at its value, and every other word. -/
theorem blk_foldl_setBlk (f : Nat → Nat) (hf : ∀ o, f o < 2 ^ 64) {l : BlockWrite} (hl : Aligned l) (t : State) (b : Nat) {o : Nat} (ho : o % 8 = 0) :
    (l.foldl (fun (t : State) p => t.setBlk c p.1 (f p.1)) t).blk b o = if c = b ∧ l.covers o = true then f o else t.blk b o := by
  induction l generalizing t with
  | nil => simp [BlockWrite.covers]
  | cons p l ih =>
    have hp : p.1 % 8 = 0 := hl p List.mem_cons_self
    rw [List.foldl_cons, ih (fun q hq => hl q (List.mem_cons_of_mem p hq)), State.blk_setBlk, covers_cons, Nat.mod_eq_of_lt (hf p.1)]
    by_cases he : p.1 = o
    · subst he
      by_cases hb : c = b <;> simp [hb]
    · simp [he, show p.1 / 8 ≠ o / 8 by omega]

theorem blk_putWords (hw : Aligned w) (b o : Nat) :
    (putWords s c w).blk b o = if c = b then s.merged c w (8 * (o / 8)) else s.blk b o := by
  rw [← blk_word, ← blk_word s, putWords, blk_foldl_setBlk _ merged_lt hw _ _ (Nat.mul_mod_right 8 _)]
  by_cases hb : c = b
  · subst hb
    cases hc : w.covers (8 * (o / 8)) with
    | true => simp
    | false => simp [merged_of_not_covers hc]
  · simp [hb]

/-- The routine-map entries a write covers are resolved, and nothing else changes. -/
theorem blk_resolveWritten (t : State) {b o : Nat} (h : c = b → ∀ m < 16, w.covers (0xC0 + 8 * m) = true → o / 8 ≠ 0x18 + m) :
    (t.resolveWritten c w).blk b o = t.blk b o := by
  refine foldl_keeps (State.blk · b o) _ _ _ fun m hm u => ?_
  split
  case isTrue hc =>
    rw [State.resolveEntry, State.blk_setBlk, if_neg]
    rintro ⟨hb, ho⟩
    exact h hb m (List.mem_range.1 hm) hc (by omega)
  case isFalse => rfl

/-- The block once its contract has been admitted: ADMIT is set and RELEASE is now (R340). -/
theorem blk_admitCtx (t : State) (b o : Nat) : (t.admitCtx c).blk b o =
    if c = b ∧ 0x70 / 8 = o / 8 then t.cycle (homeDie c) % 2 ^ 64
    else if c = b ∧ 0 / 8 = o / 8 then putBits (t.blk c 0) 56 56 1 else t.blk b o := by
  have hcycle : (t.setBlkBits c 0 56 56 1).cycle (homeDie c) = t.cycle (homeDie c) := by
    simp only [State.cycle, State.setBlkBits_clock, State.setBlkBits_resets]
  rw [State.admitCtx, blk_congr (State.updExtra_blocks ..), State.blk_setBlk, blk_setBlkBits _ (by decide), Nat.mod_mod]

theorem putBlock_of_submits (h : s.submits c w = true) : s.putBlock c w = ((putWords s c w).admitCtx c).resolveWritten c w := by
  simp only [State.putBlock, h, if_true]
  rfl

theorem putBlock_of_not_submits (h : s.submits c w = false) :
    s.putBlock c w = (if bit ((putWords s c w).blk c 0) 57 then putWords s c w else (putWords s c w).setBlkBits c 0 56 56 0).resolveWritten c w := by
  simp only [State.putBlock, h, Bool.false_eq_true, if_false]
  rfl

/-- A field of the state that no write of a word and no change of the extras touches is as it was after a write of a block. -/
theorem putBlock_keeps {β : Type} (g : State → β) (hblk : ∀ t n o v, g (State.setBlk t n o v) = g t)
    (hextra : ∀ t n x, g (State.setExtra t n x) = g t) : g (s.putBlock c w) = g s := by
  have hwords : g (putWords s c w) = g s := foldl_keeps g _ _ _ fun p _ t => hblk ..
  have hresolve (t : State) : g (t.resolveWritten c w) = g t := foldl_keeps g _ _ _ fun m _ u => by
    split
    · exact hblk ..
    · rfl
  cases h : s.submits c w with
  | true => rw [putBlock_of_submits h, hresolve, State.admitCtx, State.updExtra, hextra, hblk, State.setBlkBits, hblk, hwords]
  | false =>
    rw [putBlock_of_not_submits h, hresolve]
    split
    · exact hwords
    · rw [State.setBlkBits, hblk, hwords]

@[simp] theorem putBlock_mem : (s.putBlock c w).mem = s.mem := putBlock_keeps State.mem (fun _ _ _ _ => rfl) fun _ _ _ => rfl

/-- A word below the dispatchers' holds after a write what the write makes of it. -/
theorem putBlock_blk_word (hw : Aligned w) {o : Nat} (ho : o % 8 = 0)
    (hplain : o ≠ 0 ∧ o ≠ 0x70 ∧ (o < 0xC0 ∨ 0x140 ≤ o)) : (s.putBlock c w).blk c o = s.merged c w o := by
  obtain ⟨h0, h70, hmap⟩ := hplain
  have hwords : (putWords s c w).blk c o = s.merged c w o := by
    rw [blk_putWords hw, if_pos rfl, Nat.mul_div_cancel' (Nat.dvd_of_mod_eq_zero ho)]
  have hresolve (t : State) : (t.resolveWritten c w).blk c o = t.blk c o := blk_resolveWritten t fun _ m hm _ => by omega
  cases h : s.submits c w with
  | true => rw [putBlock_of_submits h, hresolve, blk_admitCtx, if_neg (by omega), if_neg (by omega), hwords]
  | false =>
    rw [putBlock_of_not_submits h, hresolve]
    split
    · exact hwords
    · rw [blk_setBlkBits _ (by decide), if_neg (by omega), hwords]

/-- CTL after a write: ADMIT apart, what the write makes of it. -/
theorem putBlock_testBit_ctl (hw : Aligned w) {i : Nat} (hi : i ≠ 56) : ((s.putBlock c w).blk c 0).testBit i = (s.merged c w 0).testBit i := by
  have hwords : (putWords s c w).blk c 0 = s.merged c w 0 := by rw [blk_putWords hw, if_pos rfl]
  have hresolve (t : State) : (t.resolveWritten c w).blk c 0 = t.blk c 0 := blk_resolveWritten t fun _ m hm _ => by omega
  have hput (v : Nat) : (putBits (s.merged c w 0) 56 56 v).testBit i = (s.merged c w 0).testBit i := by rw [testBit_putBits, if_neg (by omega)]
  cases h : s.submits c w with
  | true => rw [putBlock_of_submits h, hresolve, blk_admitCtx, if_neg (by omega), if_pos ⟨rfl, rfl⟩, hwords, hput]
  | false =>
    rw [putBlock_of_not_submits h, hresolve]
    split
    · rw [hwords]
    · rw [blk_setBlkBits _ (by decide), if_pos ⟨rfl, rfl⟩, hwords, hput]

/-- An accepted submission admits the contract and releases its first period at once (R340). -/
theorem putBlock_submits (h : s.submits c w = true) (hmap : ∀ m < 16, w.covers (0xC0 + 8 * m) = false) :
    ((s.putBlock c w).blk c 0).testBit 56 = true ∧ (s.putBlock c w).blk c 0x70 = (s.clock + Config.dieOffset s.resets (homeDie c)) % 2 ^ 64 := by
  have hresolve (t : State) (o : Nat) : (t.resolveWritten c w).blk c o = t.blk c o :=
    blk_resolveWritten t fun _ m hm hcov => absurd hcov (by simp [hmap m hm])
  have hcycle : (putWords s c w).cycle (homeDie c) = s.cycle (homeDie c) :=
    foldl_keeps (State.cycle · (homeDie c)) _ _ _ fun _ _ _ => rfl
  rw [putBlock_of_submits h, hresolve, hresolve, blk_admitCtx, blk_admitCtx, if_neg (by omega), if_pos ⟨rfl, rfl⟩, if_pos ⟨rfl, rfl⟩,
    testBit_putBits, hcycle]
  exact ⟨by simp, rfl⟩

/-- A write that leaves CONTRACT clear leaves no contract admitted. -/
theorem putBlock_not_admitted (hw : Aligned w) (h : (s.merged c w 0).testBit 57 = false) : ((s.putBlock c w).blk c 0).testBit 56 = false := by
  have hsub : s.submits c w = false := by simp [State.submits, bit, h]
  have hwords : (putWords s c w).blk c 0 = s.merged c w 0 := by rw [blk_putWords hw, if_pos rfl]
  rw [putBlock_of_not_submits hsub, blk_resolveWritten _ fun _ m hm _ => by omega, hwords, bit, h, if_neg (by decide), blk_setBlkBits _ (by decide),
    if_pos ⟨rfl, rfl⟩, testBit_putBits]
  simp

/-- What a write that submits nothing does not cover stays, CTL apart. -/
theorem putBlock_blk_other (hw : Aligned w) (hsub : s.submits c w = false) {b o : Nat}
    (h : b ≠ c ∨ (o / 8 ≠ 0 ∧ w.covers (8 * (o / 8)) = false)) : (s.putBlock c w).blk b o = s.blk b o := by
  have hresolve (t : State) : (t.resolveWritten c w).blk b o = t.blk b o := blk_resolveWritten t fun hb m hm hcov ho => by
    obtain hb' | ⟨_, hnot⟩ := h
    · exact hb' hb.symm
    · rw [ho, Nat.mul_add, hcov] at hnot
      cases hnot
  have hwords : (putWords s c w).blk b o = s.blk b o := by
    rw [blk_putWords hw]
    split
    case isTrue hb =>
      subst hb
      rw [merged_of_not_covers (h.resolve_left (by simp)).2, blk_word]
    case isFalse => rfl
  rw [putBlock_of_not_submits hsub, hresolve]
  split
  · exact hwords
  · rw [blk_setBlkBits _ (by decide), if_neg, hwords]
    rintro ⟨rfl, ho⟩
    exact (h.resolve_left (by simp)).1 ho.symm

end

/-! ## Firmware commands at their turn -/

/-- The command of row `i`, whose turn it is, leaves `u` and its ring. -/
def RunsTo (s : State) (i : Instr) (u : State) : Prop := s.ringTurn ⟨i, s.input⟩ = true → exec i s = .next (u.ringDone ⟨i, s.input⟩)

/-- The command of row `i`, whose turn it is, leaves `u` and keeps its place in its ring. -/
def WaitsIn (s : State) (i : Instr) (u : State) : Prop := s.ringTurn ⟨i, s.input⟩ = true → exec i s = .next (u.ringWait ⟨i, s.input⟩)

theorem runsTo_of_done {s : State} {i : Instr} {f : Input → Ran} {u : State} (hexec : exec i s = runCommand i s f) (hf : f s.input = .done u) :
    RunsTo s i u := fun hturn => hexec.trans (runCommand_done hturn hf)

theorem waitsIn_of_wait {s : State} {i : Instr} {f : Input → Ran} {u : State} (hexec : exec i s = runCommand i s f) (hf : f s.input = .wait u) :
    WaitsIn s i u := fun hturn => hexec.trans (runCommand_wait hturn hf)

theorem runsTo_of_once {s : State} {i : Instr} {f : Input → State} {u : State} (hexec : exec i s = runAtOnce i s f) (hf : f s.input = u) :
    RunsTo s i u := runsTo_of_done hexec (congrArg Ran.done hf)

/-- A refusal of no stated reason has a reason that is not 0. -/
theorem refuse_reason (s : State) (command : String) : ∃ r, r ≠ 0 ∧ s.refuse command = s.respond command r [] :=
  ⟨_, by omega, rfl⟩

/-! ## What a write is refused for, in the order of R340 -/

section
variable {s : State} {c : Nat} {w : BlockWrite}

theorem newState_eq_none (h : w.covers 0 = true → bits (w.raw 0) 63 61 = s.ctxState c) : s.newState c w = none := by
  simp only [State.newState, ite_eq_right_iff, Bool.and_eq_true, decide_eq_true_eq, reduceCtorEq, imp_false]
  exact fun ⟨hcov, hne⟩ => hne (h hcov)

theorem submits_eq_false (h : w.covers 0x58 = false) (h' : w.covers 0x60 = false) : s.submits c w = false := by simp [State.submits, h, h']

/-- A write that leaves CTL as it is, CONTRACT apart, and covers none of the words with locked fields changes no locked field. -/
theorem lockedChanged_eq_false (hctl : ∀ i, i ≠ 57 → (s.merged c w 0).testBit i = (s.blk c 0).testBit i)
    (hwords : ∀ o ∈ [0x18, 0x30, 0x48, 0x50], w.covers o = false) : s.lockedChanged c w = false := by
  have hzero (hi lo : Nat) (h : 57 < lo ∨ hi < 57) : bits (s.merged c w 0) hi lo = bits (s.blk c 0) hi lo :=
    bits_congr fun i h1 h2 => hctl i (by omega)
  have hkept (o : Nat) (ho : o ∈ [0x18, 0x30, 0x48, 0x50]) : s.merged c w o = s.blk c o := merged_of_not_covers (hwords o ho)
  simp [State.lockedChanged, hzero 47 32 (by omega), hzero 58 58 (by omega), hkept]

theorem writeLocked_eq_false (hnew : s.newState c w = none) (h : s.lockedChanged c w = false ∨ s.ctxState c = 0) : s.writeLocked c w = false := by
  rcases h with h | h <;> simp [State.writeLocked, hnew, h, stIdle]

theorem writeReason_locked (h : s.writeLocked c w = true) : s.writeReason c w = some 0x07 := by simp [State.writeReason, h]

theorem writeReason_invalid (h : s.writeLocked c w = false) (h' : s.writeInvalid c w = true) : s.writeReason c w = some 0x06 := by
  simp [State.writeReason, h, h']

theorem writeReason_none (h : s.writeLocked c w = false) (h' : s.writeInvalid c w = false) (hsub : s.submits c w = false)
    (hcost : w.covers 0x60 = false) : s.writeReason c w = none := by
  simp [State.writeReason, h, h', hsub, hcost]

/-- A submission that passes the tests of the fields meets those of its terms, of COST, of the table and of the cores. -/
theorem writeReason_submission (h : s.writeLocked c w = false) (h' : s.writeInvalid c w = false) (hsub : s.submits c w = true)
    (hcost : w.covers 0x60 = true) :
    let t := Terms.of (s.merged c w 0x58) (s.merged c w 0x60)
    s.writeReason c w =
      if 1 ≤ t.b ∧ t.b ≤ t.d ∧ t.d ≤ t.p then
        if (s.die (homeDie c)).bcap < bits (s.merged c w 0x60) 45 32 then some 0x05
        else if 256 ≤ s.tableCount c then some 0x04
        else s.admissionReason c w t
      else some 0x01 := by
  dsimp only [State.writeReason]
  generalize Terms.of (s.merged c w 0x58) (s.merged c w 0x60) = t
  by_cases hterms : 1 ≤ t.b ∧ t.b ≤ t.d ∧ t.d ≤ t.p
  · simp [h, h', hsub, hcost, hterms]
  · have hbad : (decide (1 ≤ t.b) && decide (t.b ≤ t.d) && decide (t.d ≤ t.p)) = false := by
      rw [Bool.eq_false_iff]
      simpa [and_assoc] using hterms
    simp only [h, h', hsub, hbad, hterms, Bool.false_eq_true, if_false, Bool.true_and, Bool.not_false, if_true]

/-- Every reason is one of R340's. -/
theorem writeReason_pos {r : Nat} (h : s.writeReason c w = some r) : 1 ≤ r := by
  have hadm {x : Nat} {t : Terms} (ha : s.admissionReason c w t = some x) : 1 ≤ x := by
    simp only [State.admissionReason] at ha
    split_ifs at ha <;> cases ha <;> decide
  simp only [State.writeReason] at h
  split_ifs at h
  on_goal -1 => exact hadm h
  all_goals
    cases h
    decide

/-! ## Writes carried out -/

theorem carryWrite_of_newState_none (h : s.newState c w = none) : s.carryWrite c w = some (s.putBlock c w) := by simp [State.carryWrite, h]

theorem writeBlock_refused {r : Nat} (command : String) (h : s.writeReason c w = some r) :
    s.writeBlock command c w = .done (s.respond command r []) := by simp [State.writeBlock, h]

theorem writeBlock_accepted (command : String) (h : s.writeReason c w = none) (hnew : s.newState c w = none) :
    s.writeBlock command c w = .done ((s.putBlock c w).respond command 0 []) := by
  simp [State.writeBlock, h, carryWrite_of_newState_none hnew]

theorem writeFields_accepted (command : String) (h : s.writeReason c w = none) (hnew : s.newState c w = none) :
    s.writeFields command c w = .done ((s.putBlock c w).respond command 0 []) := by
  simp [State.writeFields, h, writeBlock_accepted command h hnew]

theorem writeFields_refused {r : Nat} (command : String) (h : s.writeReason c w = some r) (hr : 4 < r) :
    s.writeFields command c w = .done (s.respond command r []) := by
  simp [State.writeFields, h, show ¬ r ≤ 4 by omega]

/-- A write refused for its terms alone leaves its other fields (R340). -/
theorem writeFields_terms {r : Nat} (command : String) (h : s.writeReason c w = some r) (hr : r ≤ 4) (hnew : s.newState c (s.withoutTerms c w) = none) :
    s.writeFields command c w = .done ((s.putBlock c (s.withoutTerms c w)).respond command r []) := by
  simp [State.writeFields, h, hr, Nat.one_le_iff_ne_zero.1 (writeReason_pos h), carryWrite_of_newState_none hnew]

end

/-! ## Writes of one word -/

section
variable {s : State} {c o v : Nat}

theorem covers_single (o' : Nat) : BlockWrite.covers [(o, v)] o' = decide (o = o') := by simp [BlockWrite.covers]

theorem raw_single : BlockWrite.raw [(o, v)] o = v := by simp [raw_cons]

theorem blockWords_single {bs : List Byte} (h : bs.length = 8) : blockWords o bs = [(o, fieldNat bs 0 8)] := by simp [blockWords, h]

theorem merged_single (ho : 0x10 ≤ o ∧ o ≤ 0x60) (hv : v < 2 ^ 64) : s.merged c [(o, v)] o = v := by
  rw [merged_whole (by simp [covers_single]) ho, raw_single, Nat.mod_eq_of_lt hv]

theorem newState_single (ho : o ≠ 0) : s.newState c [(o, v)] = none := newState_eq_none (by simp [covers_single, ho])

/-- A word beside CTL, SCHED and the terms is invalid for its own fields alone. -/
theorem writeInvalid_single (ho : o ∉ [0, 0x50, 0x58, 0x60]) : s.writeInvalid c [(o, v)] =
    ((blockReserved o).any (fun r => decide (bits v r.1 r.2 ≠ 0)) || blockFieldBad o (s.merged c [(o, v)] o)) := by
  simp only [List.mem_cons, List.not_mem_nil, or_false, not_or] at ho
  simp [State.writeInvalid, State.submits, covers_single, ho]

theorem writeLocked_single (ho : o ∉ [0, 0x18, 0x30, 0x48, 0x50]) : s.writeLocked c [(o, v)] = false := by
  simp only [List.mem_cons, List.not_mem_nil, or_false, not_or] at ho
  refine writeLocked_eq_false (newState_single ho.1) (.inl (lockedChanged_eq_false (fun i _ => ?_) ?_))
  · rw [merged_of_not_covers (by simp [covers_single, ho])]
  · simp [covers_single, ho]

/-- An address below 2^52 is accepted (R330). -/
theorem writeReason_address (ho : o ∈ [0x10, 0x28, 0x38]) (hv : v < 2 ^ 52) : s.writeReason c [(o, v)] = none := by
  simp only [List.mem_cons, List.not_mem_nil, or_false] at ho
  refine writeReason_none (writeLocked_single (by simp; omega)) ?_ (submits_eq_false ?_ ?_) ?_
  · rw [writeInvalid_single (by simp; omega)]
    rcases ho with rfl | rfl | rfl <;> simp [blockReserved, blockFieldBad, bits_top_zero hv]
  all_goals simp [covers_single]; omega

theorem writeReason_address_large (ho : o ∈ [0x10, 0x28, 0x38]) (hv : 2 ^ 52 ≤ v) (hv' : v < 2 ^ 64) : s.writeReason c [(o, v)] = some 6 := by
  have htop : bits v 63 52 ≠ 0 := bits_top_ne_zero (by decide) hv hv'
  simp only [List.mem_cons, List.not_mem_nil, or_false] at ho
  refine writeReason_invalid (writeLocked_single (by simp; omega)) ?_
  rw [writeInvalid_single (by simp; omega)]
  rcases ho with rfl | rfl | rfl <;> simp [blockReserved, htop]

/-- A locked word of a block that is neither idle nor retired keeps its value (R332). -/
theorem writeReason_lockedWord (ho : o ∈ [0x18, 0x30, 0x48]) (hv : v < 2 ^ 64) (hidle : s.ctxState c ≠ 0) (hret : s.ctxState c ≠ 5)
    (hne : v ≠ s.blk c o) : s.writeReason c [(o, v)] = some 7 := by
  have hdiff : bits (s.merged c [(o, v)] o) 63 0 ≠ bits (s.blk c o) 63 0 := by
    rw [merged_single (by simp at ho; omega) hv, bits_whole hv, bits_whole (blk_lt s c o)]
    exact hne
  have hchanged : s.lockedChanged c [(o, v)] = true := by
    simp only [List.mem_cons, List.not_mem_nil, or_false] at ho
    rcases ho with rfl | rfl | rfl <;> simp [State.lockedChanged, hdiff]
  exact writeReason_locked (by simp [State.writeLocked, hchanged, stIdle, stRetired, hidle, hret])

/-- The word of the entry sets of an idle block, out of its range (R330). -/
theorem writeReason_entrySets (hidle : s.ctxState c = 0) (hv : v < 2 ^ 64) (hbad : v % 64 ≠ 0 ∨ v / 2 ^ 52 % 256 < 2 ∨ 2 ^ 60 ≤ v) :
    s.writeReason c [(0x18, v)] = some 6 := by
  refine writeReason_invalid (writeLocked_eq_false (newState_single (by decide)) (.inr hidle)) ?_
  rw [writeInvalid_single (by decide), merged_single (by decide) hv]
  rcases hbad with h | h | h
  · simp [blockFieldBad, h]
  · have hsets : bits v 59 52 < 2 := by rw [bits_eq_div_mod]; exact h
    simp [blockFieldBad, hsets]
  · simp [blockReserved, bits_top_ne_zero (by decide) h hv]

end

/-! ## Contracts (R340, R341) -/

section
variable {s : State} {c v : Nat} {w rest : BlockWrite}

/-- The fields of a block a write of CTL leaves are ones that firmware may write: SHAPE, PLACE and POS agree, WID is not 0, the reserved
fields are 0. -/
def LegalBlock (s : State) (c : Nat) : Prop :=
  placementLegal (s.blkBits c 0 47 44) (s.blkBits c 0x50 42 40) (s.blkBits c 0x50 39 36) = true ∧ s.ctxWid c ≠ 0 ∧
    s.blkBits c 0 54 52 = 0 ∧ s.blkBits c 0 31 8 = 0

/-- A write of CTL with CONTRACT alone changed, and of further words, none of which has a locked field or the group's place. -/
structure ContractWrite (s : State) (c v : Nat) (w rest : BlockWrite) : Prop where
  eq : w = (0, putBits (s.blk c 0) 57 57 v) :: rest
  plain : ∀ o ∈ [0x18, 0x30, 0x48, 0x50], w.covers o = false

namespace ContractWrite

theorem covers_ctl (h : ContractWrite s c v w rest) : w.covers 0 = true := by rw [h.eq, covers_cons]; rfl

theorem raw_ctl (h : ContractWrite s c v w rest) : w.raw 0 = putBits (s.blk c 0) 57 57 v := by rw [h.eq, raw_cons, if_pos rfl]

/-- Firmware sets CONTRACT, and writes the rest of CTL as it is. -/
theorem merged_ctl (h : ContractWrite s c v w rest) : s.merged c w 0 = putBits (s.blk c 0) 57 57 v := by
  apply Nat.eq_of_testBit_eq
  intro i
  rw [testBit_merged h.covers_ctl, h.raw_ctl, testBit_putBits]
  by_cases hi : 57 ≤ i ∧ i ≤ 57
  · obtain rfl : i = 57 := by omega
    rfl
  · simp [hi]

theorem merged_bits (h : ContractWrite s c v w rest) {hi lo : Nat} (hapart : hi < 57 ∨ 57 < lo) :
    bits (s.merged c w 0) hi lo = s.blkBits c 0 hi lo := by
  rw [h.merged_ctl, bits_putBits_apart hapart, State.blkBits]

theorem merged_contract (h : ContractWrite s c v w rest) : (s.merged c w 0).testBit 57 = decide (v % 2 = 1) := by
  rw [h.merged_ctl, testBit_putBits]
  simp

theorem newState (h : ContractWrite s c v w rest) : s.newState c w = none :=
  newState_eq_none fun _ => by rw [h.raw_ctl, bits_putBits_apart (by decide), State.ctxState, State.blkBits]

theorem writeLocked (h : ContractWrite s c v w rest) : s.writeLocked c w = false :=
  writeLocked_eq_false h.newState (.inl (lockedChanged_eq_false
    (fun i hi => by rw [h.merged_ctl, testBit_putBits, if_neg (by omega)]) h.plain))

theorem merged_sched (h : ContractWrite s c v w rest) : s.merged c w 0x50 = s.blk c 0x50 := merged_of_not_covers (h.plain 0x50 (by simp))

theorem writeInvalid (h : ContractWrite s c v w rest) (hlegal : LegalBlock s c) (hshape : v % 2 = 1 → s.blkBits c 0 47 44 ≤ 4)
    (hrest : ∀ p ∈ rest, (blockReserved p.1).any (fun r => decide (bits p.2 r.1 r.2 ≠ 0)) = false ∧ blockFieldBad p.1 (s.merged c w p.1) = false) :
    s.writeInvalid c w = false := by
  obtain ⟨hplace, hwid, hres, hres'⟩ := hlegal
  have hwords : w.any (fun p => (blockReserved p.1).any (fun r => decide (bits p.2 r.1 r.2 ≠ 0)) || blockFieldBad p.1 (s.merged c w p.1)) = false := by
    rw [h.eq, List.any_cons, ← h.eq, Bool.or_eq_false_iff]
    refine ⟨?_, List.any_eq_false.2 fun p hp => by simp only [hrest p hp]; decide⟩
    have hctl : bits (putBits (s.blk c 0) 57 57 v) 54 52 = 0 := (bits_putBits_apart (by decide)).trans hres
    have hctl' : bits (putBits (s.blk c 0) 57 57 v) 31 8 = 0 := (bits_putBits_apart (by decide)).trans hres'
    simp [blockReserved, blockFieldBad, hctl, hctl']
  have hcontract : (decide (v % 2 = 1) && decide (s.blkBits c 0 47 44 > 4)) = false := by
    by_cases hv : v % 2 = 1
    · simp [hv, hshape hv]
    · simp [hv]
  have hplace' : placementLegal (s.blkBits c 0 47 44) (bits (s.blk c 0x50) 42 40) (bits (s.blk c 0x50) 39 36) = true := hplace
  have hwid' : s.blkBits c 0 43 32 ≠ 0 := hwid
  simp only [State.writeInvalid, hwords, h.merged_bits (hi := 47) (lo := 44) (by decide), h.merged_bits (hi := 43) (lo := 32) (by decide), h.merged_sched,
    hplace', bit, h.merged_contract, hcontract, hwid', decide_false, Bool.not_true, Bool.and_false, Bool.or_false]

end ContractWrite

/-! Withdrawal -/

theorem contractWrite_withdrawal : ContractWrite s c 0 [(0, putBits (s.blk c 0) 57 57 0)] [] :=
  ⟨rfl, by simp [BlockWrite.covers]⟩

/-- A withdrawal is accepted: it changes CONTRACT alone. -/
theorem writeReason_withdrawal (hlegal : LegalBlock s c) : s.writeReason c [(0, putBits (s.blk c 0) 57 57 0)] = none := by
  have h := contractWrite_withdrawal (s := s) (c := c)
  exact writeReason_none h.writeLocked (h.writeInvalid hlegal (fun hv => absurd hv (by decide)) (by simp)) (submits_eq_false rfl rfl) rfl

/-! Submission -/

/-- The words of a submission: CONTRACT set, and the terms (R340). -/
def submission (s : State) (c t0 t1 : Nat) : BlockWrite := [(0, putBits (s.blk c 0) 57 57 1), (0x58, t0), (0x60, t1)]

variable {t0 t1 : Nat}

theorem contractWrite_submission : ContractWrite s c 1 (submission s c t0 t1) [(0x58, t0), (0x60, t1)] :=
  ⟨rfl, by simp [submission, BlockWrite.covers]⟩

theorem aligned_submission : Aligned (submission s c t0 t1) := by simp [Aligned, submission]

theorem merged_submission (h0 : t0 < 2 ^ 64) (h1 : t1 < 2 ^ 64) :
    s.merged c (submission s c t0 t1) 0x58 = t0 ∧ s.merged c (submission s c t0 t1) 0x60 = t1 := by
  rw [merged_whole rfl (by decide), merged_whole rfl (by decide)]
  exact ⟨Nat.mod_eq_of_lt h0, Nat.mod_eq_of_lt h1⟩

theorem submits_submission : s.submits c (submission s c t0 t1) = true := by
  have hbit : bit (s.merged c (submission s c t0 t1) 0) 57 = true := contractWrite_submission.merged_contract
  rw [State.submits, hbit]
  rfl

/-- The block's own contract is the only one on its cores. -/
theorem termsAt_alone (h : ∀ b ∈ s.blocks, b.1 ≠ c → s.admitted b.1 = false) (t : Terms) (n : Nat) : s.termsAt c t n = [t] := by
  have hnone : ((s.blocks.map (·.1)).filter fun k => k ≠ c && s.admitted k && (s.covered k).contains n) = [] := by
    refine List.filter_eq_nil_iff.2 fun k hk => ?_
    obtain ⟨b, hb, rfl⟩ := List.mem_map.1 hk
    by_cases hne : b.1 = c
    · simp [hne]
    · simp [hne, h b hb hne]
  simp only [State.termsAt, hnone, List.map_nil, List.nil_append]

/-- Where no other contract stands on the cores, both tests are those of the new terms alone. -/
theorem admissionReason_alone (h : ∀ b ∈ s.blocks, b.1 ≠ c → s.admitted b.1 = false) (t : Terms) :
    let place := s.die (bits (s.merged c w 0x50) 42 40)
    s.admissionReason c w t =
      if place.ubound * t.p < t.b * 1000 then some 0x02
      else if place.ubound * (t.p * t.d) < (t.b * t.d + (place.bcap + 3600) * t.p) * 1000 then some 0x03 else none := by
  have hcores (shape place pos : Nat) (x : Bool) : (coveredCores shape place pos).any (fun _ => x) = x := by
    cases x with
    | true => exact List.any_eq_true.2 ⟨_, List.mem_map.2 ⟨0, List.mem_range.2 (Nat.two_pow_pos shape), rfl⟩, rfl⟩
    | false => simp
  simp [State.admissionReason, termsAt_alone h, utilisation, hcores]

/-- A submission's outcome: the terms, COST, the table, the tests of the cores (R340, R341). -/
theorem writeReason_submission_terms (hlegal : LegalBlock s c) (hshape : s.blkBits c 0 47 44 ≤ 4) (h0 : t0 < 2 ^ 64) (h1 : t1 < 2 ^ 46) :
    let t : Terms := ⟨t0 % 2 ^ 32, t0 / 2 ^ 32 % 2 ^ 32, t1 % 2 ^ 32⟩
    s.writeReason c (submission s c t0 t1) =
      if 1 ≤ t.b ∧ t.b ≤ t.d ∧ t.d ≤ t.p then
        if (s.die (homeDie c)).bcap < t1 / 2 ^ 32 % 2 ^ 14 then some 0x05
        else if 256 ≤ s.tableCount c then some 0x04
        else s.admissionReason c (submission s c t0 t1) t
      else some 0x01 := by
  have h := contractWrite_submission (s := s) (c := c) (t0 := t0) (t1 := t1)
  obtain ⟨hm0, hm1⟩ := merged_submission (s := s) (c := c) h0 (h1.trans (by decide))
  have hvalid := h.writeInvalid hlegal (fun _ => hshape) (by simp [blockReserved, blockFieldBad, bits_top_zero h1])
  have hreason := writeReason_submission h.writeLocked hvalid submits_submission rfl
  rw [hm0, hm1] at hreason
  simpa only [Terms.of, bits_eq_div_mod, pow_zero, Nat.div_one] using hreason

end

/-! ## What an access leaves of the hub -/

@[simp] theorem fillLine_hub (s : State) (pa ctx : Nat) : (s.fillLine pa ctx).hub = s.hub := by
  unfold State.fillLine
  dsimp only
  split <;> rfl

@[simp] theorem throughSlices_hub (s : State) (pa n ctx : Nat) (w : Bool) : (s.throughSlices pa n ctx w).hub = s.hub :=
  foldl_keeps State.hub _ _ _ fun a _ t => by
    split
    · rfl
    · split
      · exact fillLine_hub t a ctx
      · exact fillLine_hub t a ctx

@[simp] theorem throughPieces_hub (s : State) (ps : List (Nat × Nat)) (ctx : Nat) (w : Bool) : (s.throughPieces ps ctx w).hub = s.hub := by
  have hleave : (s.leaveEngine ps).hub = s.hub := foldl_keeps State.hub _ _ _ fun _ _ _ => rfl
  rw [State.throughPieces, foldl_keeps State.hub _ _ _ fun p _ t => throughSlices_hub t p.1 p.2 ctx w, hleave]

@[simp] theorem touch_hub (s : State) (core ctx va : Nat) : (s.touch core ctx va).hub = s.hub := by
  unfold State.touch
  dsimp only
  split <;> rfl

@[simp] theorem writePieces_hub (ps : List (Nat × Nat)) (s : State) (bs : List Byte) : (s.writePieces ps bs).hub = s.hub := by
  induction ps generalizing s bs with
  | nil => rfl
  | cons p ps ih => rw [State.writePieces, ih, State.writePa_hub]

@[simp] theorem writeRegister_hub (ps : List (Nat × Nat × Bool)) (s : State) (bs : List Byte) : (s.writeRegister ps bs).hub = s.hub := by
  induction ps generalizing s bs with
  | nil => rfl
  | cons p ps ih =>
    rw [State.writeRegister, ih]
    split
    · rfl
    · rw [State.writePa_hub]

theorem store_hub {s t : State} {core ctx wid : Nat} {conf : Bool} {va : Nat} {bs : List Byte} (h : s.store core ctx wid conf va bs = .ok t) :
    t.hub = s.hub := by
  unfold State.store at h
  split at h
  case h_1 =>
    split at h
    · cases h
    · cases h; simp
  case h_2 => cases h
  case h_3 =>
    split at h
    · cases h
    · cases h; simp
  case h_4 => cases h

theorem ctxStore_hub {s t : State} {ctx va : Nat} {bs : List Byte} (h : s.ctxStore ctx va bs = .ok t) : t.hub = s.hub := store_hub h

theorem queueStore_hub {s t : State} {ctx off : Nat} {bs : List Byte} (h : s.queueStore ctx off bs = .ok t) : t.hub = s.hub := by
  unfold State.queueStore queueFault at h
  split at h
  · cases h
  · exact ctxStore_hub h

theorem access_bind_ok {α β : Type} {x : Access α} {f : α → Access β} {b : β} (h : x.bind f = .ok b) : ∃ a, x = .ok a ∧ f a = .ok b := by
  cases x with
  | ok a => exact ⟨a, rfl, h⟩
  | stall => cases h
  | trap => cases h

theorem append_bind_ok {α β : Type} {x : Machine.Append α} {f : α → Machine.Append β} {b : β} (h : x.bind f = .ok b) : ∃ a, x = .ok a ∧ f a = .ok b := by
  cases x with
  | ok a => exact ⟨a, rfl, h⟩
  | full => cases h
  | bad => cases h
  | stall => cases h

theorem append_ofAccess_ok {α : Type} {x : Access α} {a : α} (h : Append.ofAccess x = .ok a) : x = .ok a := by
  cases x with
  | ok b => cases h; rfl
  | stall => cases h
  | trap => cases h

/-! ## The context keys of the hub: what no append and no reply changes -/

@[simp] theorem sendChunk_keys (s : State) (conn : Option Conn) (bs : List Byte) : (s.sendChunk conn bs).hub.keys = s.hub.keys := by
  unfold State.sendChunk
  split
  · rfl
  · dsimp only
    rw [apply_ite State.hub, apply_ite Hub.keys, ite_self]

@[simp] theorem closeChunk_keys (s : State) (r : ReplyStream) : (s.closeChunk r).1.hub.keys = s.hub.keys := by
  unfold State.closeChunk
  split
  · rfl
  · exact sendChunk_keys ..

@[simp] theorem releasePend_keys (s : State) (r : ReplyStream) (cycle : Nat) : (s.releasePend r cycle).1.hub.keys = s.hub.keys :=
  foldl_keeps (fun p : State × ReplyStream => p.1.hub.keys) _ _ (s, r) fun b _ p => by
    dsimp only
    split
    · exact closeChunk_keys ..
    · rfl

@[simp] theorem flush_keys (s : State) (r : ReplyStream) (cycle : Nat) : (s.flush r cycle).hub.keys = s.hub.keys := by
  unfold State.flush
  split
  · rfl
  · exact (closeChunk_keys ..).trans (releasePend_keys s r cycle)

@[simp] theorem closeStream_keys (s : State) (r : ReplyStream) (status cycle : Nat) : (s.closeStream r status cycle).hub.keys = s.hub.keys := by
  unfold State.closeStream
  refine (sendChunk_keys ..).trans ?_
  split
  · rfl
  · exact releasePend_keys ..

@[simp] theorem answerRequest_keys (s : State) (r : Request) (status aux : Nat) : (s.answerRequest r status aux).hub.keys = s.hub.keys :=
  sendChunk_keys ..

@[simp] theorem retireDesc_hub (s : State) (ctx n : Nat) : (s.retireDesc ctx n).hub = s.hub := by
  unfold State.retireDesc
  dsimp only
  split <;> rfl

theorem endCurrent_keys {s t : State} {ctx status cycle : Nat} {q q' : QArea} {d : QDesc} (h : s.endCurrent ctx q d status cycle = .ok (t, q')) :
    t.hub.keys = s.hub.keys := by
  obtain ⟨s1, hstore, hend⟩ := access_bind_ok h
  cases hend
  rw [retireDesc_hub, ← queueStore_hub hstore]
  split
  · exact closeStream_keys ..
  · rfl

theorem writeTokens_hub {s t : State} {ctx k : Nat} {q : QArea} {ts : List Nat} (h : s.writeTokens ctx q k ts = .ok t) : t.hub = s.hub := by
  have hput {u v : State} {k : Nat} {l : List Nat}
      (h : (if l.isEmpty then Access.ok u else u.queueStore ctx (q.tokenOff k) (l.flatMap (leBytes 4))) = .ok v) : v.hub = u.hub := by
    split at h
    · cases h; rfl
    · exact queueStore_hub h
  obtain ⟨s1, h1, h2⟩ := access_bind_ok h
  exact (hput h2).trans (hput h1)

theorem writeAppend_hub {s t : State} {ctx : Nat} {q : QArea} {ts : List Nat} {d : QDesc} (h : s.writeAppend ctx q ts d = .ok t) : t.hub = s.hub := by
  obtain ⟨s1, htokens, h⟩ := access_bind_ok h
  obtain ⟨s2, hdesc, hends⟩ := access_bind_ok h
  exact (queueStore_hub hends).trans ((queueStore_hub hdesc).trans (writeTokens_hub htokens))

theorem recordReplay_hub {s t : State} {ctx : Nat} {d : QDesc} {msg : List Byte} {values : List Word}
    (h : s.recordReplay ctx d msg values = .ok t) : t.hub = s.hub := by
  have hstore {u v : State} {o : Nat} {bs : List Byte} (h : (if bs.isEmpty then Access.ok u else u.ctxStore ctx o bs) = .ok v) : v.hub = u.hub := by
    split at h
    · cases h; rfl
    · exact ctxStore_hub h
  unfold State.recordReplay at h
  split at h
  · cases h; rfl
  split at h
  · cases h
  extract_lets a store all at h
  have hall : t = s ∨ all = .ok t := by
    generalize all = x at h
    cases x with
    | ok u => exact .inr h
    | stall => cases h
    | trap => exact .inl (Access.ok.inj h).symm
  rcases hall with rfl | h
  · rfl
  obtain ⟨⟨bs, u⟩, _, h⟩ := access_bind_ok h
  dsimp only [store] at h
  split at h
  · exact hstore h
  obtain ⟨s1, h1, h⟩ := access_bind_ok h
  obtain ⟨s2, h2, h⟩ := access_bind_ok h
  obtain ⟨s3, h3, h⟩ := access_bind_ok h
  obtain ⟨s4, h4, h5⟩ := access_bind_ok h
  rw [hstore h5, hstore h4, hstore h3, hstore h2, hstore h1]

@[simp] theorem requestWaits_hub (s : State) (ctx : Nat) : (s.requestWaits ctx).hub = s.hub := by
  have hpass : (s.startPass ctx).hub = s.hub := by
    unfold State.startPass
    dsimp only
    split <;> rfl
  unfold State.requestWaits
  split
  · rw [State.enterWait, State.updExtra_hub, State.setBlk_hub, State.setCtxState_hub, hpass]
  · rfl

theorem append_hub {s t : State} {ctx : Nat} {ts : List Nat} {d : QDesc} {msg : List Byte} {values : List Word}
    (h : s.append ctx ts d msg values = .ok t) : t.hub = s.hub := by
  obtain ⟨q, _, h⟩ := append_bind_ok h
  obtain ⟨s1, hrecord, h⟩ := append_bind_ok h
  obtain ⟨s2, hwrite, h⟩ := append_bind_ok h
  cases h
  rw [requestWaits_hub, State.updExtra_hub, writeAppend_hub (append_ofAccess_ok hwrite), recordReplay_hub (append_ofAccess_ok hrecord)]

theorem appendRequest_keys {s t : State} {k : Nat} {r : Request} (h : s.appendRequest k r = some t) : t.hub.keys = s.hub.keys := by
  unfold State.appendRequest at h
  split at h
  case h_1 => cases h
  case h_2 => cases h; exact answerRequest_keys ..
  case h_3 => cases h; exact answerRequest_keys ..
  case h_4 s1 happend =>
    obtain rfl := Option.some.inj h
    exact (congrArg Hub.keys (append_hub happend) : s1.hub.keys = s.hub.keys)

theorem takeInFlight_keys {n ctx : Nat} {s t : State} (h : State.takeInFlight n ctx s = some t) : t.hub.keys = s.hub.keys := by
  induction n generalizing s with
  | zero => cases h; rfl
  | succ n ih =>
    unfold State.takeInFlight at h
    split at h
    · cases h; rfl
    split at h
    · cases h; rfl
    extract_lets ts at h
    split at h
    · exact (ih h).trans (answerRequest_keys ..)
    · obtain ⟨u, happend, h⟩ := Option.bind_eq_some_iff.1 h
      exact (ih h).trans (appendRequest_keys happend)

@[simp] theorem landRequests_keys (s : State) (ctx : Nat) : ((s.landRequests ctx).getD s).hub.keys = s.hub.keys := by
  cases h : s.landRequests ctx with
  | none => rfl
  | some t => exact takeInFlight_keys h

@[simp] theorem cutStream_keys (s : State) (ctx : Nat) : (s.cutStream ctx).hub.keys = s.hub.keys := by
  unfold State.cutStream
  split
  · rfl
  · dsimp only
    split
    · exact flush_keys ..
    · exact flush_keys ..

@[simp] theorem endRequests_keys (s0 : State) (ctx : Nat) : (s0.endRequests ctx).hub.keys = s0.hub.keys := by
  unfold State.endRequests
  extract_lets s now s1 s2 mine hub2 s3
  have h1 : s1.hub.keys = s.hub.keys := by
    dsimp only [s1]
    split
    · rfl
    split
    · split
      case h_1 hend => exact endCurrent_keys hend
      case h_2 => rfl
    · rfl
  have h2 : s2.hub.keys = s1.hub.keys := by
    dsimp only [s2]
    split
    · exact closeStream_keys ..
    · rfl
  have h3 : s3.hub.keys = s2.hub.keys := foldl_keeps (fun t : State => t.hub.keys) _ _ _ fun r _ t => answerRequest_keys ..
  have h : s3.hub.keys = s0.hub.keys := by rw [h3, h2, h1]; exact cutStream_keys s0 ctx
  split
  · exact h
  split
  · split
    case h_1 hstore => exact (congrArg Hub.keys (queueStore_hub hstore)).trans h
    case h_2 => exact h
  · exact h

/-! ## Flushing an identifier and scrubbing a world: what stays -/

section
variable {β : Type} (g : State → β) (hdie : ∀ t d x, g (State.setDie t d x) = g t)
include hdie

theorem flushIdentifier_keeps (s : State) (ctx : Nat) : g (s.flushIdentifier ctx) = g s := foldl_keeps g _ _ _ fun _ _ _ => hdie ..

theorem releaseReservations_keeps (s : State) (ctx : Nat) : g (s.releaseReservations ctx) = g s := by
  refine (hdie ..).trans ((foldl_keeps g _ _ _ fun _ _ _ => hdie ..).trans (foldl_keeps g _ _ _ fun n _ t => ?_))
  split
  · exact hdie ..
  · rfl

theorem setOwnerTag_keeps (s : State) (d i v : Nat) : g (s.setOwnerTag d i v) = g s := by
  unfold State.setOwnerTag
  dsimp only
  split
  · exact (hdie ..).trans (hdie ..)
  · exact hdie ..

theorem enterScrub_keeps (s : State) (d i : Nat) (next : Option Nat) : g (s.enterScrub d i next) = g s := by
  refine (hdie ..).trans ((foldl_keeps g _ _ _ fun t _ u => ?_).trans (setOwnerTag_keeps g hdie ..))
  split
  · exact hdie ..
  · rfl

variable (hshared : ∀ (t : State) l, g { t with hub := { t.hub with shared := l } } = g t) (hextra : ∀ t n x, g (State.setExtra t n x) = g t)
include hshared

theorem scrubFrame_keeps (s : State) (d i : Nat) (next : Option Nat) : g (s.scrubFrame d i next) = g s :=
  (hshared ..).trans ((foldl_keeps g _ _ _ fun _ _ t => enterScrub_keeps g hdie t ..).trans (enterScrub_keeps g hdie ..))

include hextra

theorem scrubWorld_keeps (s : State) (ctx wid : Nat) : g (s.scrubWorld ctx wid) = g s :=
  (hextra ..).trans ((foldl_keeps g _ _ _ fun _ _ t => scrubFrame_keeps g hdie hshared t ..).trans (hshared ..))

end

/-! ## The translations of an identifier that has been flushed -/

/-- Die `d`'s memory-side TLB holds no translation of the identifier. -/
def Untranslated (ctx d : Nat) (t : State) : Prop := ∀ y ∈ (t.die d).mtlb, y.asid ≠ ctx

/-- A change of a die that adds no translation. -/
theorem Untranslated.updDie {ctx d : Nat} {t : State} (h : Untranslated ctx d t) {e : Nat} {f : Die → Die}
    (hf : ∀ y ∈ (f (t.die e)).mtlb, y ∈ (t.die e).mtlb) : Untranslated ctx d (t.updDie e f) := by
  intro y hy
  rw [State.die_updDie] at hy
  split at hy
  case isTrue he => exact h y (he ▸ hf y hy)
  case isFalse => exact h y hy

/-- What a flush does on one die: its entries of the identifier go, and their holders are told (R319). -/
def flushDie (ctx : Nat) (s : State) (d : Nat) : State :=
  let held := ((s.die d).mtlb.filter (·.asid = ctx)).foldl (fun a t => a ||| t.hold) 0
  s.updDie d fun x =>
    { x with mtlb := x.mtlb.filter (·.asid ≠ ctx)
             work := if held = 0 then x.work else x.work ++ [.round ctx 0 52 (maskCores held) .drop] }

theorem flushIdentifier_eq (s : State) (ctx : Nat) : s.flushIdentifier ctx = allDies.foldl (flushDie ctx) s := rfl

theorem untranslated_flushDie {ctx d e : Nat} {t : State} (h : e = d ∨ Untranslated ctx d t) : Untranslated ctx d (flushDie ctx t e) := by
  by_cases he : e = d
  · intro y hy
    rw [flushDie, State.die_updDie, if_pos he] at hy
    simpa using (List.mem_filter.1 hy).2
  · exact (h.resolve_left he).updDie fun y hy => (List.mem_filter.1 hy).1

theorem flushIdentifier_untranslated (s : State) (ctx : Nat) {d : Nat} (hd : d < 8) : Untranslated ctx d (s.flushIdentifier ctx) := by
  have hfold (l : List Nat) (t : State) (h : d ∈ l ∨ Untranslated ctx d t) : Untranslated ctx d (l.foldl (flushDie ctx) t) := by
    induction l generalizing t with
    | nil => exact h.resolve_left List.not_mem_nil
    | cons e l ih =>
      refine ih _ ?_
      rcases h with h | h
      · rcases List.mem_cons.1 h with rfl | h
        · exact .inr (untranslated_flushDie (.inl rfl))
        · exact .inl h
      · exact .inr (untranslated_flushDie (.inr h))
  rw [flushIdentifier_eq]
  exact hfold allDies s (.inl (List.mem_range.2 hd))

/-- A round that drops a translation adds none. -/
theorem Untranslated.startRound {ctx d : Nat} {t : State} (h : Untranslated ctx d t) (e : Nat) (y : TlbEntry) :
    Untranslated ctx d (t.startRound e y .drop) := h.updDie fun _ hy => (List.mem_filter.1 hy).1

theorem Untranslated.enterScrub {ctx d : Nat} {t : State} (h : Untranslated ctx d t) (e i : Nat) (next : Option Nat) :
    Untranslated ctx d (t.enterScrub e i next) := by
  have howner (v : Nat) : Untranslated ctx d (t.setOwnerTag e i v) := by
    unfold State.setOwnerTag
    dsimp only
    split
    · exact (h.updDie fun _ hy => hy).updDie fun _ hy => hy
    · exact h.updDie fun _ hy => hy
  refine Untranslated.updDie (List.foldlRecOn (motive := Untranslated ctx d) _ _ (howner _) fun u hu y _ => ?_) fun _ hy => hy
  split
  · exact hu.startRound _ y
  · exact hu

theorem Untranslated.scrubWorld {ctx d : Nat} {t : State} (h : Untranslated ctx d t) (c wid : Nat) :
    Untranslated ctx d (t.scrubWorld c wid) := by
  have hframe (u : State) (hu : Untranslated ctx d u) (e i : Nat) (next : Option Nat) : Untranslated ctx d (u.scrubFrame e i next) :=
    List.foldlRecOn (motive := Untranslated ctx d) _ _ (hu.enterScrub e i next) fun v hv _ _ => hv.enterScrub _ _ _
  exact List.foldlRecOn (motive := Untranslated ctx d) _ _ h fun u hu p _ => hframe u hu _ _ _

/-! ## Retirement (R23, R24, R39) -/

theorem retireCtx_state (s : State) (c : Nat) : (s.retireCtx c).ctxState c = 5 := by
  have hflush (t : State) (wid : Nat) : ((t.flushIdentifier c).scrubWorld c wid).blocks = t.blocks :=
    (scrubWorld_keeps State.blocks (fun _ _ _ => rfl) (fun _ _ => rfl) (fun _ _ _ => rfl) ..).trans
      (flushIdentifier_keeps State.blocks (fun _ _ _ => rfl) ..)
  rw [State.retireCtx, ctxState_congr (hflush ..), State.ctxState, State.blkBits, blk_setBlkBits _ (by decide), if_pos ⟨rfl, rfl⟩,
    bits_putBits_apart (by decide)]
  exact ctxState_setCtxState ..

/-- The classifier's context keys. -/
def keysOf (t : State) : Sparse (Option Nat) := t.hub.keys

/-- Retirement leaves of the context keys those that `unkey` leaves. -/
theorem retireCtx_keys (s : State) (c : Nat) : (s.retireCtx c).hub.keys = s.hub.keys.filter fun p => p.2 ≠ some c := by
  have hdie (t : State) (d : Nat) (x : Die) : keysOf (t.setDie d x) = keysOf t := rfl
  have hscrub (t : State) (wid : Nat) : keysOf ((t.flushIdentifier c).scrubWorld c wid) = keysOf t :=
    (scrubWorld_keeps keysOf hdie (fun _ _ => rfl) (fun _ _ _ => rfl) ..).trans (flushIdentifier_keeps keysOf hdie ..)
  have hadmit (t : State) : keysOf (t.setBlkBits c 0 57 56 0) = keysOf t := congrArg Hub.keys (State.setBlkBits_hub t c 0 57 56 0)
  have hstate (t : State) : keysOf (t.setCtxState c stRetired) = keysOf t := congrArg Hub.keys (State.setCtxState_hub t c stRetired)
  have hextra (t : State) : keysOf (t.setExtra c CtxExtra.none) = keysOf t := rfl
  have hrelease (t : State) : keysOf (((t.releaseReservations c).setExtra c CtxExtra.none).setCtxState c stRetired) = keysOf t :=
    (hstate _).trans ((hextra _).trans (releaseReservations_keeps keysOf hdie t c))
  have hrequests (t : State) : keysOf (((t.landRequests c).getD t).endRequests c) = keysOf t := (endRequests_keys ..).trans (landRequests_keys ..)
  have hclose (t : State) (st : Nat) : keysOf ((if s.ctxState c = stFaulted then t.endTickets c st else t).retireTickets c |>.dropChildren c) = keysOf t := by
    split <;> rfl
  exact (hscrub ..).trans ((hadmit _).trans ((hrelease _).trans ((hclose ..).trans (hrequests (s.unkey c)))))

theorem retireCtx_untranslated (s : State) (c : Nat) {d : Nat} (hd : d < 8) : Untranslated c d (s.retireCtx c) :=
  (flushIdentifier_untranslated _ c hd).scrubWorld _ _

/-! ## The clearing of a fault (R23, R383) -/

/-- With no queue, the clearing of a fault only ends what the faulted binding held. -/
def clearedFault (s : State) (c : Nat) : State :=
  ((((s.endTickets c (0x100 + s.blkBits c 0 7 0)).dropChildren c).updExtra c fun x =>
    { x with parked := [], failed := [], wanted := false, record := none })).setCtxState c stIdle

theorem clearFault_of_no_queue {s : State} {c : Nat} (h : s.queueVa c = 0) : s.clearFault c = some (clearedFault s c) := by
  simp only [State.clearFault, h, if_true, clearedFault]

theorem clearedFault_mem (s : State) (c : Nat) : (clearedFault s c).mem = s.mem := by
  rw [clearedFault, State.setCtxState_mem, State.updExtra_mem, State.dropChildren, State.updDie_mem, State.endTickets_mem]

theorem clearedFault_parked (s : State) (c : Nat) : ((clearedFault s c).extra c).parked = [] := by
  have hextras : (clearedFault s c).extra c = (((s.endTickets c (0x100 + s.blkBits c 0 7 0)).dropChildren c).updExtra c fun x =>
      { x with parked := [], failed := [], wanted := false, record := none }).extra c := by
    simp only [State.extra, clearedFault, State.setCtxState_extras]
  rw [hextras, State.extra_updExtra, if_pos rfl]

theorem clearedFault_pool (s : State) (c : Nat) : (clearedFault s c).poolOf c = [] := by
  have hdies : (clearedFault s c).dies = ((s.endTickets c (0x100 + s.blkBits c 0 7 0)).dropChildren c).dies := by
    simp only [clearedFault, State.setCtxState_dies, State.updExtra_dies]
  rw [State.poolOf, State.die, hdies, ← State.die, State.dropChildren, State.die_updDie, if_pos rfl]
  simp

/-! ## Installation (R23, R328) -/

section
variable {s : State} {c : Nat} {w : BlockWrite}

/-- The slot as an installation finds it once the dispatchers' words are 0: what `installBlock` writes the image's words into. -/
def emptied (s : State) (c : Nat) : State :=
  let s1 := ([0x68, 0x70, 0x78, 0x80, 0x88, 0x140] ++ (List.range 6).map fun k => 0x90 + 8 * k).foldl (fun (t : State) off => t.setBlk c off 0) s
  (s1.setBlk c 0 (putBits (s1.blk c 0) 7 0 0)).setExtra c CtxExtra.none

theorem installBlock_eq : s.installBlock c w = ((emptied s c).putBlock c w).setCtxState c stIdle := rfl

theorem emptied_blk {o : Nat} (ho : o ∈ [0x78, 0x88, 0x140]) : (emptied s c).blk c o = 0 := by
  rw [emptied, blk_congr (State.setExtra_blocks ..)]
  simp only [List.mem_cons, List.not_mem_nil, or_false] at ho
  rcases ho with rfl | rfl | rfl <;> simp [State.blk_setBlk, List.range_succ]

/-- A field of the state that no write of a word and no change of the extras touches is as it was after an installation. -/
theorem installBlock_keeps {β : Type} (g : State → β) (hblk : ∀ t n o v, g (State.setBlk t n o v) = g t)
    (hextra : ∀ t n x, g (State.setExtra t n x) = g t) : g (s.installBlock c w) = g s := by
  rw [installBlock_eq, State.setCtxState, State.setBlkBits, hblk, putBlock_keeps g hblk hextra, emptied, hextra, hblk]
  exact foldl_keeps g _ _ _ fun _ _ _ => hblk ..

@[simp] theorem installBlock_mem : (s.installBlock c w).mem = s.mem := installBlock_keeps State.mem (fun _ _ _ _ => rfl) fun _ _ _ => rfl
@[simp] theorem installBlock_hub : (s.installBlock c w).hub = s.hub := installBlock_keeps State.hub (fun _ _ _ _ => rfl) fun _ _ _ => rfl
@[simp] theorem installBlock_input : (s.installBlock c w).input = s.input := installBlock_keeps State.input (fun _ _ _ _ => rfl) fun _ _ _ => rfl

/-- The installed block, CTL and what the dispatchers own apart, holds what the image's words make of it. -/
theorem installBlock_blk (hw : Aligned w) {o : Nat} (ho : o % 8 = 0) (hplain : o ≠ 0 ∧ o ≠ 0x70 ∧ (o < 0xC0 ∨ 0x140 ≤ o)) :
    (s.installBlock c w).blk c o = (emptied s c).merged c w o := by
  rw [installBlock_eq, State.setCtxState, blk_setBlkBits _ (by decide), if_neg (by omega), putBlock_blk_word hw ho hplain]

theorem installBlock_blk_dispatcher (hw : Aligned w) {o : Nat} (ho : o ∈ [0x78, 0x88, 0x140]) : (s.installBlock c w).blk c o = 0 := by
  have hzero := emptied_blk (s := s) (c := c) ho
  simp only [List.mem_cons, List.not_mem_nil, or_false] at ho
  rw [installBlock_blk hw (by omega) (by omega), merged_of_not_writable, hzero]
  rcases ho with rfl | rfl | rfl <;> rfl

theorem installBlock_state : (s.installBlock c w).ctxState c = 0 := by rw [installBlock_eq, ctxState_setCtxState]; rfl

/-- An accepted image of a retired slot that has not to wait is installed. -/
theorem writeFields_install (command : String) (hret : s.ctxState c = 5) (hreason : s.writeReason c w = none)
    (hidle : w.covers 0 = true ∧ bits (w.raw 0) 63 61 = 0) :
    s.writeFields command c w = if s.installWaits c = true then .wait s else .done ((s.installBlock c w).respond command 0 []) := by
  have hnew : s.newState c w = some 0 := by simp [State.newState, hidle, hret]
  have hcarry : s.carryWrite c w = if s.installWaits c = true then none else some (s.installBlock c w) := by
    simp [State.carryWrite, hnew, hret, stRetired]
  simp only [State.writeFields, State.writeBlock, hreason, hcarry]
  split <;> simp_all

end

/-! ## The commands on blocks, at their turn -/

/-! Writes of words -/

section
variable {s : State}

theorem controlBlockWrite_runs {t : State} (hctx : s.input.ctx < 8192) (hindex : s.input.index % 8 = 0) (hlen : s.input.data.length % 8 = 0)
    (hend : s.input.index + s.input.data.length ≤ 512)
    (h : s.writeFields "CONTROL_BLOCK_WRITE" s.input.ctx (blockWords s.input.index s.input.data) = .done t) : RunsTo s .controlBlockWrite t := by
  refine runsTo_of_done (exec_controlBlockWrite s) ?_
  refine (if_neg ?_).trans h
  simp [hctx, hindex, hlen, hend]

theorem controlBlockWrite_outside
    (h : 8192 ≤ s.input.ctx ∨ s.input.index % 8 ≠ 0 ∨ s.input.data.length % 8 ≠ 0 ∨ 512 < s.input.index + s.input.data.length) :
    ∃ r, r ≠ 0 ∧ RunsTo s .controlBlockWrite (s.respond "CONTROL_BLOCK_WRITE" r []) := by
  obtain ⟨r, hr, hrefuse⟩ := refuse_reason s "CONTROL_BLOCK_WRITE"
  refine ⟨r, hr, runsTo_of_done (exec_controlBlockWrite s) ?_⟩
  rw [← hrefuse]
  exact if_pos (by simpa [or_assoc] using h)

/-- A write of one word of a block that exists. -/
theorem controlBlockWrite_single {t : State} (hctx : s.input.ctx < 8192) (hlen : s.input.data.length = 8)
    (hindex : s.input.index % 8 = 0 ∧ s.input.index ≤ 504)
    (h : s.writeFields "CONTROL_BLOCK_WRITE" s.input.ctx [(s.input.index, fieldNat s.input.data 0 8)] = .done t) : RunsTo s .controlBlockWrite t :=
  controlBlockWrite_runs hctx hindex.1 (by rw [hlen]) (by omega) (by rw [blockWords_single hlen]; exact h)

theorem controlBlockWrite_single_reason {r : Nat} (hctx : s.input.ctx < 8192) (hlen : s.input.data.length = 8)
    (hindex : s.input.index % 8 = 0 ∧ s.input.index ≤ 504)
    (h : s.writeReason s.input.ctx [(s.input.index, fieldNat s.input.data 0 8)] = some r) (hr : 4 < r) :
    RunsTo s .controlBlockWrite (s.respond "CONTROL_BLOCK_WRITE" r []) :=
  controlBlockWrite_single hctx hlen hindex (writeFields_refused _ h hr)

/-- An address that is accepted stands in its word; ADMIT apart, nothing else changes. -/
theorem putBlock_address {c o v : Nat} (ho : o ∈ [0x10, 0x28, 0x38]) (hv : v < 2 ^ 64) :
    (s.putBlock c [(o, v)]).blk c o = v ∧
      ∀ b off, (b ≠ c ∨ (off / 8 ≠ 0 ∧ off / 8 ≠ o / 8)) → (s.putBlock c [(o, v)]).blk b off = s.blk b off := by
  simp only [List.mem_cons, List.not_mem_nil, or_false] at ho
  have haligned : Aligned [(o, v)] := by
    simp only [Aligned, List.mem_singleton, forall_eq]
    omega
  refine ⟨?_, fun b off h => putBlock_blk_other haligned (submits_eq_false ?_ ?_) (h.imp_right fun ⟨h0, hoff⟩ => ⟨h0, ?_⟩)⟩
  · rw [putBlock_blk_word haligned (by omega) (by omega), merged_single (by omega) hv]
  all_goals
    simp only [covers_single, decide_eq_false_iff_not]
    omega

theorem controlBlockWrite_address (hctx : s.input.ctx < 8192) (hlen : s.input.data.length = 8) (ho : s.input.index ∈ [0x10, 0x28, 0x38])
    (hv : fieldNat s.input.data 0 8 < 2 ^ 52) :
    ∃ t : State, RunsTo s .controlBlockWrite (t.respond "CONTROL_BLOCK_WRITE" 0 []) ∧
      t.blk s.input.ctx s.input.index = fieldNat s.input.data 0 8 ∧ (∀ a, t.byte a = s.byte a) ∧
      ∀ b o, (b ≠ s.input.ctx ∨ (o / 8 ≠ 0 ∧ o / 8 ≠ s.input.index / 8)) → t.blk b o = s.blk b o := by
  obtain ⟨hword, hrest⟩ := putBlock_address (s := s) (c := s.input.ctx) ho (fieldNat_lt s.input.data 0 8)
  have hreason := writeReason_address (s := s) (c := s.input.ctx) ho hv
  simp only [List.mem_cons, List.not_mem_nil, or_false] at ho
  exact ⟨_, controlBlockWrite_single hctx hlen (by omega) (writeFields_accepted _ hreason (newState_single (by omega))), hword,
    State.byte_congr _ _ putBlock_mem, hrest⟩

theorem controlBlockWrite_address_large (hctx : s.input.ctx < 8192) (hlen : s.input.data.length = 8) (ho : s.input.index ∈ [0x10, 0x28, 0x38])
    (hv : 2 ^ 52 ≤ fieldNat s.input.data 0 8) : RunsTo s .controlBlockWrite (s.respond "CONTROL_BLOCK_WRITE" 6 []) := by
  have hreason := writeReason_address_large (s := s) (c := s.input.ctx) ho hv (fieldNat_lt _ _ 8)
  simp only [List.mem_cons, List.not_mem_nil, or_false] at ho
  exact controlBlockWrite_single_reason hctx hlen (by omega) hreason (by decide)

theorem controlBlockWrite_lockedWord (hctx : s.input.ctx < 8192) (hlen : s.input.data.length = 8) (ho : s.input.index ∈ [0x18, 0x30, 0x48])
    (hidle : s.ctxState s.input.ctx ≠ 0) (hret : s.ctxState s.input.ctx ≠ 5) (hne : fieldNat s.input.data 0 8 ≠ s.blk s.input.ctx s.input.index) :
    RunsTo s .controlBlockWrite (s.respond "CONTROL_BLOCK_WRITE" 7 []) := by
  have hreason := writeReason_lockedWord ho (fieldNat_lt _ _ 8) hidle hret hne
  simp only [List.mem_cons, List.not_mem_nil, or_false] at ho
  exact controlBlockWrite_single_reason hctx hlen (by omega) hreason (by decide)

theorem controlBlockWrite_entrySets (hctx : s.input.ctx < 8192) (hlen : s.input.data.length = 8) (ho : s.input.index = 0x18)
    (hidle : s.ctxState s.input.ctx = 0)
    (hbad : fieldNat s.input.data 0 8 % 64 ≠ 0 ∨ fieldNat s.input.data 0 8 / 2 ^ 52 % 256 < 2 ∨ 2 ^ 60 ≤ fieldNat s.input.data 0 8) :
    RunsTo s .controlBlockWrite (s.respond "CONTROL_BLOCK_WRITE" 6 []) := by
  have hreason := writeReason_entrySets hidle (fieldNat_lt s.input.data 0 8) hbad
  rw [← ho] at hreason
  exact controlBlockWrite_single_reason hctx hlen (by omega) hreason (by decide)

/-! A write refused for its terms alone -/

variable {c : Nat} {w : BlockWrite}

/-- A word beside CTERMS0 and CTERMS1. -/
def besideTerms (o : Nat) : Bool := decide (o ≠ 0x58) && decide (o ≠ 0x60)

theorem withoutTerms_eq : s.withoutTerms c w = changeCtl (putBits · 57 57 (s.blkBits c 0 57 57)) (w.filter fun p => besideTerms p.1) := rfl

theorem aligned_withoutTerms (hw : Aligned w) : Aligned (s.withoutTerms c w) := by
  rw [withoutTerms_eq]
  exact aligned_changeCtl fun p hp => hw p (List.mem_filter.1 hp).1

theorem covers_withoutTerms (o : Nat) : (s.withoutTerms c w).covers o = (besideTerms o && w.covers o) := by
  rw [withoutTerms_eq, covers_changeCtl, covers_filter]

theorem raw_withoutTerms {o : Nat} (ho : o ∉ [0, 0x58, 0x60]) : (s.withoutTerms c w).raw o = w.raw o := by
  simp only [List.mem_cons, List.not_mem_nil, or_false, not_or] at ho
  rw [withoutTerms_eq, raw_changeCtl_other _ _ ho.1, raw_filter (by simp [besideTerms, ho])]

theorem merged_withoutTerms_contract : (s.merged c (s.withoutTerms c w) 0).testBit 57 = (s.blk c 0).testBit 57 := by
  cases h : (s.withoutTerms c w).covers 0 with
  | false => rw [merged_of_not_covers h]
  | true =>
    have hraw : (s.withoutTerms c w).raw 0 = putBits (BlockWrite.raw (w.filter fun p => besideTerms p.1) 0) 57 57
        (s.blkBits c 0 57 57) := by
      rw [withoutTerms_eq] at h ⊢
      exact raw_changeCtl_zero _ _ (by rwa [covers_changeCtl] at h)
    rw [testBit_merged h, hraw, testBit_putBits, if_pos (by decide), if_pos (by decide), State.blkBits, testBit_bits]
    simp

/-- What is left of it: the terms and CONTRACT stay, the addresses beside them are written (R340). -/
theorem putBlock_withoutTerms (hw : Aligned w) :
    let t := s.putBlock c (s.withoutTerms c w)
    (∀ o ∈ [0x58, 0x60], t.blk c o = s.blk c o) ∧ (t.blk c 0).testBit 57 = (s.blk c 0).testBit 57 ∧
      ∀ o ∈ [0x10, 0x28, 0x38], w.covers o = true → t.blk c o = w.raw o % 2 ^ 64 := by
  have haligned := aligned_withoutTerms (s := s) (c := c) hw
  refine ⟨fun o ho => ?terms, ?contract, fun o ho hcov => ?address⟩
  case terms =>
    simp only [List.mem_cons, List.not_mem_nil, or_false] at ho
    rw [putBlock_blk_word haligned (by omega) (by omega), merged_of_not_covers]
    rw [covers_withoutTerms]
    rcases ho with rfl | rfl <;> rfl
  case contract => rw [putBlock_testBit_ctl haligned (by decide), merged_withoutTerms_contract]
  case address =>
    simp only [List.mem_cons, List.not_mem_nil, or_false] at ho
    have hleft : (s.withoutTerms c w).covers o = true := by
      rw [covers_withoutTerms, hcov]
      rcases ho with rfl | rfl | rfl <;> rfl
    rw [putBlock_blk_word haligned (by omega) (by omega), merged_whole hleft (by omega), raw_withoutTerms]
    rcases ho with rfl | rfl | rfl <;> decide

end

/-! Contracts -/

section
variable {s : State} {c : Nat}

/-- A submission's words are those of `contractSubmission`'s input. -/
theorem contractSubmission_runs {t : State} (hctx : s.input.ctx < 8192)
    (h : s.writeBlock "CONTRACT_SUBMISSION" s.input.ctx (submission s s.input.ctx (fieldNat s.input.data 0 8) (fieldNat s.input.data 8 8)) = .done t) :
    RunsTo s .contractSubmission t := by
  refine runsTo_of_done (exec_contractSubmission s) ?_
  exact (if_neg (Nat.not_le.2 hctx)).trans h

theorem contractWithdrawal_runs {t : State} (hctx : s.input.ctx < 8192)
    (h : s.writeBlock "CONTRACT_WITHDRAWAL" s.input.ctx [(0, putBits (s.blk s.input.ctx 0) 57 57 0)] = .done t) : RunsTo s .contractWithdrawal t := by
  refine runsTo_of_done (exec_contractWithdrawal s) ?_
  exact (if_neg (Nat.not_le.2 hctx)).trans h

/-- An admitted contract stands in its block, and its first period begins at once (R340). -/
theorem putBlock_submission {t0 t1 : Nat} (h0 : t0 < 2 ^ 64) (h1 : t1 < 2 ^ 64) :
    let t := s.putBlock c (submission s c t0 t1)
    (t.blk c 0).testBit 57 = true ∧ (t.blk c 0).testBit 56 = true ∧ t.blk c 0x58 = t0 ∧ t.blk c 0x60 = t1 ∧
      t.blk c 0x70 = (s.clock + Config.dieOffset s.resets (homeDie c)) % 2 ^ 64 ∧ ∀ a, t.byte a = s.byte a := by
  have haligned := aligned_submission (s := s) (c := c) (t0 := t0) (t1 := t1)
  obtain ⟨hadmit, hrelease⟩ := putBlock_submits (submits_submission (s := s) (c := c) (t0 := t0) (t1 := t1))
    (fun m hm => by simp [submission, BlockWrite.covers]; omega)
  obtain ⟨hm0, hm1⟩ := merged_submission (s := s) (c := c) h0 h1
  refine ⟨?_, hadmit, ?_, ?_, hrelease, State.byte_congr _ _ putBlock_mem⟩
  · rw [putBlock_testBit_ctl haligned (by decide), contractWrite_submission.merged_contract]
    rfl
  · rw [putBlock_blk_word haligned (by decide) (by decide), hm0]
  · rw [putBlock_blk_word haligned (by decide) (by decide), hm1]

/-- A withdrawn contract is no longer admitted, and no word but CTL changes. -/
theorem putBlock_withdrawal :
    let t := s.putBlock c [(0, putBits (s.blk c 0) 57 57 0)]
    (t.blk c 0).testBit 57 = false ∧ (t.blk c 0).testBit 56 = false ∧ ∀ b o, (b ≠ c ∨ o / 8 ≠ 0) → t.blk b o = s.blk b o := by
  have haligned : Aligned [(0, putBits (s.blk c 0) 57 57 0)] := by simp [Aligned]
  have hcontract := (contractWrite_withdrawal (s := s) (c := c)).merged_contract
  refine ⟨?_, putBlock_not_admitted haligned hcontract, fun b o h => putBlock_blk_other haligned (submits_eq_false rfl rfl) (h.imp_right fun ho => ?_)⟩
  · rw [putBlock_testBit_ctl haligned (by decide), hcontract]
    rfl
  · exact ⟨ho, by simp only [covers_single, decide_eq_false_iff_not]; omega⟩

end

/-! Retirement and the clearing of a fault -/

section
variable {s : State}

theorem microContextRetire_runs (hctx : s.input.ctx < 8192) (hbound : s.ctxState s.input.ctx ≠ 2) (hret : s.ctxState s.input.ctx ≠ 5)
    (hsaved : s.isBound s.input.ctx = false) :
    (s.retireWaits s.input.ctx = false →
      RunsTo s .microContextRetire ((s.retireCtx s.input.ctx).respond "MICRO_CONTEXT_RETIRE" 0 [])) ∧
    (s.retireWaits s.input.ctx = true → WaitsIn s .microContextRetire (s.unkey s.input.ctx)) := by
  have hmay : ¬ (decide (s.input.ctx ≥ 8192) || !s.mayChange s.input.ctx stRetired) = true := by
    simp [State.mayChange, stBound, stRetired, hctx, hbound, hret, hsaved]
  refine ⟨fun hwait => runsTo_of_done (exec_microContextRetire s) ?_, fun hwait => waitsIn_of_wait (exec_microContextRetire s) ?_⟩
  · exact (if_neg hmay).trans (if_neg (Bool.not_eq_true _ ▸ hwait))
  · exact (if_neg hmay).trans (if_pos hwait)

theorem microContextRetire_refused (h : s.ctxState s.input.ctx = 2 ∨ s.ctxState s.input.ctx = 5 ∨ s.isBound s.input.ctx = true) :
    RunsTo s .microContextRetire (s.respond "MICRO_CONTEXT_RETIRE" 7 []) := by
  refine runsTo_of_done (exec_microContextRetire s) ?_
  refine if_pos ?_
  rcases h with h | h | h <;> simp [State.mayChange, stBound, stRetired, h]

theorem faultClear_runs (hctx : s.input.ctx < 8192) (hfault : s.ctxState s.input.ctx = 4) (hsaved : s.isBound s.input.ctx = false)
    (hqueue : s.queueVa s.input.ctx = 0) : RunsTo s .faultClear ((clearedFault s s.input.ctx).respond "FAULT_CLEAR" 0 []) := by
  refine runsTo_of_done (exec_faultClear s) ?_
  refine (if_neg ?_).trans ?_
  · simp [stFaulted, hctx, hfault, hsaved]
  · rw [clearFault_of_no_queue hqueue]

theorem faultClear_refused (h : s.ctxState s.input.ctx ≠ 4 ∨ s.isBound s.input.ctx = true) :
    RunsTo s .faultClear (s.respond "FAULT_CLEAR" 7 []) := by
  refine runsTo_of_done (exec_faultClear s) ?_
  refine if_pos ?_
  rcases h with h | h <;> simp [stFaulted, h]

end

/-! Installation -/

section
variable {s : State}

/-- The words of an image, with STATE idle: what an installation writes. -/
def imageWords (bs : List Byte) : BlockWrite := changeCtl (putBits · 63 61 stIdle) (blockWords 0 bs)

theorem imageWords_ctl {bs : List Byte} (h : bs.length = 512) : (imageWords bs).covers 0 = true ∧ bits ((imageWords bs).raw 0) 63 61 = 0 := by
  have hcov : (blockWords 0 bs).covers (0 + 8 * 0) = true := covers_blockWords (by omega)
  rw [imageWords, covers_changeCtl, raw_changeCtl_zero _ _ hcov, bits_putBits_same]
  exact ⟨hcov, rfl⟩

theorem aligned_imageWords (bs : List Byte) : Aligned (imageWords bs) := aligned_changeCtl (aligned_blockWords (by decide) bs)

theorem merged_imageWords {u : State} {c : Nat} {bs : List Byte} (h : bs.length = 512) {o : Nat} (ho : o % 8 = 0) (hwhole : 0x10 ≤ o ∧ o ≤ 0x60) :
    u.merged c (imageWords bs) o = fieldNat bs o 8 := by
  obtain ⟨k, rfl⟩ : ∃ k, o = 0 + 8 * k := ⟨o / 8, by omega⟩
  have hk : k < bs.length / 8 := by omega
  have hcov : (imageWords bs).covers (0 + 8 * k) = true := by rw [imageWords, covers_changeCtl, covers_blockWords hk]
  rw [merged_whole hcov hwhole, imageWords, raw_changeCtl_other _ _ (by omega), raw_blockWords hk, Nat.zero_add]
  exact Nat.mod_eq_of_lt (fieldNat_lt bs _ 8)

theorem controlBlockInstall_refused (hctx : s.input.ctx < 8192) (hlen : s.input.data.length = 512) (hret : s.ctxState s.input.ctx ≠ 5) :
    RunsTo s .controlBlockInstall (s.respond "CONTROL_BLOCK_INSTALL" 7 []) := by
  refine runsTo_of_done (exec_controlBlockInstall s) ?_
  refine (if_neg ?_).trans (if_pos hret)
  simp [hctx, hlen]

/-- A retired slot takes an accepted image, or the command waits for its identifier and its pages. -/
theorem controlBlockInstall_outcome (hctx : s.input.ctx < 8192) (hlen : s.input.data.length = 512) (hret : s.ctxState s.input.ctx = 5)
    (hreason : s.writeReason s.input.ctx (imageWords s.input.data) = none) :
    (s.installWaits s.input.ctx = true → WaitsIn s .controlBlockInstall s) ∧
    (s.installWaits s.input.ctx = false → RunsTo s .controlBlockInstall
      (((s.installBlock s.input.ctx (imageWords s.input.data)).respond "CONTROL_BLOCK_INSTALL" 0 []).withPresets s.input)) := by
  have hin : ¬ (decide (s.input.ctx ≥ 8192) || decide (s.input.data.length ≠ 512)) = true := by simp [hctx, hlen]
  have hstate : ¬ s.ctxState s.input.ctx ≠ stRetired := not_not.2 hret
  have hwrite := writeFields_install "CONTROL_BLOCK_INSTALL" hret hreason (imageWords_ctl hlen)
  refine ⟨fun hwait => waitsIn_of_wait (exec_controlBlockInstall s) ?_, fun hwait => runsTo_of_done (exec_controlBlockInstall s) ?_⟩
  · refine (if_neg hin).trans ((if_neg hstate).trans ((congrArg (Ran.map (·.withPresets s.input)) (hwrite.trans (if_pos hwait))).trans ?_))
    rfl
  · refine (if_neg hin).trans ((if_neg hstate).trans (congrArg (Ran.map (·.withPresets s.input)) (hwrite.trans (if_neg ?_))))
    simp [hwait]

/-- What an answer and the presets of an image leave of a block that has been installed. -/
theorem withPresets_respond {u : State} {x : Input} (command : String) (h : u.ctxState x.ctx = 0) :
    let t := (u.respond command 0 []).withPresets x
    t.hub.responses = u.hub.responses ++ [⟨u.input.ring, u.input.tag, command, 0, []⟩] ∧
      (t.extra x.ctx).ringPresets = x.nats.map ringPresetOf ∧ (t.extra x.ctx).bobbinPresets = bobbinPresetsOf x.extra ∧
      t.blocks = u.blocks ∧ t.mem = u.mem := by
  have hstate : (u.respond command 0 []).ctxState x.ctx = 0 := (ctxState_congr rfl _).trans h
  rw [State.withPresets, hstate, if_neg (by decide)]
  refine ⟨rfl, ?_, ?_, rfl, rfl⟩
  all_goals rw [State.extra_updExtra, if_pos rfl]

/-- The words of the image stand in the installed block. -/
theorem installed_words {bs : List Byte} (hlen : bs.length = 512) (c : Nat) :
    ∀ o ∈ [0x10, 0x18, 0x20, 0x28, 0x30, 0x38, 0x40, 0x48, 0x50, 0x58, 0x60], (s.installBlock c (imageWords bs)).blk c o = fieldNat bs o 8 := by
  intro o ho
  simp only [List.mem_cons, List.not_mem_nil, or_false] at ho
  rw [installBlock_blk (aligned_imageWords bs) (by omega) (by omega), merged_imageWords hlen (by omega) (by omega)]

/-- The machine once the image stands in its slot: the answer, the presets, the block. -/
theorem installed_image (x : Input) (hlen : x.data.length = 512) :
    let t := ((s.installBlock x.ctx (imageWords x.data)).respond "CONTROL_BLOCK_INSTALL" 0 []).withPresets x
    t.hub.responses = s.hub.responses ++ [⟨s.input.ring, s.input.tag, "CONTROL_BLOCK_INSTALL", 0, []⟩] ∧
      (t.extra x.ctx).ringPresets = x.nats.map ringPresetOf ∧ (t.extra x.ctx).bobbinPresets = bobbinPresetsOf x.extra ∧ t.ctxState x.ctx = 0 ∧
      t.blk x.ctx 0x78 = 0 ∧ t.blk x.ctx 0x88 = 0 ∧ t.blk x.ctx 0x140 = 0 ∧
      (∀ o ∈ [0x10, 0x18, 0x20, 0x28, 0x30, 0x38, 0x40, 0x48, 0x50, 0x58, 0x60], t.blk x.ctx o = fieldNat x.data o 8) ∧ ∀ a, t.byte a = s.byte a := by
  intro t
  obtain ⟨hresponses, hrings, hbobbins, hblocks, hmem⟩ := withPresets_respond (u := s.installBlock x.ctx (imageWords x.data)) (x := x)
    "CONTROL_BLOCK_INSTALL" installBlock_state
  rw [installBlock_hub, installBlock_input] at hresponses
  have hblk (o : Nat) : t.blk x.ctx o = (s.installBlock x.ctx (imageWords x.data)).blk x.ctx o := blk_congr hblocks ..
  have hzero {o : Nat} (ho : o ∈ [0x78, 0x88, 0x140]) : t.blk x.ctx o = 0 := (hblk o).trans (installBlock_blk_dispatcher (aligned_imageWords x.data) ho)
  exact ⟨hresponses, hrings, hbobbins, (ctxState_congr hblocks _).trans installBlock_state, hzero (by decide), hzero (by decide), hzero (by decide),
    fun o ho => (hblk o).trans (installed_words hlen x.ctx o ho), State.byte_congr _ _ (hmem.trans installBlock_mem)⟩

end

/-! Parameters and pre-emption -/

section
variable {s : State}

theorem dispatcherParameterWrite_set {d : Die} (h : (s.die s.input.die).setParameter s.input.index s.input.value = some d) :
    RunsTo s .dispatcherParameterWrite ((s.setDie s.input.die d).respond "DISPATCHER_PARAMETER_WRITE" 0 []) := by
  refine runsTo_of_once (exec_dispatcherParameterWrite s) ?_
  rw [h]
  rfl

theorem dispatcherParameterWrite_refused (h : (s.die s.input.die).setParameter s.input.index s.input.value = none) :
    RunsTo s .dispatcherParameterWrite (s.respond "DISPATCHER_PARAMETER_WRITE" 1 []) := by
  refine runsTo_of_once (exec_dispatcherParameterWrite s) ?_
  rw [h]
  rfl

theorem preemptCommand_bound (h : s.ctxState s.input.ctx = 2) :
    RunsTo s .preemptCommand ((s.updExtra s.input.ctx fun y => { y with wanted := true }).respond "PREEMPT_COMMAND" 0 []) := by
  refine runsTo_of_once (exec_preemptCommand s) ?_
  exact if_pos h

theorem preemptCommand_refused (h : s.ctxState s.input.ctx ≠ 2) : RunsTo s .preemptCommand (s.respond "PREEMPT_COMMAND" 7 []) := by
  refine runsTo_of_once (exec_preemptCommand s) ?_
  exact if_neg h

end

/-! ## The commands on blocks together -/

/-- A dispatcher parameter takes a value of its range, and no other (R336). -/
theorem dispatcherParameterWrite_range {s : State} {lo hi : Nat} {d : Die}
    (h : (s.input.index, lo, hi, d) ∈ [(0, 0, 900, { s.die s.input.die with ubound := s.input.value }),
      (1, 0, 8192, { s.die s.input.die with bcap := s.input.value }), (2, 1, 2 ^ 24, { s.die s.input.die with starve := s.input.value }),
      (3, 4096, 2 ^ 24, { s.die s.input.die with quant := s.input.value })]) :
    (s.die s.input.die).setParameter s.input.index s.input.value = if lo ≤ s.input.value ∧ s.input.value ≤ hi then some d else none := by
  simp only [List.mem_cons, List.not_mem_nil, or_false, Prod.mk.injEq] at h
  obtain ⟨hindex, rfl, rfl, rfl⟩ | ⟨hindex, rfl, rfl, rfl⟩ | ⟨hindex, rfl, rfl, rfl⟩ | ⟨hindex, rfl, rfl, rfl⟩ := h
  all_goals simp [hindex, Die.setParameter]

/-- Settles O51: writes by the reasons of R340 and the words they leave, contracts by their terms, retirement, the clearing of a fault and
installation by what each keeps. -/
theorem blockCommands : Obligations.BlockCommands := by
  unfold Obligations.BlockCommands
  intro s c x runs waits done reason P B D cost shape home place legal terms
  refine ⟨?word, ?outside, ?fields, ?read, fun hc hlegal hshape h1 => ?submission, fun hc hlegal => ?withdrawal, fun d lo hi hd => ⟨?set, ?range⟩,
    fun hc => ⟨?retire, ?retireWaits, ?retireRefused, ?clear, ?clearRefused, fun hdata => ?install⟩, preemptCommand_bound, preemptCommand_refused⟩
  case word =>
    exact fun hc hlen => ⟨controlBlockWrite_address hc hlen, controlBlockWrite_address_large hc hlen, controlBlockWrite_lockedWord hc hlen,
      controlBlockWrite_entrySets hc hlen⟩
  case outside => exact controlBlockWrite_outside
  case fields =>
    intro w hc hindex hlen hend r hr
    refine ⟨fun hr4 => controlBlockWrite_runs hc hindex hlen hend (writeFields_refused _ hr hr4), fun hr4 hnew => ?_⟩
    obtain ⟨hterms, hcontract, hwords⟩ := putBlock_withoutTerms (s := s) (c := c) (aligned_blockWords hindex x.data)
    exact ⟨_, controlBlockWrite_runs hc hindex hlen hend (writeFields_terms _ hr hr4 hnew), State.byte_congr _ _ putBlock_mem, hterms, hcontract, hwords⟩
  case read => exact runsTo_of_once (exec_controlBlockRead s) rfl
  case submission =>
    have hB : fieldNat x.data 0 8 < 2 ^ 64 := fieldNat_lt _ _ 8
    have hreason := writeReason_submission_terms hlegal hshape hB h1
    have hruns (r : Nat) (h : s.writeReason c (submission s c (fieldNat x.data 0 8) (fieldNat x.data 8 8)) = some r) :
        reason .contractSubmission "CONTRACT_SUBMISSION" r := contractSubmission_runs hc (writeBlock_refused _ h)
    refine ⟨fun hterms => hruns 1 ?_, fun hterms hcost => hruns 5 ?_, fun hterms hcost htable => hruns 4 ?_, fun hterms hcost htable halone => ?_⟩
    · rw [hreason, if_neg hterms]
    · rw [hreason, if_pos hterms, if_pos hcost]
    · rw [hreason, if_pos hterms, if_neg (Nat.not_lt.2 hcost), if_pos htable]
    have hadm := hreason.trans ((if_pos hterms).trans ((if_neg (Nat.not_lt.2 hcost)).trans ((if_neg (Nat.not_le.2 htable)).trans
      (admissionReason_alone halone _))))
    rw [contractWrite_submission.merged_sched] at hadm
    refine ⟨fun hrate => hruns 2 (hadm.trans (if_pos hrate)),
      fun hrate hblock => hruns 3 (hadm.trans ((if_neg (Nat.not_lt.2 hrate)).trans (if_pos hblock))), fun hrate hblock => ?_⟩
    have haccept := hadm.trans ((if_neg (Nat.not_lt.2 hrate)).trans (if_neg (Nat.not_lt.2 hblock)))
    exact ⟨_, contractSubmission_runs hc (writeBlock_accepted _ haccept contractWrite_submission.newState),
      putBlock_submission hB (h1.trans (by decide))⟩
  case withdrawal =>
    exact ⟨_, contractWithdrawal_runs hc (writeBlock_accepted _ (writeReason_withdrawal hlegal) contractWrite_withdrawal.newState),
      putBlock_withdrawal⟩
  case set => exact fun hlo hhi => dispatcherParameterWrite_set ((dispatcherParameterWrite_range hd).trans (if_pos ⟨hlo, hhi⟩))
  case range =>
    refine fun hout => dispatcherParameterWrite_refused ((dispatcherParameterWrite_range hd).trans (if_neg fun ⟨hlo, hhi⟩ => ?_))
    exact hout.elim hlo.not_gt hhi.not_gt
  case retire =>
    intro hbound hret hsaved hwait
    refine ⟨s.retireCtx c, (microContextRetire_runs hc hbound hret hsaved).1 hwait, retireCtx_state s c, fun p hp => ?_,
      fun d hd => retireCtx_untranslated s c hd⟩
    rw [retireCtx_keys] at hp
    simpa using (List.mem_filter.1 hp).2
  case retireWaits => exact fun hbound hret hsaved hwait => (microContextRetire_runs hc hbound hret hsaved).2 hwait
  case retireRefused => exact microContextRetire_refused
  case clear =>
    intro hfault hsaved hqueue
    exact ⟨clearedFault s c, faultClear_runs hc hfault hsaved hqueue, ctxState_setCtxState .., clearedFault_parked s c, clearedFault_pool s c,
      State.byte_congr _ _ (clearedFault_mem s c)⟩
  case clearRefused => exact faultClear_refused
  case install =>
    intro words
    refine ⟨fun hret hreason hwait _ => ⟨_, (controlBlockInstall_outcome hc hdata hret hreason).2 hwait, installed_image x hdata⟩,
      fun hret hreason hwait => (controlBlockInstall_outcome hc hdata hret hreason).1 hwait, controlBlockInstall_refused hc hdata⟩

end Sys2Proof.Proofs

/-! # The request queue (15_queues.md): the queue words (R381, R382, R384, R385) -/

namespace Sys2Proof.Proofs
open Sys2Proof.Machine

/-! ## What an access leaves of the cores' jobs -/

theorem job_of_dies {s t : State} (h : t.dies = s.dies) (n : Nat) : t.job? n = s.job? n := by
  unfold State.job? State.core State.die
  rw [h]

@[simp] theorem setSlice_job (s : State) (d i : Nat) (x : Slice) (n : Nat) : (s.setSlice d i x).job? n = s.job? n :=
  State.job_updDie_cores _ _ _ _ fun _ => rfl

@[simp] theorem fillLine_job (s : State) (pa ctx n : Nat) : (s.fillLine pa ctx).job? n = s.job? n := by
  unfold State.fillLine
  dsimp only
  split <;> exact setSlice_job ..

@[simp] theorem dirtyLine_job (s : State) (pa n : Nat) : (s.dirtyLine pa).job? n = s.job? n := setSlice_job ..

@[simp] theorem throughPieces_job (s : State) (ps : List (Nat × Nat)) (ctx : Nat) (w : Bool) (n : Nat) :
    (s.throughPieces ps ctx w).job? n = s.job? n := by
  have hslices (t : State) (pa len : Nat) : (t.throughSlices pa len ctx w).job? n = t.job? n :=
    foldl_keeps (State.job? · n) _ _ _ fun a _ u => by
      split
      · rfl
      · split <;> simp
  have hleave : (s.leaveEngine ps).job? n = s.job? n :=
    foldl_keeps (State.job? · n) _ _ _ fun _ _ u => State.job_updDie_cores u _ _ _ fun _ => rfl
  exact (foldl_keeps (State.job? · n) _ _ _ fun p _ t => hslices t p.1 p.2).trans hleave

@[simp] theorem touch_job (s : State) (core ctx va n : Nat) : (s.touch core ctx va).job? n = s.job? n := by
  unfold State.touch
  dsimp only
  split
  · unfold State.job?
    rw [State.core_updCore]
    split
    · subst_vars; rfl
    · rfl
  · exact State.job_updDie_cores _ _ _ _ fun _ => rfl

theorem writeRegister_dies (ps : List (Nat × Nat × Bool)) (s : State) (bs : List Byte) : (s.writeRegister ps bs).dies = s.dies := by
  induction ps generalizing s bs with
  | nil => rfl
  | cons p ps ih =>
    rw [State.writeRegister, ih]
    split <;> rfl

theorem store_job {s t : State} {core ctx wid : Nat} {conf : Bool} {va : Nat} {bs : List Byte} (h : s.store core ctx wid conf va bs = .ok t)
    (n : Nat) : t.job? n = s.job? n := by
  unfold State.store at h
  split at h <;> try split at h
  all_goals cases h
  · rw [touch_job, job_of_dies State.writePieces_dies, throughPieces_job]
  · rw [touch_job, job_of_dies (writeRegister_dies ..), throughPieces_job]

/-- A write of the dispatcher in the queue area leaves every core's job. -/
theorem queueStore_job {s t : State} {ctx off : Nat} {bs : List Byte} (h : s.queueStore ctx off bs = .ok t) (n : Nat) : t.job? n = s.job? n := by
  unfold State.queueStore queueFault at h
  split at h
  · cases h
  · exact store_job h n

/-! ## The parts of a queue word -/

/-- Requests waiting: DTAIL − DHEAD, less 1 when CUR is 1 (R384). -/
theorem waiting_eq (q : QArea) : q.waiting = q.pending - if q.cur = 1 then 1 else 0 := by
  by_cases h : q.cur = 1 <;> simp [QArea.waiting, QArea.isCur, b2n, h]

theorem pending_empty {q : QArea} (h : q.dtail = q.dhead) : q.pending = 0 := by
  unfold QArea.pending
  omega

theorem nextToken_past {s : State} {ctx : Nat} {q : QArea} {x : QDesc} (h : x.tcount ≤ q.cpos) : s.nextToken ctx q x = .ok none :=
  if_neg (Nat.not_lt.2 h)

theorem nextToken_reads {s : State} {ctx : Nat} {q : QArea} {x : QDesc} {bs : List Byte} (h : q.cpos < x.tcount)
    (hload : s.queueLoad ctx (q.tokenOff ((x.tstart + q.cpos) % 2 ^ 32)) 4 = .ok bs) : s.nextToken ctx q x = .ok (some (leNat bs)) := by
  rw [State.nextToken, if_pos h, hload, Access.bind]

theorem nextRequest_empty {s : State} {ctx : Nat} {q : QArea} (h : q.pending = 0) (cycle : Nat) :
    s.nextRequest ctx q none cycle = .ok (s, allOnes) := by
  rw [State.nextRequest, Access.bind]
  dsimp only
  rw [if_pos h, allOnes]

/-- With no current request, NEXT makes descriptor DHEAD current and opens its reply stream; it changes neither a die nor memory beyond its
write of the header (R382). -/
theorem nextRequest_takes {s s1 : State} {ctx : Nat} {q : QArea} {bs : List Byte} (hp : q.pending ≠ 0)
    (hload : s.queueLoad ctx (q.descOff q.dhead) 64 = .ok bs) (hstore : s.queueStore ctx 0 { q with cur := 1, cpos := 0 }.bytes = .ok s1)
    (cycle : Nat) :
    ∃ t, s.nextRequest ctx q none cycle = .ok (t, (QDesc.ofBytes bs).reqid) ∧ t.hub = (s1.openStream ctx (QDesc.ofBytes bs)).hub ∧
      t.dies = s1.dies ∧ t.mem = s1.mem := by
  have hrun : s.nextRequest ctx q none cycle = .ok (if q.dhead = (s1.extra ctx).bindDesc
      then (s1.openStream ctx (QDesc.ofBytes bs)).updExtra ctx fun y => { y with servedDesc := true }
      else s1.openStream ctx (QDesc.ofBytes bs), (QDesc.ofBytes bs).reqid) := by
    rw [State.nextRequest, Access.bind]
    dsimp only
    rw [if_neg hp, State.descAt, hload]
    dsimp only [Access.bind]
    rw [hstore]
  exact ⟨_, hrun, by split <;> rfl, by split <;> rfl, by split <;> rfl⟩

/-- The job that a word leaves is the same of any state it was placed in. -/
theorem issued_job (s t : State) (n : Nat) (sel : Sel) (k : Job) : (t.issued n sel k).job? n = (s.issued n sel k).job? n := by
  simp only [State.issued, State.job_unstalled, State.job_setJob_same]

theorem stream_of_hub {s t : State} (h : t.hub = s.hub) (ctx : Nat) : t.stream? ctx = s.stream? ctx := by
  unfold State.stream?
  rw [h]

/-- The stream opened of a descriptor is the micro-context's where it had none, and nothing is accepted, stopped or released yet (R370). -/
theorem stream_openStream {s : State} {ctx : Nat} (h : s.stream? ctx = none) (x : QDesc) :
    ∃ r, (s.openStream ctx x).stream? ctx = some r ∧ r.maxtok = x.maxtok ∧ r.accepted = 0 ∧ r.stopped = none ∧ r.offset = 0 := by
  unfold State.stream? at h
  unfold State.stream? State.openStream
  dsimp only
  rw [List.find?_append, h, Option.none_or]
  split <;> exact ⟨_, List.find?_cons_of_pos (decide_eq_true rfl), rfl, rfl, rfl, rfl⟩

/-! ## Reads of the current request (R382) -/

/-- What a word that reads the current request answers: `next` at NEXT, `token` at TOK, the field IDX names elsewhere, and all ones where
no request is current. -/
def readRequest (next : Access (State × Option Nat)) (token : QDesc → Access (State × Option Nat)) (s : State) :
    Nat → Option QDesc → Access (State × Option Nat)
  | 1, _ => next
  | _, none => .ok (s, some allOnes)
  | 0, some x => token x
  | k, some x => .ok (s, some (queueField x k))

/-- `qget` at TOK: the token, with CPOS advanced past it. -/
def takeToken (s : State) (ctx : Nat) (q : QArea) (x : QDesc) : Access (State × Option Nat) :=
  (s.nextToken ctx q x).bind fun
    | none => .ok (s, some allOnes)
    | some v => (s.queueStore ctx 0x14 (leBytes 4 (q.cpos + 1))).bind fun s1 => .ok (s1, some v)

/-- `qget` reads the current request: it takes the token at TOK, and the next request at NEXT. -/
theorem exec_qget_reads (f : SX) (s : State) : exec (.qget f) s = runQueue (.qget f) f s fun _ j q d =>
    readRequest ((s.nextRequest j.ctx q d (s.cycle (homeDie j.ctx))).bind fun p => .ok (p.1, some p.2)) (takeToken s j.ctx q) s
      f.idx.toNat d := rfl

/-- `qpeek` answers what `qget` would, and leaves the state. -/
theorem exec_qpeek_reads (f : SX) (s : State) : exec (.qpeek f) s = runQueue (.qpeek f) f s fun _ j q d =>
    readRequest ((s.nextRequest j.ctx q d (s.cycle (homeDie j.ctx))).bind fun p => .ok (s, some p.2))
      (fun x => (s.nextToken j.ctx q x).bind fun t => .ok (s, some (t.getD allOnes))) s f.idx.toNat d := rfl

/-- The reads that leave the queue as it is, with what they return. -/
inductive QuietRead (q : QArea) : Nat → Option QDesc → Nat → Prop
  | noRequest (k : Nat) : k ≠ 1 → QuietRead q k none allOnes
  | noneWaiting : q.pending = 0 → QuietRead q 1 none allOnes
  | noToken (x : QDesc) : x.tcount ≤ q.cpos → QuietRead q 0 (some x) allOnes
  | field (x : QDesc) (k : Nat) : 2 ≤ k → QuietRead q k (some x) (queueField x k)

/-- The fields of R382 by their number. -/
theorem quietRead_field (q : QArea) {x : QDesc} {k : BitVec 12} {v : Nat} (h : (k, v) ∈ [((2 : BitVec 12), x.maxtok), (3, x.temp), (4, x.topp),
    (5, x.topk), (6, x.seed), (7, x.stopw), (8, x.tcount), (9, x.reqid)]) : QuietRead q k.toNat (some x) v := by
  simp only [List.mem_cons, Prod.mk.injEq, List.not_mem_nil, or_false] at h
  obtain ⟨rfl, rfl⟩ | ⟨rfl, rfl⟩ | ⟨rfl, rfl⟩ | ⟨rfl, rfl⟩ | ⟨rfl, rfl⟩ | ⟨rfl, rfl⟩ | ⟨rfl, rfl⟩ | ⟨rfl, rfl⟩ := h
  all_goals exact .field x _ (by decide)

/-- A quiet read answers its value, where NEXT with no request and TOK past the last token do. -/
theorem readRequest_quiet {q : QArea} {k : Nat} {d : Option QDesc} {v : Nat} {s : State} {next : Access (State × Option Nat)}
    {token : QDesc → Access (State × Option Nat)} (hr : QuietRead q k d v) (hnext : d = none → q.pending = 0 → next = .ok (s, some allOnes))
    (htoken : ∀ x, x.tcount ≤ q.cpos → token x = .ok (s, some allOnes)) : readRequest next token s k d = .ok (s, some v) := by
  cases hr with
  | noRequest k hk =>
    rcases k with _ | _ | k
    · rfl
    · contradiction
    · rfl
  | noneWaiting hp => exact hnext rfl hp
  | noToken x hpast => exact htoken x hpast
  | field x k hk =>
    obtain ⟨k, rfl⟩ := Nat.exists_eq_add_of_le' hk
    rfl

/-! ## A queue word at issue -/

section
variable {s : State} {n : Nat} {sel : Sel} {j : Job} {f : SX} {q : QArea} {d : Option QDesc}

/-- A queue word whose run answers writes the answer to `s[D]`. -/
theorem runQueue_answers {i : Instr} {body : Nat → Job → QArea → Option QDesc → Access (State × Option Nat)} {t : State} {v : Nat}
    (h : AtIssue s n sel j i f.g [f.d.toNat, f.a.toNat] []) (hq : s.queueArea j.ctx = .ok (q, d)) (hb : body n j q d = .ok (t, some v))
    (hj : t.job? n = some j) : runQueue i f s body = .next (t.issued n sel (j.ws f.d.toNat (BitVec.ofNat 64 v))) := by
  rw [runQueue, runWord_atIssue h, hq]
  simp only [Access.bind, hb, State.updJob_of_job t n j hj, State.updJob_setJob, State.setJob_setJob, State.issued]

/-- A quiet read of `qget` or `qpeek` writes its value to `s[D]` and changes nothing else (R382). -/
theorem exec_quietRead {i : Instr} {v : Nat} (hi : i ∈ [Instr.qget f, .qpeek f]) (h : AtIssue s n sel j i f.g [f.d.toNat, f.a.toNat] [])
    (hq : s.queueArea j.ctx = .ok (q, d)) (hr : QuietRead q f.idx.toNat d v) :
    exec i s = .next (s.issued n sel (j.ws f.d.toNat (BitVec.ofNat 64 v))) := by
  simp only [List.mem_cons, List.not_mem_nil, or_false] at hi
  rcases hi with rfl | rfl
  case inl =>
    rw [exec_qget_reads]
    refine runQueue_answers h hq (readRequest_quiet hr ?_ ?_) h.job
    · rintro rfl hp
      rw [nextRequest_empty hp, Access.bind]
    · intro x hpast
      rw [takeToken, nextToken_past hpast, Access.bind]
  case inr =>
    rw [exec_qpeek_reads]
    refine runQueue_answers h hq (readRequest_quiet hr ?_ ?_) h.job
    · rintro rfl hp
      rw [nextRequest_empty hp, Access.bind]
    · intro x hpast
      rw [nextToken_past hpast, Access.bind, Option.getD_none]

/-! TOK with a token left -/

section
variable {x : QDesc} {bs : List Byte} (hq : s.queueArea j.ctx = .ok (q, some x)) (hk : f.idx.toNat = 0) (hx : q.cpos < x.tcount)
  (hload : s.queueLoad j.ctx (q.tokenOff ((x.tstart + q.cpos) % 2 ^ 32)) 4 = .ok bs)
include hq hk hx hload

theorem exec_qget_token {s1 : State} (h : AtIssue s n sel j (.qget f) f.g [f.d.toNat, f.a.toNat] [])
    (hstore : s.queueStore j.ctx 0x14 (leBytes 4 (q.cpos + 1)) = .ok s1) :
    exec (.qget f) s = .next (s1.issued n sel (j.ws f.d.toNat (BitVec.ofNat 64 (leNat bs)))) := by
  rw [exec_qget_reads, hk]
  refine runQueue_answers h hq ?_ ((queueStore_job hstore n).trans h.job)
  rw [readRequest, takeToken, nextToken_reads hx hload, Access.bind]
  dsimp only
  rw [hstore, Access.bind]

theorem exec_qpeek_token (h : AtIssue s n sel j (.qpeek f) f.g [f.d.toNat, f.a.toNat] []) :
    exec (.qpeek f) s = .next (s.issued n sel (j.ws f.d.toNat (BitVec.ofNat 64 (leNat bs)))) := by
  rw [exec_qpeek_reads, hk]
  refine runQueue_answers h hq ?_ h.job
  rw [readRequest, nextToken_reads hx hload, Access.bind, Option.getD_some]

end

/-! NEXT with no current request and one waiting -/

section
variable {bs : List Byte} {s1 : State} (hq : s.queueArea j.ctx = .ok (q, none)) (hk : f.idx.toNat = 1) (hp : q.pending ≠ 0)
  (hload : s.queueLoad j.ctx (q.descOff q.dhead) 64 = .ok bs) (hstore : s.queueStore j.ctx 0 { q with cur := 1, cpos := 0 }.bytes = .ok s1)
include hq hk hp hload hstore

theorem exec_qget_next (hopen : s1.stream? j.ctx = none) (h : AtIssue s n sel j (.qget f) f.g [f.d.toNat, f.a.toNat] []) :
    let x := QDesc.ofBytes bs
    ∃ t r, exec (.qget f) s = .next t ∧ t.job? n = (s.issued n sel (j.ws f.d.toNat (BitVec.ofNat 64 x.reqid))).job? n ∧
      t.stream? j.ctx = some r ∧ r.maxtok = x.maxtok ∧ r.accepted = 0 ∧ r.stopped = none ∧ r.offset = 0 ∧ ∀ a, t.byte a = s1.byte a := by
  intro x
  obtain ⟨t, hnext, hhub, hdies, hmem⟩ := nextRequest_takes hp hload hstore (s.cycle (homeDie j.ctx))
  obtain ⟨r, hr, hfields⟩ := stream_openStream hopen x
  have hj : t.job? n = some j := ((job_of_dies hdies n).trans (queueStore_job hstore n)).trans h.job
  have hrun : exec (.qget f) s = .next (t.issued n sel (j.ws f.d.toNat (BitVec.ofNat 64 x.reqid))) := by
    rw [exec_qget_reads, hk]
    refine runQueue_answers h hq ?_ hj
    rw [readRequest, hnext, Access.bind]
  have hissued := onlyJob_issued t n sel (j.ws f.d.toNat (BitVec.ofNat 64 x.reqid))
  have hstream := (stream_of_hub (hissued.hub.trans hhub) j.ctx).trans hr
  obtain ⟨hmax, hacc, hstop, hoff⟩ := hfields
  exact ⟨_, r, hrun, issued_job .., hstream, hmax, hacc, hstop, hoff, fun a => (hissued.bytes a).trans (State.byte_congr _ _ hmem a)⟩

theorem exec_qpeek_next (h : AtIssue s n sel j (.qpeek f) f.g [f.d.toNat, f.a.toNat] []) :
    exec (.qpeek f) s = .next (s.issued n sel (j.ws f.d.toNat (BitVec.ofNat 64 (QDesc.ofBytes bs).reqid))) := by
  obtain ⟨t, hrun, -, -, -⟩ := nextRequest_takes hp hload hstore (s.cycle (homeDie j.ctx))
  rw [exec_qpeek_reads, hk]
  refine runQueue_answers h hq ?_ h.job
  rw [readRequest, hrun, Access.bind]

end

/-! The length of the queue, and the wait for a request -/

theorem exec_qlen_answers (h : AtIssue s n sel j (.qlen f) f.g [f.d.toNat, f.a.toNat] []) (hq : s.queueArea j.ctx = .ok (q, d)) :
    exec (.qlen f) s = .next (s.issued n sel (j.ws f.d.toNat (BitVec.ofNat 64
      (if f.idx.toNat = 0 then q.waiting else d.elim 0 fun x => x.tcount - q.cpos)))) := by
  rw [exec_qlen, execQlen]
  refine runQueue_answers h hq ?_ h.job
  cases d <;> rfl

/-- A wait that a request or its limit ends returns how many requests wait. -/
theorem runQwait_returns {i : Instr} {late : Nat → Bool} (h : AtIssue s n sel j i f.g [f.d.toNat] []) (hq : s.queueArea j.ctx = .ok (q, d))
    (hend : q.waiting ≠ 0 ∨ late (s.cycle (n / 16) - j.waitFrom.getD (s.cycle (n / 16))) = true) :
    runQwait i f s late = .next (s.issued n sel ({ j with waitFrom := none }.ws f.d.toNat (BitVec.ofNat 64 q.waiting))) := by
  refine runWord_done h ?_
  rw [hq]
  exact if_pos (by simpa [Nat.pos_iff_ne_zero] using hend)

/-- Any other wait goes on, from its first issue. -/
theorem runQwait_holds {i : Instr} {late : Nat → Bool} (h : AtIssue s n sel j i f.g [f.d.toNat] []) (hq : s.queueArea j.ctx = .ok (q, d))
    (hnone : q.waiting = 0) (hearly : late (s.cycle (n / 16) - j.waitFrom.getD (s.cycle (n / 16))) = false) :
    runQwait i f s late = .next (s.setJob n { j with waitFrom := some (j.waitFrom.getD (s.cycle (n / 16))) }) := by
  refine runWord_stay h ?_
  rw [hq]
  exact if_neg (by simp [hnone, hearly])

end

/-! ## Words that are refused -/

/-- A fate of cause 0x01 wins over those of 0x02 (R52). -/
theorem fateCause_of_mem {l : List Nat} (h : 1 ∈ l) : fateCause l = some 1 := if_pos (by simpa using h)

/-- An illegal word traps with the cause of its fates and its own bits (R52, R184). -/
theorem runWord_illegal {s : State} {n : Nat} {sel : Sel} {j : Job} {i : Instr} {c : Nat} (hturn : s.turn = .stream n sel)
    (hj : s.job? n = some j) (hfree : j.mayIssue sel = true) (hheld : j.trapHeld sel = false) (hc : fateCause i.fates = some c) (g : Guard)
    (regs preds : List Nat) (body : Nat → Sel → Job → Act) : runWord i g regs preds s body = .next (s.takeTrap n sel (wordTrap c 0 i)) := by
  simp [runWord, hturn, hj, hfree, hheld, hc]

theorem qlen_illegal {f : SX} (h : 1 < f.idx.toNat) : fateCause (Instr.qlen f).fates = some 0x01 :=
  fateCause_of_mem (List.mem_append_right _ (by simp [fate, h]))

/-! ## The queue words together -/

/-- Settles O22: the quiet reads as one, TOK and NEXT by what the accesses of the queue area answer, and a wait by whether it ends. -/
theorem queueWords : Obligations.QueueWords := by
  unfold Obligations.QueueWords
  refine ⟨?read, ?wait, ?illegal⟩
  case read =>
    intro s n sel j f q d named ones answers hq
    refine ⟨fun i hi h => ⟨?none, fun x hd => ⟨?past, ?field⟩, ?empty⟩, fun x bs s1 hk hd hx hload hstore => ?token,
      fun bs s1 hk hd hp hload => ?next, fun h => ?len⟩
    case none =>
      rintro hk rfl
      exact exec_quietRead hi h hq (.noRequest _ fun hk1 => hk (BitVec.eq_of_toNat_eq hk1))
    case past =>
      subst hd
      exact fun hk hpast => exec_quietRead hi h hq (by rw [hk]; exact .noToken x hpast)
    case field =>
      subst hd
      rintro _ v rfl hv
      exact exec_quietRead hi h hq (quietRead_field q hv)
    case empty =>
      rintro hk rfl hpe
      exact exec_quietRead hi h hq (by rw [hk]; exact .noneWaiting (pending_empty hpe))
    case token =>
      subst hd
      have hk0 : f.idx.toNat = 0 := by rw [hk]; rfl
      exact ⟨fun h => exec_qget_token hq hk0 hx hload h hstore, fun h => exec_qpeek_token hq hk0 hx hload h⟩
    case next =>
      intro x hstore hopen
      subst hd
      have hk1 : f.idx.toNat = 1 := by rw [hk]; rfl
      exact ⟨exec_qget_next hq hk1 hp hload hstore hopen, exec_qpeek_next hq hk1 hp hload hstore⟩
    case len =>
      have hrun := exec_qlen_answers h hq
      refine ⟨fun hk => ?_, fun hk => ?_⟩
      · rw [hk, waiting_eq] at hrun
        exact hrun
      · rw [hk] at hrun
        cases d <;> exact hrun
  case wait =>
    intro s n sel j f q d now waits returns hq
    have hwaiting : q.waiting = waits := waiting_eq q
    refine ⟨fun i hi h hw => ?request, fun h hw => ?hold, fun h hw => ⟨fun hl => ?limit, fun hl => ?early⟩⟩
    case request =>
      simp only [List.mem_cons, List.not_mem_nil, or_false] at hi
      rw [← hwaiting] at hw
      rcases hi with rfl | rfl
      · exact (exec_qwait f s).trans (hwaiting ▸ runQwait_returns h hq (.inl hw))
      · exact (exec_qwaitTimeout f s).trans (hwaiting ▸ runQwait_returns h hq (.inl hw))
    case hold => exact (exec_qwait f s).trans (runQwait_holds h hq (hwaiting.trans hw) rfl)
    case limit =>
      have hrun := runQwait_returns (late := fun c => c ≥ f.imm.toNat) h hq (.inr (decide_eq_true hl))
      rw [hwaiting, hw] at hrun
      exact (exec_qwaitTimeout f s).trans hrun
    case early => exact (exec_qwaitTimeout f s).trans (runQwait_holds h hq (hwaiting.trans hw) (decide_eq_false (Nat.not_le.2 hl)))
  case illegal =>
    intro s n sel j f hidx hturn hj hfree hheld
    exact (exec_qlen f s).trans (runWord_illegal hturn hj hfree hheld (qlen_illegal hidx) ..)

end Sys2Proof.Proofs
